-- ==== Sys2Proof/Word.lean ====
section
/-! DEFINITION. The word types of the SQ32 model and their plainest arithmetic. -/

-- Declarations are elaborated one after another: side by side, each would hold a thread and its stack.
set_option Elab.async false

namespace Sys2Proof

/-- One byte of a memory, a frame or a port beat. -/
abbrev Byte := BitVec 8
/-- A half word: an error code, a job id. -/
abbrev W16 := BitVec 16
/-- A configuration word, a scalar register, one vector lane (R16, R179). -/
abbrev W32 := BitVec 32
/-- A digest word (R322), a DIGEST entry, a ledger ARG. -/
abbrev W64 := BitVec 64

/-- Ceiling division on numbers (0 for a zero divisor). -/
def ceilDiv (a b : Nat) : Nat := (a + b - 1) / b

/-- Adds with saturation at `top` (the saturating counters of R386, R444, R488, R585, R625). -/
def satAdd (top a b : Nat) : Nat := min top (a + b)

end Sys2Proof
end

