-- ==== Sys2Proof/Syntax.lean ====
section
/-! DEFINITION. The commands of the block: one constructor for each row of spec/opcode_table.json.
An operand is what the row's event is about (a ring, a core and thread, a stream) or what the
surroundings supply with it (a register value, a port response, a frame, a physical outcome: whether the shadow core
agreed, which granted cores begin later, which locked lines failed their read-back). A flit is named by the link it
crosses, its access (0 store, 1 load, 2 acknowledgement) and the access's source and destination cores. An operand with a
default is last, and the default is the plain case: no core held back, the shadow core agreed, no line failed. -/

-- Declarations are elaborated one after another: side by side, each would hold a thread and its stack.
set_option Elab.async false

namespace Sys2Proof

/-- A frame as a link received it: what R545 judges, then the Gipilvo bytes of R551 after the EtherType. -/
structure RxFrame where
  fcsOk     : Bool
  dst       : Nat
  tagged    : Bool
  vid       : Nat
  etherType : Nat
  bytes     : List Byte
  deriving DecidableEq, Repr

/-- One ECC finding (R372, R373): the memory (0 WS, 1 AS, 2 plinth, 3 state store, 4 context table,
5 function tables, 6 Atelier SRAM, 7 control-core latches), the core, the line (for 3 and 4: the stream),
the 16-byte granule in the line, whether it is uncorrectable, and whether it persists after the rewrite. -/
structure EccFinding where
  mem           : Nat
  core          : Nat
  line          : Nat
  granule       : Nat
  uncorrectable : Bool
  persists      : Bool
  deriving DecidableEq, Repr

/-- The commands (spec/opcode_table.json, row by row). -/
inductive Instr where
  -- descriptors
  | step (ring : Nat) | chunk (ring : Nat) | biwin (ring : Nat)
  | bind (ring : Nat) | release (ring : Nat) | fill (ring : Nat) | spill (ring : Nat)
  | wload (ring : Nat) | tload (ring : Nat) | tfence (ring : Nat)
  | fence (ring : Nat) | kill (ring : Nat) | nop (ring : Nat)
  -- management requests
  | tableRead (ring : Nat) | streamDrift (ring : Nat) | streamRestore (ring : Nat) | winCounts (ring : Nat)
  | challenge (ring : Nat) | auth (ring : Nat) | close (ring : Nat) | attest (ring : Nat)
  | propose (ring : Nat) | countersign (ring : Nat) | withdraw (ring : Nat) | perfRead (ring : Nat)
  | retireRead (ring : Nat) | retire (ring : Nat) | castRegion (ring : Nat)
  -- ring fetcher and scheduler
  | doorbellPollTimer | nudge | doorbellPageRead
  | descriptorFetch (ring : Nat) | batchListRead (ring seq : Nat)
  | descriptorResume (ring seq : Nat) | coresGranted (hold : Nat := 0) | coreStepEnd (core : Nat)
  | commitPoint (ring seq : Nat) | deadlinePassed (ring seq : Nat)
  -- Armature
  | fillVerified (stream : Nat) | fillFailed (stream : Nat)
  | spillWritesAccepted (stream : Nat) | spillFail (stream : Nat)
  | pageZeroed (page : Nat) | digestPassDone (stream : Nat)
  | contextPatrol (ctxBad stateBad : List Nat)
  -- memory ports and ledger
  | portReadResponse (port id : Nat) (data : List Byte) (status : Nat) (poison : Bool) (tags : List Byte)
  | portWriteResponse (port id status : Nat)
  | retryBudgetExpiry (port id : Nat) | ledgerEntryAccepted
  -- function tables
  | tloadDone (ring seq : Nat) | tfenceProcessed (ring seq : Nat)
  | bankSwitch (core : Nat) | resyncDone (core : Nat)
  -- step-program instructions
  | csrAccess (core thread : Nat) | baseInstruction (core thread : Nat) (shadowOk : Bool := true)
  | fadd (core thread : Nat) | fsub (core thread : Nat) | fmul (core thread : Nat) | fma (core thread : Nat)
  | fnma (core thread : Nat) | fmin (core thread : Nat) | fmax (core thread : Nat) | fsgnj (core thread : Nat)
  | iadd (core thread : Nat) | isub (core thread : Nat) | imul (core thread : Nat) | imin (core thread : Nat)
  | imax (core thread : Nat) | vand (core thread : Nat) | vor (core thread : Nat) | vxor (core thread : Nat)
  | vsll (core thread : Nat) | vsrl (core thread : Nat) | vsra (core thread : Nat)
  | fcmplt (core thread : Nat) | fcmple (core thread : Nat) | fcmpeq (core thread : Nat)
  | icmplt (core thread : Nat) | icmpeq (core thread : Nat)
  | fcvti (core thread : Nat) | icvtf (core thread : Nat) | fabs (core thread : Nat) | fneg (core thread : Nat)
  | vmov (core thread : Nat) | laneid (core thread : Nat) | vsplat (core thread : Nat) | vsel (core thread : Nat)
  | reduceFsum (core thread : Nat) | reduceFmax (core thread : Nat) | reduceFmin (core thread : Nat)
  | reduceIsum (core thread : Nat) | reduceImax (core thread : Nat) | reduceImin (core thread : Nat)
  | mpop (core thread : Nat) | mfirst (core thread : Nat)
  | mand (core thread : Nat) | mor (core thread : Nat) | mandn (core thread : Nat) | mxor (core thread : Nat)
  | mnot (core thread : Nat) | mset (core thread : Nat) | mclr (core thread : Nat)
  | vfn (core thread : Nat) | vgact (core thread : Nat)
  | vld (core thread : Nat) | vst (core thread : Nat) | prd (core thread : Nat) | pwr (core thread : Nat)
  | vlds (core thread : Nat) | vsts (core thread : Nat) | vrng (core thread : Nat) | vldb (core thread : Nat)
  | xmma (core thread : Nat) | xrel (core thread : Nat) | xchain (core thread : Nat) | xtally (core thread : Nat)
  | xstout (core thread : Nat) | xstin (core thread : Nat) | xstrd (core thread : Nat)
  | fetch (core thread : Nat) | store (core thread : Nat) | stage (core thread : Nat)
  | rfree (core thread : Nat) | wopen (core thread : Nat) | wclose (core thread : Nat)
  | xsetvl (core thread : Nat) | xwait (core thread : Nat) | xcnt (core thread : Nat) | xstart (core thread : Nat)
  | xend (core thread : Nat) | xjoin (core thread : Nat) | xfence (core thread : Nat) | xcset (core thread : Nat)
  -- thread, array and statistic events
  | threadWake (core thread : Nat) | xwaitLimit (core thread : Nat)
  | mmaComputeStart (core : Nat) | mmaDrainDone (core : Nat)
  | tallyCompute (core slot : Nat) | chainMerge (core chain : Nat)
  -- data movement
  | fetchPassComplete (port slot : Nat) | fetchLineLand (port slot : Nat) | sprueLineAccept (core : Nat)
  | gatherDrain (core line : Nat) | remoteStoreArrival (core : Nat) | remoteStoreAck (core : Nat)
  | meshFlitArrival (fromCore toCore : Nat) (ok replayOk : Bool) (kind src dst : Nat := 0)
  -- calipers, rates, timebase, watchdog
  | caliperComparison (core : Nat) (isMatch confirmMatch : Bool) (maquette : Bool := false) | probeCountReached (core : Nat)
  | trimProcedureDone (trims : List Nat) | brateWindowEnd (counts : List Nat)
  | timebaseUpdate (ns : Nat) (valid : Bool) | tbInvalid
  | stall (unit core inst : Nat) | codewordInvalid (unit core inst : Nat)
  -- safety
  | maquetteSchedule | maquetteForce (core : Nat) | maquetteDone (core : Nat) (ok : Bool) (unit : Nat)
  | safetyReactionStart | retestDone (core : Nat) (ok : Bool)
  | eccFinding (f : EccFinding) | patrolScrub (f : Option EccFinding) | lockScrubDone (core : Nat) (failed : List (Nat × Nat) := [])
  | fatalError (code : Nat) | castSectionWritten | castTimeout
  | sfAliveToggle (confirmed : Bool) | sfSafeReq
  -- peer ports
  | helloTimer | hello (link : Nat) (frame : RxFrame) | proof (link : Nat) (frame : RxFrame)
  | heartbeatTimer | heartbeat (link : Nat) (frame : RxFrame)
  | digestSendTimer | digest (link : Nat) (frame : RxFrame) | digestWaitExpiry (stream gen : Nat)
  | linkSilence (link pos : Nat) | rejoinReq (link : Nat) (frame : RxFrame) | rejoinPassStep
  | stateFrame (link : Nat) (frame : RxFrame) | held (link : Nat) (frame : RxFrame)
  | fillReq (link : Nat) (frame : RxFrame) | installAck (link : Nat) (frame : RxFrame)
  | spanData (link : Nat) (frame : RxFrame) | spanAck (link : Nat) (frame : RxFrame)
  | spanAckTimeout (sid : Nat) (link dst : Nat := 0) | spanHeldExpiry
  | frameDiscard (link : Nat) (frame : RxFrame)
  | gclEntryChange | linkFaultReceived (link kind : Nat) | ethTxClockStop (link : Nat)
  -- security and start-up
  | authLockoutExpiry | proposalExpiry | quiesceComplete | rngFail | telemetryWindow (power : Nat)
  | keyRecordReceived (record : List Byte) | keyRecordTimeout
  | selftestDone (badCores : List (Nat × Nat)) (sharedFault : Bool) | fwChecksDone (failedRetests : List Nat)
  -- configuration port
  | bootCtrlGo (value : W32) | stCtrlRetrim (value : W32) | stCtrlOpp (value : W32)
  | armtCtxSelWrite (value : W32) | numsigLoRead | ledgerSeqLoRead
  | sqEnable (ring : Nat) (value : W32) | sqDisable (ring : Nat) (value : W32)
  | cqEnable (ring : Nat) (value : W32) | cqDisable (ring : Nat) (value : W32)
  | irqPendClear (hi : Bool) (value : W32) | errqPendClear (value : W32)
  | safeStatusErrClear (value : W32) | pop (value : W32) | safeInjectGo (value : W32)
  | pair (value : W32) | rejoin (value : W32) | promote (value : W32) | demote (value : W32)
  | peerResyncGo (value : W32) | configWrite (offset : Nat) (value : W32)
  -- debug TAP and reset
  | bypass (bit : Bool) | idcode | sqstat | sqcfg (dr : BitVec 48) | sqmem (dr : BitVec 544) | sqhalt (bit : Bool)
  | tapReset | rstNFall | rstNRise | pwrOkFall
  -- arbitration
  | portRequestGrant (port id : Nat) (ready : Bool) | frameTransmitEnd (link : Nat)
  deriving DecidableEq, Repr

end Sys2Proof
end

