-- ==== Sys2Proof/Decode.lean ====
section
/-! DEFINITION. Commands that a word spells by the opcode table's bits. The table gives no row any bits (every row's "fields" is
empty), so no word spells a command. -/

-- Declarations are elaborated one after another: side by side, each would hold a thread and its stack.
set_option Elab.async false

namespace Sys2Proof

/-- The command whose bits are w: none, for no row gives bits. -/
def decodeTableWord (_nbits _w : Nat) : Option Instr := none

end Sys2Proof
end

