-- ==== Sys2Proof/Config.lean ====
section
/-! DEFINITION. What an implementation fixes, and the free values: constants without a body, about which nothing can be
proved. Each names the log entry that declares it. -/

-- Declarations are elaborated one after another: side by side, each would hold a thread and its stack.
set_option Elab.async false

namespace Sys2Proof

/-- The shipped image of built-in table `slot` in load format (R240, R244): the spec gives its form and its error bound,
not its coefficients (log entry 12). -/
opaque Config.shippedTable (slot : Nat) : List Byte

/-- The grade of the part, 1 or 2 (R756): true stands for grade 01h (log entry 13). -/
opaque Config.gradeOne : Bool

/-- The manufacturer field of IDCODE, tied off by the integrator (R709, R744; log entry 13). -/
opaque Config.tapMfg : BitVec 11

/-- Output number `n` of the random generator, 32 bytes (R634; log entry 14). -/
opaque Config.random (n : Nat) : List Byte

/-- Ed25519 verification of a signature over a message under a public key (R636; log entry 15). -/
opaque Config.ed25519Verify (key message signature : List Byte) : Bool

/-- The P-256 public point of a private scalar, uncompressed coordinates (R651; log entry 15). -/
opaque Config.p256Public (scalar : List Byte) : List Byte

/-- A P-256 ECDSA signature over a digest with the per-signature value k: r then s, 32 bytes each (R651; log entry 15). -/
opaque Config.p256Sign (scalar k digest : List Byte) : List Byte

/-- The P-256 shared secret of a scalar and a peer point (R654; log entry 15). -/
opaque Config.p256Shared (scalar point : List Byte) : List Byte

/-- Is a byte string a valid P-256 point (R654; log entry 15)? -/
opaque Config.p256Valid (point : List Byte) : Bool

/-- Draw `n` of a value the spec leaves open (log entry 9). -/
opaque Config.freeValue (n : Nat) : W32

/-- The weight b.n / n of a merge whose counts sum to zero, a function of b.n (log entry 28). -/
opaque Config.ratioOverZero (n : Int) : W32

/-- A mean or variance over a count of zero, a function of its dividend (log entry 28). -/
opaque Config.valueOverZero (x : W32) : W32

/-- The DETAIL of an error code for which the spec lays out none (log entry 9). -/
opaque Config.openDetail (code : W16) : W32

/-- The code of a sleep cause in a thread record of the cast dump (R703; log entry 9). -/
opaque Config.sleepCode (cause : Nat) : Byte

/-- The order in which the lines of a core memory fill the rows of its macros: two lines a row, 512 rows a macro, the lines
taken by rising key, equal keys by rising line (R375, R378; log entry 9). -/
opaque Config.rowKey (mem line : Nat) : Nat

end Sys2Proof
end

