-- ==== Sys2Proof/Machine/Bits.lean ====
section
/-! DEFINITION. Bit fields, little-endian packing, sign extension and the check sums the spec names: CRC-32 of
IEEE 802.3 (R228, R501) and CRC-64 of R322. -/

-- Declarations are elaborated one after another: side by side, each would hold a thread and its stack.
set_option Elab.async false

namespace Sys2Proof.Machine

/-- Bits [lo + w - 1 : lo] of a number. -/
def bitsOf (x lo w : Nat) : Nat := (x >>> lo) % 2 ^ w

/-- Bit `i` of a number. -/
def bitOf (x i : Nat) : Bool := x.testBit i

/-- Field [lo + w - 1 : lo] of a word, as a number. -/
def fld (x : W32) (lo w : Nat) : Nat := bitsOf x.toNat lo w

/-- Bit `i` of a word. -/
def bit (x : W32) (i : Nat) : Bool := x.getLsbD i

/-- A word from a number. -/
def w32 (n : Nat) : W32 := BitVec.ofNat 32 n
def w16 (n : Nat) : W16 := BitVec.ofNat 16 n
def w8 (n : Nat) : Byte := BitVec.ofNat 8 n

/-- A Bool as a bit. -/
def b2n (b : Bool) : Nat := if b then 1 else 0

/-- The number of a little-endian byte list (R59). -/
def leNat : List Byte → Nat
  | [] => 0
  | b :: bs => b.toNat + 256 * leNat bs

/-- `n` little-endian bytes of a number (R59). -/
def leBytes : Nat → Nat → List Byte
  | 0, _ => []
  | n + 1, x => w8 x :: leBytes n (x / 256)

/-- The number of a big-endian byte list. -/
def beNat (bs : List Byte) : Nat := leNat bs.reverse

/-- `n` big-endian bytes of a number. -/
def beBytes (n x : Nat) : List Byte := (leBytes n x).reverse

/-- `n` bytes at offset `o` of a byte list, zero beyond its end. -/
def sliceAt (bs : List Byte) (o n : Nat) : List Byte :=
  let s := (bs.drop o).take n
  s ++ List.replicate (n - s.length) 0

/-- Little-endian 32-bit word at byte offset `o`. -/
def word32 (bs : List Byte) (o : Nat) : Nat := leNat (sliceAt bs o 4)
/-- Little-endian 64-bit word at byte offset `o`. -/
def word64 (bs : List Byte) (o : Nat) : Nat := leNat (sliceAt bs o 8)

/-- All bytes at offsets lo to hi - 1 are zero. -/
def zeroRange (bs : List Byte) (lo hi : Nat) : Bool := ((bs.drop lo).take (hi - lo)).all (· == 0)

/-- Replaces bytes from offset `o`. -/
def patchBytes (bs : List Byte) (o : Nat) (p : List Byte) : List Byte :=
  bs.take o ++ p ++ bs.drop (o + p.length)

/-- The value of a two's-complement field of width `w`. -/
def signExt (w x : Nat) : Int := if bitOf x (w - 1) then (x : Int) - 2 ^ w else x

/-- Two's-complement bits of an integer in width `w`. -/
def toTwos (w : Nat) (x : Int) : Nat := (x % (2 ^ w : Int)).toNat

/-- ASCII bytes of a string. -/
def ascii (s : String) : List Byte := s.toList.map fun c => w8 c.toNat

/-- One step of the reflected CRC-32 register on one bit of input already folded in. -/
def crc32Bits : Nat → Nat → Nat
  | 0, c => c
  | n + 1, c => crc32Bits n (if c % 2 = 1 then (c / 2) ^^^ 0xEDB88320 else c / 2)

/-- CRC-32 of IEEE 802.3. -/
def crc32 (bs : List Byte) : Nat :=
  (bs.foldl (fun c b => crc32Bits 8 (c ^^^ b.toNat)) 0xFFFFFFFF) ^^^ 0xFFFFFFFF

/-- Eight steps of the CRC-64 of R322 (ECMA-182, most significant bit first). -/
def crc64Bits : Nat → Nat → Nat
  | 0, c => c
  | n + 1, c => crc64Bits n (if bitOf c 63 then ((c * 2) % 2 ^ 64) ^^^ 0x42F0E1EBA9EA3693 else c * 2)

/-- One byte into the CRC-64 register of R322. -/
def crc64Byte (c : Nat) (b : Byte) : Nat := crc64Bits 8 (c ^^^ (b.toNat * 2 ^ 56))

/-- The CRC-64 of R322: initial value zero, no reflection, no final XOR. -/
def crc64 (bs : List Byte) : Nat := bs.foldl crc64Byte 0

/-- The lowest number in 0 .. n-1 that satisfies `p`. -/
def lowest (n : Nat) (p : Nat → Bool) : Option Nat := (List.range n).find? p

/-- How many numbers in 0 .. n-1 satisfy `p`. -/
def countOf (n : Nat) (p : Nat → Bool) : Nat := ((List.range n).filter p).length

end Sys2Proof.Machine
end

