-- ==== Sys2Proof/Machine/Crypto.lean ====
section
/-! DEFINITION. The standard algorithms the spec names: SHA-256, HMAC, HKDF (R635, R652, R557), AES-256, XTS (R312),
AES-256-GCM (R655). Byte strings throughout. -/

-- Declarations are elaborated one after another: side by side, each would hold a thread and its stack.
set_option Elab.async false

namespace Sys2Proof.Machine

-- SHA-256 (FIPS 180-4) ------------------------------------------------------------------------------------------------

/-- Word `i` of the fractional parts of roots of the first primes, 32 bits each, the first prime's part uppermost of `n`. -/
def rootWord (packed n i : Nat) : W32 := w32 (packed >>> (32 * (n - 1 - i)))

/-- The fractional parts of the cube roots of the first 64 primes, one after another, and of the square roots of the first 8. -/
def cubeRootParts : Nat := 0x428a2f9871374491b5c0fbcfe9b5dba53956c25b59f111f1923f82a4ab1c5ed5d807aa9812835b01243185be550c7dc372be5d7480deb1fe9bdc06a7c19bf174e49b69c1efbe47860fc19dc6240ca1cc2de92c6f4a7484aa5cb0a9dc76f988da983e5152a831c66db00327c8bf597fc7c6e00bf3d5a7914706ca63511429296727b70a852e1b21384d2c6dfc53380d13650a7354766a0abb81c2c92e92722c85a2bfe8a1a81a664bc24b8b70c76c51a3d192e819d6990624f40e3585106aa07019a4c1161e376c082748774c34b0bcb5391c0cb34ed8aa4a5b9cca4f682e6ff3748f82ee78a5636f84c878148cc7020890befffaa4506cebbef9a3f7c67178f2
def squareRootParts : Nat := 0x6a09e667bb67ae853c6ef372a54ff53a510e527f9b05688c1f83d9ab5be0cd19

/-- The round constants. -/
def shaK : List W32 := (List.range 64).map (rootWord cubeRootParts 64)

/-- The eight working words. -/
structure Sha where
  a : W32
  b : W32
  c : W32
  d : W32
  e : W32
  f : W32
  g : W32
  h : W32
  deriving DecidableEq, Repr

def shaInit : Sha :=
  let p := rootWord squareRootParts 8
  { a := p 0, b := p 1, c := p 2, d := p 3, e := p 4, f := p 5, g := p 6, h := p 7 }

def rotr (x : W32) (n : Nat) : W32 := (x >>> n) ||| (x <<< (32 - n))

/-- The message schedule, newest word first. -/
def shaExpand : Nat → List W32 → List W32
  | 0, ws => ws
  | n + 1, ws =>
    let g := fun i => nth 0 ws i
    let s0 := rotr (g 14) 7 ^^^ rotr (g 14) 18 ^^^ (g 14 >>> 3)
    let s1 := rotr (g 1) 17 ^^^ rotr (g 1) 19 ^^^ (g 1 >>> 10)
    shaExpand n ((g 15 + s0 + g 6 + s1) :: ws)

def shaRound (s : Sha) (kw : W32 × W32) : Sha :=
  let s1 := rotr s.e 6 ^^^ rotr s.e 11 ^^^ rotr s.e 25
  let ch := (s.e &&& s.f) ^^^ (~~~s.e &&& s.g)
  let t1 := s.h + s1 + ch + kw.1 + kw.2
  let s0 := rotr s.a 2 ^^^ rotr s.a 13 ^^^ rotr s.a 22
  let mj := (s.a &&& s.b) ^^^ (s.a &&& s.c) ^^^ (s.b &&& s.c)
  ⟨t1 + s0 + mj, s.a, s.b, s.c, s.d + t1, s.e, s.f, s.g⟩

def shaBlock (s : Sha) (blk : List Byte) : Sha :=
  let w16s := (List.range 16).map fun i => w32 (beNat (sliceAt blk (4 * i) 4))
  let ws := (shaExpand 48 w16s.reverse).reverse
  let r := (shaK.zip ws).foldl shaRound s
  ⟨s.a + r.a, s.b + r.b, s.c + r.c, s.d + r.d, s.e + r.e, s.f + r.f, s.g + r.g, s.h + r.h⟩

def shaPad (n : Nat) : List Byte :=
  0x80 :: List.replicate ((119 - n % 64) % 64) 0 ++ beBytes 8 (8 * n)

def shaBlocks : Nat → Sha → List Byte → Sha
  | 0, s, _ => s
  | n + 1, s, bs => shaBlocks n (shaBlock s (bs.take 64)) (bs.drop 64)

def Sha.bytes (s : Sha) : List Byte :=
  [s.a, s.b, s.c, s.d, s.e, s.f, s.g, s.h].flatMap fun x => beBytes 4 x.toNat

def sha256 (m : List Byte) : List Byte :=
  let p := m ++ shaPad m.length
  (shaBlocks (p.length / 64) shaInit p).bytes

/-- HMAC-SHA-256 (FIPS 198-1). -/
def hmac (key m : List Byte) : List Byte :=
  let k := if key.length > 64 then sha256 key else key
  let k := k ++ List.replicate (64 - k.length) 0
  sha256 ((k.map (· ^^^ 0x5C#8)) ++ sha256 ((k.map (· ^^^ 0x36#8)) ++ m))

/-- HKDF-SHA-256 (RFC 5869) with at most 32 bytes of output. -/
def hkdf (salt ikm info : List Byte) (n : Nat) : List Byte := (hmac (hmac salt ikm) (info ++ [1])).take n

-- AES-256 (FIPS 197) ----------------------------------------------------------------------------------------------------

/-- The S-box and its inverse, byte i at bits [8i + 7 : 8i]. -/
def sboxNum : Nat := 0x16bb54b00f2d99416842e6bf0d89a18cdf2855cee9871e9b948ed9691198f8e19e1dc186b95735610ef6034866b53e708a8bbd4b1f74dde8c6b4a61c2e2578ba08ae7a65eaf4566ca94ed58d6d37c8e779e4959162acd3c25c2406490a3a32e0db0b5ede14b8ee4688902a22dc4f816073195d643d7ea7c41744975fec130ccdd2f3ff1021dab6bcf5389d928f40a351a89f3c507f02f94585334d43fbaaefd0cf584c4a39becb6a5bb1fc20ed00d153842fe329b3d63b52a05a6e1b1a2c830975b227ebe28012079a059618c323c7041531d871f1e5a534ccf73f362693fdb7c072a49cafa2d4adf04759fa7dc982ca76abd7fe2b670130c56f6bf27b777c63
def invSboxNum : Nat := 0x7d0c2155631469e126d677ba7e042b17619953833cbbebc8b0f52aae4d3be0a0ef9cc9939f7ae52d0d4ab519a97f51605fec8027591012b131c7078833a8dd1ff45acd78fec0db9a2079d2c64b3e56fc1bbe18aa0e62b76f89c5291d711af1476edf751ce837f9e28535ade72274ac9673e6b4f0cecff297eadc674f4111913a6b8a130103bdafc1020f3fca8f1e2cd00645b3b80558e4f70ad3bc8c00abd890849d8da75746155edab9edfd5048706c92b6655dcc5ca4d41698688664f6f87225d18b6d49a25b76b224d92866a12e084ec3fa420b954cee3d23c2a632947b54cbe9dec444438e3487ff2f9b8239e37cfbd7f3819ea340bf38a53630d56a0952
def sub (x : Byte) : Byte := w8 (sboxNum >>> (8 * x.toNat))
def invSub (x : Byte) : Byte := w8 (invSboxNum >>> (8 * x.toNat))

def xtime (x : Byte) : Byte := (x <<< 1) ^^^ (if x.getLsbD 7 then 0x1B else 0)
/-- Product in GF(2^8) by a constant below 16. -/
def gmul (x : Byte) (k : Nat) : Byte :=
  let x2 := xtime x
  let x4 := xtime x2
  let x8 := xtime x4
  (if bitOf k 0 then x else 0) ^^^ (if bitOf k 1 then x2 else 0) ^^^ (if bitOf k 2 then x4 else 0) ^^^
    (if bitOf k 3 then x8 else 0)

def xorBytes (a b : List Byte) : List Byte := List.zipWith (· ^^^ ·) a b

/-- The key schedule of AES-256: 4-byte words, newest first. -/
def aesExpand : Nat → Nat → Byte → List (List Byte) → List (List Byte)
  | 0, _, _, ws => ws
  | n + 1, i, rc, ws =>
    let t := nth [] ws 0
    let t' := if i % 8 = 0 then xorBytes (((t.drop 1) ++ t.take 1).map sub) [rc, 0, 0, 0]
      else if i % 8 = 4 then t.map sub else t
    aesExpand n (i + 1) (if i % 8 = 0 then xtime rc else rc) (xorBytes (nth [] ws 7) t' :: ws)

/-- The fifteen round keys. -/
def aesKeys (key : List Byte) : List (List Byte) :=
  let w0 := (List.range 8).map fun i => sliceAt key (4 * i) 4
  let ws := (aesExpand 52 8 1 w0.reverse).reverse
  (List.range 15).map fun r => ((ws.drop (4 * r)).take 4).flatten

def shiftRows (s : List Byte) : List Byte :=
  (List.range 16).map fun i => nth 0 s ((i + 4 * (i % 4)) % 16)
def invShiftRows (s : List Byte) : List Byte :=
  (List.range 16).map fun i => nth 0 s ((i + 16 - 4 * (i % 4)) % 16)

/-- One column times the circulant matrix with first row (c0, c1, c2, c3). -/
def mixWith (c0 c1 c2 c3 : Nat) (s : List Byte) : List Byte :=
  (List.range 16).map fun i =>
    let g := fun k => nth 0 s (i / 4 * 4 + (i % 4 + k) % 4)
    gmul (g 0) c0 ^^^ gmul (g 1) c1 ^^^ gmul (g 2) c2 ^^^ gmul (g 3) c3

def aesRounds : List (List Byte) → List Byte → List Byte
  | [], s => s
  | [k], s => xorBytes (shiftRows (s.map sub)) k
  | k :: ks, s => aesRounds ks (xorBytes (mixWith 2 3 1 1 (shiftRows (s.map sub))) k)

def aesEnc (ks : List (List Byte)) (b : List Byte) : List Byte :=
  match ks with
  | [] => b
  | k :: ks => aesRounds ks (xorBytes b k)

def aesInvRounds : List (List Byte) → List Byte → List Byte
  | [], s => s
  | [k], s => xorBytes ((invShiftRows s).map invSub) k
  | k :: ks, s => aesInvRounds ks (mixWith 14 11 13 9 (xorBytes ((invShiftRows s).map invSub) k))

def aesDec (ks : List (List Byte)) (b : List Byte) : List Byte :=
  match ks.reverse with
  | [] => b
  | k :: ks => aesInvRounds ks (xorBytes b k)

/-- The XTS tweak of the next block: times x in GF(2^128), little-endian (IEEE 1619). -/
def xtsNext (t : Nat) : Nat := (t * 2) % 2 ^ 128 ^^^ (if bitOf t 127 then 0x87 else 0)

def xtsBlocks (f : List Byte → List Byte) : Nat → Nat → List Byte → List Byte
  | 0, _, _ => []
  | n + 1, t, bs =>
    let tb := leBytes 16 t
    xorBytes (f (xorBytes (bs.take 16) tb)) tb ++ xtsBlocks f n (xtsNext t) (bs.drop 16)

/-- One 512-byte data unit under XTS-AES-256 (R312). -/
def xtsUnit (dec : Bool) (k1 k2 : List Byte) (tweak : Nat) (u : List Byte) : List Byte :=
  let ks := aesKeys k1
  let t := leNat (aesEnc (aesKeys k2) (leBytes 16 tweak))
  xtsBlocks (if dec then aesDec ks else aesEnc ks) (u.length / 16) t u

-- GCM (NIST SP 800-38D) -------------------------------------------------------------------------------------------------

/-- Product in GF(2^128), most significant bit first, by the bits of `x`. -/
def ghashMul : Nat → Nat → Nat → Nat → Nat
  | 0, _, _, z => z
  | n + 1, x, v, z =>
    ghashMul n x (if v % 2 = 1 then (v / 2) ^^^ (0xE1 * 2 ^ 120) else v / 2) (if bitOf x n then z ^^^ v else z)

def ghash (h : Nat) (blocks : List (List Byte)) : Nat :=
  blocks.foldl (fun y b => ghashMul 128 (y ^^^ beNat (sliceAt b 0 16)) h 0) 0

def chunks16 : Nat → List Byte → List (List Byte)
  | 0, _ => []
  | n + 1, bs => if bs.isEmpty then [] else bs.take 16 :: chunks16 n (bs.drop 16)

/-- AES-256-GCM with a 96-bit IV: the text turned over and the tag over the ciphertext given by `cipher`. -/
def gcmStream (ks : List (List Byte)) (iv text : List Byte) : List Byte :=
  let bs := chunks16 (text.length / 16 + 1) text
  (bs.zipIdx.map fun (b, i) => xorBytes b (aesEnc ks (iv ++ beBytes 4 (i + 2)))).flatten

def gcmTag (ks : List (List Byte)) (iv aad cipher : List Byte) : List Byte :=
  let h := beNat (aesEnc ks (List.replicate 16 0))
  let y := ghash h (chunks16 (aad.length / 16 + 1) aad ++ chunks16 (cipher.length / 16 + 1) cipher ++
    [beBytes 8 (8 * aad.length) ++ beBytes 8 (8 * cipher.length)])
  xorBytes (beBytes 16 y) (aesEnc ks (iv ++ beBytes 4 1))

end Sys2Proof.Machine
end

