-- ==== Sys2Proof/Machine/Float.lean ====
section
/-! DEFINITION. The number formats of R58 to R76 and binary32 arithmetic: exact values, one rounding, and the flags of
R68 and R767. -/

-- Declarations are elaborated one after another: side by side, each would hold a thread and its stack.
set_option Elab.async false

namespace Sys2Proof.Machine

/-- The sticky flags of R68. -/
structure Flags where
  nv : Bool
  ovf : Bool
  uf : Bool
  deriving DecidableEq, Repr

def Flags.none : Flags := ⟨false, false, false⟩
def Flags.nvOnly : Flags := ⟨true, false, false⟩
def Flags.ofOnly : Flags := ⟨false, true, false⟩
/-- Flags only ever accumulate (R171). -/
def Flags.or (a b : Flags) : Flags := ⟨a.nv || b.nv, a.ovf || b.ovf, a.uf || b.uf⟩

/-- A float format of R60: exponent width, mantissa width, bias, and whether it is FP8-E4M3
(no infinity, one NaN pattern, overflow to the largest finite). -/
structure FFmt where
  ew : Nat
  mw : Nat
  bias : Nat
  e4m3 : Bool
  deriving DecidableEq, Repr

def fmtE4M3 : FFmt := ⟨4, 3, 7, true⟩
def fmtE5M2 : FFmt := ⟨5, 2, 15, false⟩
def fmtFP16 : FFmt := ⟨5, 10, 15, false⟩
def fmtBF16 : FFmt := ⟨8, 7, 127, false⟩
def fmtF32  : FFmt := ⟨8, 23, 127, false⟩

def FFmt.width (f : FFmt) : Nat := 1 + f.ew + f.mw
/-- The bits of +infinity (for FP8-E4M3: one above the largest finite, its NaN). -/
def FFmt.infBits (f : FFmt) : Nat := if f.e4m3 then 0x7F else (2 ^ f.ew - 1) * 2 ^ f.mw
/-- The bits of the largest finite value. -/
def FFmt.maxBits (f : FFmt) : Nat := f.infBits - 1
/-- The canonical NaN (R61). -/
def FFmt.nanBits (f : FFmt) : Nat :=
  if f.e4m3 then 0x7F else f.infBits + 2 ^ (f.mw - 1)
def FFmt.signBit (f : FFmt) (neg : Bool) : Nat := if neg then 2 ^ (f.ew + f.mw) else 0

/-- What a bit pattern stands for: NaN, an infinity, or (-1)^neg * m * 2^e. -/
inductive FVal where
  | nan
  | inf (neg : Bool)
  | fin (neg : Bool) (m : Nat) (e : Int)
  deriving DecidableEq, Repr

/-- The value of a pattern (R60, R62: subnormals are honoured). -/
def FFmt.value (f : FFmt) (x : Nat) : FVal :=
  let neg := bitOf x (f.ew + f.mw)
  let e := bitsOf x f.mw f.ew
  let m := bitsOf x 0 f.mw
  if f.e4m3 && e == 15 && m == 7 then .nan
  else if !f.e4m3 && e == 2 ^ f.ew - 1 then (if m = 0 then .inf neg else .nan)
  else if e = 0 then .fin neg m (1 - (f.bias : Int) - f.mw)
  else .fin neg (m + 2 ^ f.mw) ((e : Int) - f.bias - f.mw)

/-- An exact dyadic number n * 2^e. -/
structure Dy where
  n : Int
  e : Int
  deriving DecidableEq, Repr

def Dy.zero : Dy := ⟨0, 0⟩
def Dy.ofInt (n : Int) : Dy := ⟨n, 0⟩
def Dy.mul (a b : Dy) : Dy := ⟨a.n * b.n, a.e + b.e⟩
def Dy.neg (a : Dy) : Dy := ⟨-a.n, a.e⟩
/-- Exact sum. -/
def Dy.add (a b : Dy) : Dy :=
  let e := min a.e b.e
  ⟨a.n * 2 ^ (a.e - e).toNat + b.n * 2 ^ (b.e - e).toNat, e⟩
def Dy.sub (a b : Dy) : Dy := a.add b.neg
def Dy.scale (a : Dy) (k : Int) : Dy := ⟨a.n, a.e + k⟩
/-- floor of the exact value. -/
def Dy.floor (a : Dy) : Int := if 0 ≤ a.e then a.n * 2 ^ a.e.toNat else a.n / 2 ^ (-a.e).toNat
def Dy.ceil (a : Dy) : Int := -(Dy.floor a.neg)
def Dy.lt (a b : Dy) : Bool := decide ((a.sub b).n < 0)
def Dy.le (a b : Dy) : Bool := decide ((a.sub b).n ≤ 0)
def Dy.isZero (a : Dy) : Bool := a.n == 0

/-- The exact value of a finite FVal. -/
def FVal.dy : FVal → Dy
  | .fin neg m e => ⟨if neg then -(m : Int) else m, e⟩
  | _ => Dy.zero

def FVal.isNan : FVal → Bool
  | .nan => true
  | _ => false
def FVal.isInf : FVal → Bool
  | .inf _ => true
  | _ => false
def FVal.isZero : FVal → Bool
  | .fin _ m _ => m == 0
  | _ => false
def FVal.isNeg : FVal → Bool
  | .nan => false
  | .inf n => n
  | .fin n _ _ => n

/-- Magnitude bits and discarded part of a non-zero n * 2^e before rounding: the truncated encoding in the format's
own ordering of magnitudes, the discarded low bits and how many bits were discarded. -/
def FFmt.trunc (f : FFmt) (n : Nat) (e : Int) : Nat × Nat × Nat :=
  let top : Int := (Nat.log2 n : Int) + e
  let emin : Int := 1 - f.bias
  let ex := if top < emin then emin else top
  let q := ex - f.mw
  let s := (q - e).toNat
  let m := if q ≤ e then n * 2 ^ (e - q).toNat else n / 2 ^ s
  let rem := if q ≤ e then 0 else n % 2 ^ s
  (((ex + f.bias - 1).toNat) * 2 ^ f.mw + m, rem, if q ≤ e then 0 else s)

/-- Whether round-to-nearest-even goes up (R71). -/
def rneUp (m rem s : Nat) : Bool :=
  if s = 0 then false
  else if rem * 2 > 2 ^ s then true
  else if rem * 2 = 2 ^ s then m % 2 == 1 else false

/-- Step 2 of R73: the discarded bits left-aligned in a 32-bit word. -/
def srDiscard (rem s : Nat) : Nat := if s = 0 then 0 else rem * 2 ^ 32 / 2 ^ s

/-- How a conversion rounds: to nearest even, or stochastically by a 32-bit word (R71 to R73). -/
inductive Rounding where
  | rne
  | sr (w : Nat)
  deriving DecidableEq, Repr

def Rounding.up (r : Rounding) (m rem s : Nat) : Bool :=
  match r with
  | .rne => rneUp m rem s
  | .sr w => decide (w < srDiscard rem s)

/-- Delivers a rounded magnitude: overflow as R69 says for the format (binary32, FP16 and BF16 to infinity, the FP8
formats to the largest finite), UF under R767. -/
def FFmt.deliver (f : FFmt) (neg : Bool) (mag : Nat) : Nat × Flags :=
  if mag ≥ f.infBits then
    let r := if f.e4m3 || f.mw == 2 then f.maxBits else f.infBits
    (f.signBit neg + r, Flags.ofOnly)
  else (f.signBit neg + mag, ⟨false, false, decide (mag < 2 ^ f.mw)⟩)

/-- Rounds a non-zero n * 2^e into a format; zero delivers the signed zero without flags. A value beyond every finite one
overflows, and one too small for any rounding to reach the least subnormal delivers zero, without forming its bits. -/
def FFmt.round (f : FFmt) (r : Rounding) (neg : Bool) (n : Nat) (e : Int) : Nat × Flags :=
  if n = 0 then (f.signBit neg, Flags.none)
  else if (Nat.log2 n : Int) + e > f.bias + 1 then f.deliver neg f.infBits
  else if (Nat.log2 n : Int) + e < -(f.bias : Int) - f.mw - 40 then f.deliver neg 0
  else
    let t := f.trunc n e
    f.deliver neg (if r.up t.1 t.2.1 t.2.2 then t.1 + 1 else t.1)

/-- Rounds an exact dyadic; an exact zero takes the sign `zneg`. -/
def FFmt.roundDy (f : FFmt) (r : Rounding) (zneg : Bool) (d : Dy) : Nat × Flags :=
  if d.n = 0 then (f.signBit zneg, Flags.none) else f.round r (decide (d.n < 0)) d.n.natAbs d.e

/-- rne32 of an exact dyadic. -/
def rne32 (zneg : Bool) (d : Dy) : W32 × Flags :=
  let p := fmtF32.roundDy .rne zneg d
  (w32 p.1, p.2)

/-- rne32 of the exact quotient num / den * 2^e, den > 0: enough quotient bits with the remainder kept sticky. -/
def rne32Quot (neg : Bool) (num den : Nat) (e : Int) : W32 × Flags :=
  let k := 64 + Nat.log2 (den + 1)
  let q := num * 2 ^ k / den
  let n := 2 * q + (if num * 2 ^ k % den = 0 then 0 else 1)
  let p := fmtF32.round .rne neg n (e - k - 1)
  (w32 p.1, p.2)

def nan32 : W32 := 0x7FC00000#32
def inf32 (neg : Bool) : W32 := if neg then 0xFF800000#32 else 0x7F800000#32
def f32v (x : W32) : FVal := fmtF32.value x.toNat

/-- The sign of an exact zero sum of two terms under round-to-nearest: negative only if both are. -/
def zeroSign (a b : Bool) : Bool := a && b

/-- Sum of two values, the first an exact product or a binary32 (R63). -/
def addVals (a b : FVal) : W32 × Flags :=
  match a, b with
  | .nan, _ => (nan32, Flags.none)
  | _, .nan => (nan32, Flags.none)
  | .inf s, .inf t => if s = t then (inf32 s, Flags.none) else (nan32, Flags.nvOnly)
  | .inf s, _ => (inf32 s, Flags.none)
  | _, .inf t => (inf32 t, Flags.none)
  | .fin s m e, .fin t n g =>
    rne32 (zeroSign s t) ((FVal.fin s m e).dy.add (FVal.fin t n g).dy)

/-- Exact product; `none` for 0 times infinity without a NaN operand. -/
def mulVals (a b : FVal) : Option FVal :=
  match a, b with
  | .nan, _ => some .nan
  | _, .nan => some .nan
  | .inf s, .inf t => some (.inf (s != t))
  | .inf s, .fin t m _ => if m = 0 then none else some (.inf (s != t))
  | .fin s m _, .inf t => if m = 0 then none else some (.inf (s != t))
  | .fin s m e, .fin t n g => some (.fin (s != t) (m * n) (e + g))

/-- Rounds a value that is not yet binary32. -/
def roundVal : FVal → W32 × Flags
  | .nan => (nan32, Flags.none)
  | .inf s => (inf32 s, Flags.none)
  | .fin s m e => rne32 s (FVal.fin s m e).dy

def f32Add (a b : W32) : W32 × Flags := addVals (f32v a) (f32v b)
def f32NegV : FVal → FVal
  | .nan => .nan
  | .inf s => .inf (!s)
  | .fin s m e => .fin (!s) m e
def f32Sub (a b : W32) : W32 × Flags := addVals (f32v a) (f32NegV (f32v b))
def f32Mul (a b : W32) : W32 × Flags :=
  match mulVals (f32v a) (f32v b) with
  | none => (nan32, Flags.nvOnly)
  | some p => roundVal p
/-- Fused a * b + c with one rounding (R63); `flip` negates the product (FNMA). A NaN addend keeps NV clear. -/
def f32Fma (flip : Bool) (a b c : W32) : W32 × Flags :=
  match mulVals (f32v a) (f32v b) with
  | none => (nan32, if (f32v c).isNan then Flags.none else Flags.nvOnly)
  | some p => addVals (if flip then f32NegV p else p) (f32v c)

/-- Order of binary32 values with -0 below +0; NaN excluded by the callers. -/
def f32Key (x : W32) : Int :=
  let m := (x.toNat % 2 ^ 31 : Nat)
  if bit x 31 then -(m : Int) - 1 else m

/-- FMIN and FMAX of R187: a single NaN operand yields the other operand; two NaNs the canonical NaN (R61). They set no flag,
also where they deliver a subnormal operand: R767 does not say whether they are among the operations that can set UF (DESIGN
CHOICE, log entry 99). -/
def f32MinMax (isMax : Bool) (a b : W32) : W32 :=
  if (f32v a).isNan then (if (f32v b).isNan then nan32 else b)
  else if (f32v b).isNan then a
  else if isMax then (if f32Key a < f32Key b then b else a)
  else (if f32Key b < f32Key a then b else a)

/-- Numeric comparison; false with a NaN operand (R188); zeros compare equal. -/
def f32Cmp (lt eq : Bool) (a b : W32) : Bool :=
  match f32v a, f32v b with
  | .nan, _ => false
  | _, .nan => false
  | x, y =>
    let k := fun (v : FVal) => match v with
      | .inf true => (none : Option Dy)
      | .inf false => none
      | v => some v.dy
    match k x, k y with
    | some p, some q => (lt && p.lt q) || (eq && (p.sub q).isZero)
    | none, none => (lt && x.isNeg && !y.isNeg) || (eq && (x.isNeg == y.isNeg))
    | none, some _ => lt && x.isNeg
    | some _, none => lt && !y.isNeg

def f32Abs (a : W32) : W32 := a &&& 0x7FFFFFFF#32
def f32Neg (a : W32) : W32 := a ^^^ 0x80000000#32
/-- FSGNJ of R187. It sets no flag, a subnormal result included, as FMIN and FMAX do (DESIGN CHOICE, log entry 99). -/
def f32Sgnj (a b : W32) : W32 :=
  if (f32v a).isNan then nan32 else (a &&& 0x7FFFFFFF#32) ||| (b &&& 0x80000000#32)

/-- int32 with saturation and OF (R187). -/
def satInt (w : Nat) (x : Int) : Int × Flags :=
  let hi : Int := 2 ^ (w - 1) - 1
  let lo : Int := -(2 ^ (w - 1))
  if x > hi then (hi, Flags.ofOnly) else if x < lo then (lo, Flags.ofOnly) else (x, Flags.none)

def ofInt32 (x : Int) : W32 := BitVec.ofInt 32 x
def sat32 (x : Int) : W32 × Flags := let p := satInt 32 x; (ofInt32 p.1, p.2)

/-- Round-to-nearest-even of a dyadic to an integer. -/
def Dy.rint (d : Dy) : Int :=
  if 0 ≤ d.e then d.n * 2 ^ d.e.toNat
  else
    let s := (-d.e).toNat
    let a := d.n.natAbs
    let m := a / 2 ^ s
    let r := if rneUp m (a % 2 ^ s) s then m + 1 else m
    if d.n < 0 then -(r : Int) else r

/-- Binary32 to a w-bit integer under round-to-nearest-even, saturating with OF; NaN gives 0 with NV (R69, R189). A non-zero
value delivered as 0 sets UF: R68 and R767 say so of every conversion to a storage format, INT8 among them; that FCVTI, which
R767 does not name, sets it too is read from R68's table (DEDUCED, log entry 99). -/
def f32ToInt (w : Nat) (x : W32) : Int × Flags :=
  match f32v x with
  | .nan => (0, Flags.nvOnly)
  | .inf s => (if s then -(2 ^ (w - 1)) else 2 ^ (w - 1) - 1, Flags.ofOnly)
  | v =>
    let r := v.dy.rint
    if r = 0 && !v.isZero then (0, ⟨false, false, true⟩) else satInt w r

/-- int32 to binary32 under round-to-nearest-even (ICVTF, R189). -/
def intToF32 (x : Int) : W32 := (rne32 false (Dy.ofInt x)).1

/-- Converts binary32 into a float storage format (R69, R71 to R73). -/
def f32To (f : FFmt) (r : Rounding) (x : W32) : Nat × Flags :=
  match f32v x with
  | .nan => (f.nanBits, Flags.none)
  | .inf s =>
    if f.e4m3 then (f.signBit s + f.maxBits, Flags.ofOnly) else (f.signBit s + f.infBits, Flags.none)
  | .fin s m e => f.round r s m e

/-- Exact conversion of a storage format to binary32 (R196); a NaN becomes the canonical NaN (R61). It sets no flag, a BF16
subnormal, which is a binary32 subnormal, included (DESIGN CHOICE, log entry 99). -/
def toF32 (f : FFmt) (x : Nat) : W32 := (roundVal (f.value x)).1

/-- The Philox-4x32-10 generator of R74: one call, four words. -/
def philoxRounds : Nat → Nat × Nat → Nat × Nat × Nat × Nat → Nat × Nat × Nat × Nat
  | 0, _, c => c
  | n + 1, (k0, k1), (c0, c1, c2, c3) =>
    let p0 := 0xD2511F53 * c0
    let p1 := 0xCD9E8D57 * c2
    let hi0 := p0 / 2 ^ 32
    let lo0 := p0 % 2 ^ 32
    let hi1 := p1 / 2 ^ 32
    let lo1 := p1 % 2 ^ 32
    philoxRounds n ((k0 + 0x9E3779B9) % 2 ^ 32, (k1 + 0xBB67AE85) % 2 ^ 32)
      (hi1 ^^^ c1 ^^^ k0, lo1, hi0 ^^^ c3 ^^^ k1, lo0)

/-- The key and counter of R74 and the word choice of R75. -/
def randomWord (seed idx layer site cls stream elem : Nat) : Nat :=
  let r := philoxRounds 10 (seed % 2 ^ 32, seed / 2 ^ 32 % 2 ^ 32)
    (elem / 4 % 2 ^ 32, idx % 2 ^ 32, (layer % 2 ^ 16) * 2 ^ 16 + idx / 2 ^ 32 % 2 ^ 16,
     (site % 16) * 2 ^ 28 + (cls % 256) * 2 ^ 16 + stream % 2 ^ 16)
  match elem % 4 with
  | 0 => r.1
  | 1 => r.2.1
  | 2 => r.2.2.1
  | _ => r.2.2.2

end Sys2Proof.Machine
end

