-- ==== Sys2Proof/Machine/CoreTypes.lean ====
section
/-! DEFINITION. What one compute core holds (03, 04, 05, 08, 10): threads, vector engine, plinth bookkeeping, statistic
unit, array queue, windows, regions, tables, calipers. Its three SRAMs stand in the block's Ram. -/

-- Declarations are elaborated one after another: side by side, each would hold a thread and its stack.
set_option Elab.async false

namespace Sys2Proof.Machine

/-- What a sleeping thread waits for (R163). An XMMA and an XPT keep the command they read as they issued (R212, R390). -/
inductive Sleep where
  | slot (s : Nat)
  | tally (s : Nat)
  | chain (c : Nat)
  | counter (c target : Nat)
  | threads (mask : Nat)
  | queue (cmd : List Byte)
  | engine (port : Nat) (cmd : List Byte)
  | mesh
  | fence
  | fu
  deriving DecidableEq, Repr

/-- A thread is running, sleeping or ended (R163). -/
inductive ThSt where
  | ended
  | running
  | sleeping (why : Sleep)
  deriving DecidableEq, Repr

/-- One hardware thread (R162, R170, R173). `pc` is the byte offset in its slot's step program; `x` holds x1 to x31;
`digest` is the redundancy digest of R597. -/
structure Thread where
  pc     : Nat
  x      : Tab W32
  vl     : Nat
  sr     : Bool
  ctx    : W32
  layer  : W16
  tbHi   : W32
  st     : ThSt
  digest : Nat
  deriving DecidableEq, Repr

/-- A thread as R173 gives it, ended. -/
def Thread.init : Thread := ⟨0, [], 64, false, 0, 0, 0, .ended, 0⟩

/-- A tile slot's state (R138). -/
inductive TileSt where
  | free | pre | accum | done | held
  deriving DecidableEq, Repr

/-- The plinth format (R132). -/
inductive PlFmt where
  | promoted | exact8 | exact16
  deriving DecidableEq, Repr

/-- The kind of a slot's elements (R136): integer, binary32, E4M3 fixed point, FP16 fixed point. -/
inductive Kind where
  | int | fp | e4m3 | fp16
  deriving DecidableEq, Repr

/-- One tile row of a tile record (R142): count, mean, M2, and the poison it carries (R150). -/
structure StatRow where
  n      : Int
  mean   : W32
  m2     : W32
  poison : Bool
  deriving DecidableEq, Repr

/-- A tile slot (R138, R136, R128) with its statistic slot (R142, R152) and the length of its accumulation (R115). -/
structure TileSlot where
  st     : TileSt
  kind   : Kind
  poison : BitVec 64
  len    : Nat
  record : List StatRow
  deriving DecidableEq, Repr

def TileSlot.init : TileSlot := ⟨.free, .fp, 0, 0, []⟩

/-- A record offered to a chain and not yet merged (R147); `held` names the slot a HOLD tally holds. -/
structure Offer where
  ordinal : Nat
  rows    : List StatRow
  deriving DecidableEq, Repr

/-- A statistic chain (R143, R146, R148): `total` 0 means never opened in the step. -/
structure Chain where
  total   : Nat
  merged  : Nat
  isOpen  : Bool
  offered : List Nat
  waiting : List Offer
  acc     : List StatRow
  held    : List Nat
  deriving DecidableEq, Repr

def Chain.init : Chain := ⟨0, 0, false, [], [], [], []⟩

/-- An MMA command (R111) with its issuing thread; `lines` are the sprue-chain lines accepted so far (WSRC = 1). -/
structure Mma where
  thread : Nat
  wsr    : Bool
  isExact : Bool
  pair   : Nat
  nrow   : Nat
  first  : Bool
  isFinal : Bool
  wsrc   : Bool
  slot   : Nat
  vrows  : Nat
  klen   : Nat
  abase  : Nat
  wbase  : Nat
  lines  : List (List Byte × Bool)
  deriving DecidableEq, Repr

/-- A gather-buffer entry (R341): the line, the engine that opened it (false vector engine, true remote in), the bytes it
holds by their offset in the line, its byte-valid mask, and a poison bit for each granule. The bytes stand in the activation
store as well, as a reader of the line finds them (R345). -/
structure GatherEntry where
  line   : Nat
  remote : Bool
  data   : Tab Byte
  mask   : BitVec 64
  poison : BitVec 4
  deriving DecidableEq, Repr

/-- A decoded-chunk cache tag (R438): key, first line and lines in the cache area, recorded
report; `fresh` while the step that made it runs (R440). -/
structure CacheTag where
  addr : Nat
  seq  : Nat
  plen : Nat
  clen : Nat
  rlen : Nat
  cmp  : Nat
  line : Nat
  lines : Nat
  code : W16
  fresh : Bool
  deriving DecidableEq, Repr

/-- The image in a table slot (R217, R221): none, the part's shipped built-in, or a loaded image. -/
inductive TabImg where
  | empty
  | shipped
  | image (bytes : List Byte)
  deriving DecidableEq, Repr

/-- The two table banks of a core (R217, R220, R254, R257): which is active, switches made, a resync in progress, the
thread last granted the function unit (R224). -/
structure CoreTables where
  bank0    : List TabImg
  bank1    : List TabImg
  active1  : Bool
  switches : Nat
  resync   : Bool
  lastFu   : Nat
  deriving DecidableEq, Repr

def CoreTables.init : CoreTables :=
  ⟨List.replicate 12 .empty, List.replicate 12 .empty, false, 0, false, 7⟩

/-- The caliper of a core (R459 to R468) and its rate (R474): trim and pending trim, the column sampled next, comparisons
since the last probe, consecutive probe matches, whether a thinned margin asks for confirmations (R464), the limit reached
(R467); `rated` says that a window has given XBRATE its value (R475). -/
structure CoreCal where
  trim      : Nat
  pend      : Option Nat
  col       : Nat
  compares  : Nat
  probes    : Nat
  confirmAll : Bool
  limit     : Bool
  xbrate    : W32
  rated     : Bool
  deriving DecidableEq, Repr

def CoreCal.init : CoreCal := ⟨31, none, 0, 0, 0, false, false, 1200000, false⟩

/-- Maquette runs of a core (R593): one in progress, units taken by force; the runs a retest still needs, whether it was
injected (R604, R624), the time the last passed retest ended. -/
structure CoreMq where
  running : Bool
  forced  : Bool
  retest  : Option (Nat × Bool)
  passed  : Option Nat
  deriving DecidableEq, Repr

/-- The performance counters of a core (R663) that follow from architectural events; the rest are timing values. -/
structure CorePerf where
  mmaBeats : Nat
  vops    : Nat
  flits   : Nat
  landed  : Nat
  deriving DecidableEq, Repr

/-- Locked ranges of a core (R382): declared lines as (first, count), the whole plinth, weight lines (R664). -/
structure CoreLocks where
  lines  : List (Nat × Nat)
  plinth : Bool
  wlines : List (Nat × Nat)
  deriving DecidableEq, Repr

/-- What the core executes: the step by ring and sequence number, its logical slot, and whether it is the checker copy of
R595. `ended` marks that the step has ended on this core (R175), `begun` that it has begun there (R173): a core granted to a
step begins it at once or, while others already run it, later (R365). -/
structure Cur where
  ring    : Nat
  seq     : Nat
  slot    : Nat
  checker : Bool
  ended   : Bool
  begun   : Bool
  deriving DecidableEq, Repr

/-- The vector engine (R179, R180): values by 64 * register + lane, poison by the same key, masks. -/
structure VecState where
  v : Tab W32
  p : Tab Bool
  m : Tab (BitVec 64)
  deriving DecidableEq, Repr

/-- XFLAGS (R170), as the step program sees it, and the step's own report (R171, R172). -/
structure XFlags where
  ps     : Bool
  cur    : Flags
  report : Flags
  deriving DecidableEq, Repr

def XFlags.init : XFlags := ⟨false, Flags.none, Flags.none⟩

/-- The plinth's bookkeeping: format, slots, special-value tags of exact elements by slot * 4096 + row * 64 + column
(R128; bit 0 NaN operand, bit 1 zero times infinity, bit 2 +infinity, bit 3 -infinity), chains. -/
structure PlinthState where
  fmt    : PlFmt
  slots  : Tab TileSlot
  tags   : Tab Nat
  chains : Tab Chain
  deriving DecidableEq, Repr

def PlinthState.init : PlinthState := ⟨.promoted, [], [], []⟩

/-- Regions and windows of the running step on the core (R349, R352, R357, R405): heads and tails, arrival counters,
row-poison masks by 4 * region + tile position, open windows. -/
structure LandState where
  heads : Tab Nat
  tails : Tab Nat
  ctrs  : Tab W32
  masks : Tab (BitVec 64)
  opens : Tab Bool
  deriving DecidableEq, Repr

def LandState.init : LandState := ⟨[], [], [], [], []⟩

/-- One physical core. `queue` holds the array queue (R167), `mmas` the command computing and those draining, oldest
first (R124); `lastModel` and `lastSlot` the model and logical slot of the step last begun here (R441). -/
structure Core where
  threads : List Thread
  vec     : VecState
  flags   : XFlags
  scratch : Tab Byte
  land    : LandState
  plinth  : PlinthState
  queue   : List Mma
  mmas    : List Mma
  gather  : List GatherEntry
  tables  : CoreTables
  cache   : List CacheTag
  cacheNext : Nat
  lastModel : Nat
  lastSlot : Nat
  cur     : Option Cur
  locks   : CoreLocks
  late    : Nat
  lost    : Bool
  cal     : CoreCal
  mq      : CoreMq
  perf    : CorePerf
  deriving DecidableEq, Repr

/-- A core right after reset. -/
def Core.init : Core :=
  { threads := List.replicate 8 Thread.init, vec := ⟨[], [], []⟩, flags := XFlags.init, scratch := [],
    land := LandState.init, plinth := PlinthState.init, queue := [], mmas := [], gather := [],
    tables := CoreTables.init, cache := [], cacheNext := 0, lastModel := 0, lastSlot := 0, cur := none, locks := ⟨[], false, []⟩,
    late := 0, lost := false, cal := CoreCal.init, mq := ⟨false, false, none, none⟩,
    perf := ⟨0, 0, 0, 0⟩ }

end Sys2Proof.Machine
end

