-- ==== Sys2Proof/Machine/DevTypes.lean ====
section
/-! DEFINITION. What the block holds outside its cores: loaded models, begun descriptors, rings, the Armature, memory
port requests and read jobs, fetch and store streams, remote stores. -/

-- Declarations are elaborated one after another: side by side, each would hold a thread and its stack.
set_option Elab.async false

namespace Sys2Proof.Machine

-- Models (11 R511 to R515, 06 R264) --------------------------------------------------------------------------

/-- A layer record (R264). -/
structure Layer where
  oper  : Nat
  bi    : Bool
  ncode : Nat
  sfmt  : Nat
  w     : Nat
  chm1  : Nat
  ktaps : Nat
  cmax  : Nat
  deriving DecidableEq, Repr

/-- A region entry (R347): memory 0 AS, 1 WS. -/
structure Region where
  mem   : Nat
  valid : Bool
  ctr   : Nat
  base  : Nat
  len   : Nat
  deriving DecidableEq, Repr

/-- A window entry (R355): memory 0 AS, 1 WS, 2 plinth. -/
structure Window where
  mem   : Nat
  valid : Bool
  wr    : Bool
  open0 : Bool
  ctr   : Nat
  base  : Nat
  len   : Nat
  deriving DecidableEq, Repr

/-- A slot entry of a model image (R512) as loaded. -/
structure SlotImg where
  prog    : List Byte
  entry   : Nat
  consts  : List Byte
  scratch : Nat
  wbase   : Nat
  wlines  : Nat
  asBase  : Nat
  asLen   : Nat
  cacheOk : Bool
  kbase   : Nat
  klen    : Nat
  regions : List Region
  windows : List Window
  deriving DecidableEq, Repr

/-- A loaded model (R514) with its measurement (R651); `dead` once a KILL is unloading it: no descriptor finds it any more,
and it goes with the last stream and step that still use it (R537). -/
structure Model where
  handle : Nat
  job    : Nat
  seed   : Nat
  layers : List Layer
  slots  : List SlotImg
  digest : List Byte
  dead   : Bool
  deriving DecidableEq, Repr

-- Begun descriptors (11) ---------------------------------------------------------------------------------------

/-- Where a lane stands in phase 3 (R303 to R309): waiting on the stream, waiting on its fill, BUSY, absent. -/
inductive LanePh where
  | wait | fill | busy | absent
  deriving DecidableEq, Repr

/-- A lane of a STEP, or the one lane of a CHUNK or BIWIN (R507). `sidx` is the stream's step index as it became BUSY;
`filled` marks a fill verified for this descriptor (R309). -/
structure Lane where
  stream   : Nat
  egv      : Bool
  expgen   : Nat
  ph       : LanePh
  code     : W16
  poisoned : Bool
  filled   : Bool
  committed : Bool
  sidx     : Nat
  gen      : Nat
  deriving DecidableEq, Repr

/-- How far a begun descriptor has come. `wait`: on streams, banks, locks; `ready`: on cores (R524); `run`: computing;
`commit`: past the commit point; `work`: another opcode at work; `effects`: every effect done but accepted writes
(R521); `record`: its completion record is on its way; `blocked`: outcome known, waits for a free completion entry. -/
inductive Phase where
  | wait | ready | run | commit | work | effects | record | blocked
  deriving DecidableEq, Repr

/-- A code with its cause chain head and detail (R517). -/
structure Outc where
  code   : W16
  cause  : W16
  detail : W32
  deriving DecidableEq, Repr

def Outc.ok : Outc := ⟨0, 0, 0⟩

/-- A descriptor that has begun (or completes without beginning) and whose record is not yet accepted. `stage` is the opcode's
own progress; `data` what it has read from host memory; `missCause` the first cause of its DEADLINE (R530);
`role` and `cred` those of the session in force at its begin, 0 and 15 without one (R629). `qthr` and `redun` are the fields of
class B as they stood at its begin (R22): QTHR, and SAFE_REDUN's bit of its model; `inlong` marks the records that reported
INPUT_LONG, by their number modulo 64 (R434, R507). `bankEp` is the count of TFENCEs processed before its begin (R255); of a FENCE
whose number has been fetched, which `stage` 1 says, the epoch of that number (R531). -/
structure Exec where
  ring    : Nat
  seq     : Nat
  desc    : List Byte
  order   : Nat
  ph      : Phase
  begun   : Bool
  lanes   : List Lane
  cores   : List Nat
  checker : List Nat
  bankEp  : Nat
  qthr    : Nat
  redun   : Bool
  out     : Outc
  failed  : Bool
  flags   : Flags
  late    : Bool
  outInv  : Bool
  missed  : Bool
  result  : W32
  laneWord : W64
  killed  : Bool
  stage   : Nat
  wrote   : Bool
  inrep   : W16
  inlong  : BitVec 64
  sfail   : Option Outc
  missCause : Option (W16 × W32)
  data   : List Byte
  role   : Nat
  cred   : Nat
  deriving DecidableEq, Repr

/-- A descriptor fetched and not yet begun: its bytes and, of a STEP, the batch list once read. -/
structure QDesc where
  seq    : Nat
  desc   : List Byte
  batch  : Option (List Byte)
  deriving DecidableEq, Repr

/-- A submission ring (R492, R493, R499): fetched descriptors in `queue`; `issued` is the entry up to which reads were
issued; `epoch` counts disables; `badTail` the DB_RANGE values logged; `fetchedAny` says that a descriptor has been fetched
since the enable. `seq` is the number the next descriptor gets, with the epoch above its 32 bits: descriptors of an earlier
enable that still run keep numbers of their own. -/
structure SqRing where
  head   : Nat
  seq    : Nat
  stail  : Nat
  issued : Nat
  epoch  : Nat
  queue  : List QDesc
  badTail : List Nat
  fetchedAny : Bool
  deriving DecidableEq, Repr

def SqRing.init : SqRing := ⟨0, 0, 0, 0, 0, [], [], false⟩

/-- A completion ring (R492, R519, R520). -/
structure CqRing where
  tail   : Nat
  phase  : Bool
  chead  : Nat
  reserved : Nat
  badHead : List Nat
  deriving DecidableEq, Repr

def CqRing.init : CqRing := ⟨0, true, 0, 0, []⟩

/-- Rings, begun descriptors and the poller (R497, R498). -/
structure Rings where
  sq     : Tab SqRing
  cq     : Tab CqRing
  execs  : List Exec
  nextOrder : Nat
  again  : Bool
  fences : Nat
  kills  : List (Nat × Nat × Nat)
  halted : Bool
  deriving DecidableEq, Repr

-- The Armature (07) ----------------------------------------------------------------------------------------------

/-- Lifecycle states (R296). -/
inductive StreamSt where
  | free | spilled | filling | resident | busy | spilling | quarantined
  deriving DecidableEq, Repr

def StreamSt.code : StreamSt → Nat
  | .free => 0 | .spilled => 1 | .filling => 2 | .resident => 3 | .busy => 4 | .spilling => 5 | .quarantined => 6

/-- A context entry (R294); `spill` is the spill address divided by 512. -/
structure CtxEntry where
  model    : Nat
  driftK   : Nat
  driftEn  : Bool
  driftOut : Bool
  noslot   : Bool
  half     : Bool
  run      : Nat
  spillCur : Bool
  st       : StreamSt
  gen      : W32
  sidx     : BitVec 48
  prun     : Nat
  sslot    : Nat
  spill    : Nat
  dhi      : W16
  dlo      : W16
  lastUse  : W32
  deriving DecidableEq, Repr

def CtxEntry.init : CtxEntry := ⟨0, 0, false, false, false, false, 0, false, .free, 0, 0, 0, 0, 0, 0, 0, 0⟩

/-- A state slot's page lists (R298); `written` marks the elements VSTS wrote in the inactive half (R321). -/
structure SSlot where
  half0   : List Nat
  half1   : List Nat
  written : Tab Bool
  deriving DecidableEq, Repr

/-- The Armature's record job: a fill or spill of a stream for a descriptor (or an eviction), with its JOB, which outlives it
(R319), and the cause of a refused write. -/
structure ArmJob where
  stream : Nat
  isFill : Bool
  ring   : Nat
  seq    : Nat
  job    : W16
  evict  : Bool
  dl     : Nat
  ok     : Bool
  cause  : W16
  detail : W32
  deriving DecidableEq, Repr

/-- A digest pass to be made (R323), with the stream's drift settings as they stood at the commit (R330). -/
structure Pass where
  stream : Nat
  dlo    : W16
  dhi    : W16
  k      : Nat
  en     : Bool
  deriving DecidableEq, Repr

/-- The Armature: context table, state slots, page use (1 used, 2 being zeroed), record jobs, pending digest passes,
digests of the current generations, streams due for release when they leave FILLING or SPILLING (R537), streams whose failed
eviction is excluded for a descriptor (R319), the latched words of R297, streams held QUARANTINED by CTX_ECC (R627). -/
structure Arm where
  ctx     : Tab CtxEntry
  slots   : Tab SSlot
  pages   : Tab Nat
  jobs    : List ArmJob
  passes  : List Pass
  digests : Tab W64
  dropped : List Nat
  noEvict : List (Nat × Nat × Nat)
  latched : List W32
  ctxBad  : List Nat
  deriving DecidableEq, Repr

-- Memory ports (16, 09) --------------------------------------------------------------------------------------------

/-- What a whole host read is for. -/
inductive JobKey where
  | doorbell
  | descs (ring first count : Nat)
  | batch (ring seq : Nat)
  | desc (ring seq : Nat)
  | fill (stream : Nat)
  | firmware
  | repairRec
  | retireRec
  | peerFill (stream gen sidx dst : Nat)
  deriving DecidableEq, Repr

/-- Which unit a port request serves. -/
inductive User where
  | job (j off : Nat)
  | stream (port slot epoch : Nat)
  | out (ring seq : Nat)
  | record (ring seq cq : Nat)
  | spill (stream : Nat)
  | ledger
  | cast
  | message
  | repair
  deriving DecidableEq, Repr

/-- A port request (R407, R616, R712): `data` holds the strobed bytes by offset from `addr`, `poison` their poisoned offsets;
`ents` the keys under which a stream files the lines; `tags` the seal entry of a sealed write, `merge` a sealed write that
still has to read its granule (R655, R657); `id` is meaningful once granted, and `sent` says that the request has transferred
(R711); `tries` counts retries made. -/
structure PortReq where
  user   : User
  port   : Nat
  isWrite : Bool
  addr   : Nat
  beats  : Nat
  data   : List (Nat × Byte)
  poison : List Nat
  ents   : List Nat
  tags   : List Byte
  merge  : Bool
  dl     : Nat
  cl     : Nat
  q      : Nat
  tries  : Nat
  id     : Nat
  sent   : Bool
  cancelled : Bool
  deriving DecidableEq, Repr

/-- A read request of one beat with nothing said yet. -/
def PortReq.base : PortReq :=
  { user := .cast, port := 0, isWrite := false, addr := 0, beats := 1, data := [], poison := [], ents := [], tags := [],
    merge := false, dl := 0, cl := 7, q := 0, tries := 0, id := 0, sent := false, cancelled := false }

/-- A whole host read in progress: pieces received, requests still unanswered, whether any failed or was poisoned, and the
cause of the first that failed (R618). -/
structure ReadJob where
  j      : Nat
  key    : JobKey
  addr   : Nat
  len    : Nat
  pieces : List (Nat × List Byte)
  left   : Nat
  bad    : Bool
  cause  : W16
  detail : W32
  deriving DecidableEq, Repr

/-- The ports: candidates, granted requests, ids out of use (port, id) until their response arrives (R718), jobs,
counters of R625, the round-robin port and the issue order. -/
structure Ports where
  cands   : List PortReq
  out     : List PortReq
  dead    : List (Nat × Nat)
  jobs    : List ReadJob
  nextJob : Nat
  retried : Nat
  failed  : Nat
  rrPort  : Nat
  order   : Nat
  deriving DecidableEq, Repr

-- Pointing engines (09) ----------------------------------------------------------------------------------------------

/-- A FETCH or STORE command (R392, R393). -/
structure PtCmd where
  isStore : Bool
  isrc  : Nat
  lay   : Bool
  cmp   : Nat
  cache : Bool
  ew    : Nat
  reg   : Nat
  dest  : Nat
  ibuf  : Nat
  dbuf  : Nat
  nrec  : Nat
  ioff  : Nat
  doff  : Nat
  stride : Nat
  clen  : Nat
  rlen  : Nat
  cbeats : Nat
  tsz   : Nat
  sline : Nat
  deriving DecidableEq, Repr

/-- The decoded form of the compressed record that is landing (R428 to R435). -/
structure Decoded where
  bytes  : List Byte
  poison : List Nat
  code   : W16
  deriving DecidableEq, Repr

/-- A fetch or store stream in an engine's slot. `idxs` are the index words known with their poison, `idxReq` the index lines
asked for; `fed` the records (or passes) whose lines have entered `lineQ`, the (tag, host line) pairs still to request; `got`
the lines received with their poison, by key; `landed` the lines landed; `passes` the pass buffers filled; `bad` the records
known poisoned, with the pass; `dec` the decoded record that is landing; `paid` that its payload is asked for; `src` the
records of a STORE with their poisoned offsets; `carry` the (tag, host line) pairs of the request issued last, which the next
record may share lines with (R407). -/
structure PtStream where
  port   : Nat
  slot   : Nat
  epoch  : Nat
  order  : Nat
  core   : Nat
  thread : Nat
  ring   : Nat
  seq    : Nat
  lslot  : Nat
  checker : Bool
  cmd    : PtCmd
  idxs   : List (Nat × Bool)
  idxReq : Nat
  fed    : Nat
  lineQ  : List (Nat × Nat)
  got    : Tab (List Byte × Bool)
  landed : Nat
  passes : Nat
  bad    : List (Nat × Nat)
  dec    : Option (Nat × Decoded)
  paid   : Bool
  src    : List (List Byte × List Nat)
  carry  : List (Nat × Nat)
  deriving DecidableEq, Repr

/-- The pointing engines and the sprue chain: streams in flight, slot epochs by 256 * port + slot (R425), chain commands
in XPT order (R418), counters of R444. -/
structure Pt where
  streams : List PtStream
  epochs  : Tab Nat
  order   : Nat
  dry     : Nat
  late    : Nat
  discard : W32
  hit     : Nat
  miss    : Nat
  deriving DecidableEq, Repr

-- The mesh (08, 13) ----------------------------------------------------------------------------------------------------

/-- A remote store on its way (R360): sender, target slot, window and offset, bytes by window offset, poisoned offsets, the
first offset past its highest byte, its window lines, the window entry it names (none where there is none); `queued` counts
its lines still in the sender's mesh port (R368). -/
structure RStore where
  fromCore : Nat
  toCore : Nat
  thread : Nat
  ring   : Nat
  seq    : Nat
  checker : Bool
  slot   : Nat
  win    : Nat
  off    : Nat
  bytes  : List (Nat × Byte)
  poison : List Nat
  hi     : Nat
  lines  : List Nat
  target : Option Window
  queued : Nat
  deriving DecidableEq, Repr

/-- An acknowledgement on its way back (R362). -/
structure RAck where
  fromCore : Nat
  core   : Nat
  thread : Nat
  ring   : Nat
  seq    : Nat
  code   : W16
  detail : W32
  deriving DecidableEq, Repr

/-- The mesh: stores and acknowledgements in flight, stores in the early queues of cores that have not begun (R365), the links of
past MESH_FLIT errors with their times (R600). -/
structure Mesh where
  stores : List RStore
  early  : List RStore
  acks   : List RAck
  flitErrs : List (Nat × Nat × Nat)
  deriving DecidableEq, Repr

end Sys2Proof.Machine
end

