-- ==== Sys2Proof/Machine/SysTypes.lean ====
section
/-! DEFINITION. The block-wide units: calipers, start-up, interrupts, security, ledger, peer ports, safety, TAP. -/

-- Declarations are elaborated one after another: side by side, each would hold a thread and its stack.
set_option Elab.async false

namespace Sys2Proof.Machine

-- The error log (13) ---------------------------------------------------------------------------------------------------

/-- One entry of the error record queue (R613). -/
structure ErrEntry where
  code   : W16
  job    : W16
  detail : W32
  time   : W32
  cont   : Bool
  loss   : Bool
  inj    : Bool
  noJob  : Bool
  ring   : Nat
  seq    : W16
  deriving DecidableEq, Repr

/-- A class 8h event awaiting its reaction (R603); `inj` marks an injected one (R624). -/
structure React where
  code   : W16
  detail : W32
  cores  : List Nat
  inj    : Bool
  deriving DecidableEq, Repr

/-- The error record queue and SAFE_STATUS (R612 to R615, R625), the chain of the first fatal error (R701), class 8h events in
detection order (R603). -/
structure ErrLog where
  errq  : List ErrEntry
  ovf   : Nat
  loss  : Bool
  fatal : Bool
  safe  : Bool
  err   : Bool
  fcode : W16
  fchain : List ErrEntry
  react : List React
  deriving DecidableEq, Repr

def ErrLog.reset : ErrLog := ⟨[], 0, false, false, false, false, 0, [], []⟩

/-- The timebase inputs as sampled and the internal timebase (R478 to R481, R488). -/
structure Timebase where
  now     : W64
  valid   : Bool
  held    : Bool
  steps   : Nat
  invalid : Bool
  deriving DecidableEq, Repr

def Timebase.reset : Timebase := ⟨0, false, false, 0, false⟩

-- Calipers, boot, interrupts --------------------------------------------------------------------------------------------

/-- CAL_STATUS.NEED and BUSY, CAL_COUNT, that the rate window in progress is to be discarded (R475, R488), and its number: the
window of each millisecond of the internal timebase (R474). -/
structure Cal where
  need  : Bool
  busy  : Bool
  longer : Nat
  shorter : Nat
  taint : Bool
  window : Nat
  deriving DecidableEq, Repr
def Cal.reset : Cal := ⟨true, false, 0, 0, true, 0⟩

/-- Start-up (15): the boot state of R671, a held GO (R672), BOOT_STATUS, the running image's version, anti-rollback value and
measurement (R686), cores excluded at start, the core map (R46), power. -/
structure Boot where
  state   : Nat
  go      : Bool
  fails   : Nat
  code    : W16
  fwver   : W32
  arv     : W32
  meas    : List Byte
  excluded : List Nat
  coreMap : List Nat
  powered : Bool
  deriving DecidableEq, Repr
def Boot.reset : Boot := ⟨1, false, 0, 0, 0, 0, [], [], [], true⟩

/-- IRQ_PEND, ERRQ_PEND and the lines active at the last look (R539, R540). -/
structure Irq where
  pend  : W64
  errqPend : Bool
  lines : Nat
  deriving DecidableEq, Repr
def Irq.reset : Irq := ⟨0, false, 0⟩

-- Security (14) ------------------------------------------------------------------------------------------------------------

/-- The keys of the key record (R631, R731). -/
structure KeyRecord where
  memKey  : List Byte
  linkKey : List Byte
  classKey : List Byte
  deriving DecidableEq, Repr

/-- A session (R628): ring, credential, role (1 operator, 2 installer, 3 maker). -/
structure Session where
  ring : Nat
  cred : Nat
  role : Nat
  deriving DecidableEq, Repr

/-- A pending proposal (R640): its id, ring, proposer's credential, item, value and digest. -/
structure Proposal where
  id    : Nat
  ring  : Nat
  cred  : Nat
  item  : Nat
  value : List Byte
  digest : List Byte
  deriving DecidableEq, Repr

/-- A quiesce in progress (R643): the COUNTERSIGN that asked for it, its item and value, and whether the mode has changed. -/
structure Quiesce where
  ring : Nat
  seq  : Nat
  item : Nat
  value : List Byte
  deriving DecidableEq, Repr

/-- Keys, credentials and anti-rollback value, sessions, nonces (ring, credential, nonce), failed AUTHs, the seal, the random
source and numbers drawn from it, proposals, the key pair of the last ATTEST with its nonce, confidential mode with its key
and write count, the time CONF_AUTH was last logged, unveiling (R631 to R668). -/
structure Sec where
  keys     : Option KeyRecord
  creds    : List (Nat × List Byte)
  arv      : W32
  sessions : List Session
  nonces   : List (Nat × Nat × List Byte)
  fails    : Nat
  lockout  : Bool
  sealedUp : Bool
  rngOk    : Bool
  draws    : Nat
  proposal : Option Proposal
  nextId   : Nat
  attest   : Option (List Byte × List Byte)
  conf     : Bool
  confKey  : List Byte
  writes   : Nat
  authAt   : Option Nat
  unveiled : Bool
  quiesce  : Option Quiesce
  deriving DecidableEq, Repr
def Sec.reset : Sec :=
  { keys := none, creds := [], arv := 0, sessions := [], nonces := [], fails := 0, lockout := false, sealedUp := false,
    rngOk := false, draws := 0, proposal := none, nextId := 0, attest := none, conf := false, confKey := [], writes := 0,
    authAt := none, unveiled := false, quiesce := none }

/-- What happens once a ledger entry has been accepted (R645, R648): nothing for an event; else the privileged action of a
descriptor. -/
inductive LThen where
  | event
  | action (ring seq : Nat)
  deriving DecidableEq, Repr

/-- An entry to be written (R646); TIME, SEQ and PREV are filled in as it is issued. -/
structure LedItem where
  action : Nat
  role   : Nat
  cred   : Nat
  csCred : Nat
  ring   : Nat
  job    : Nat
  arg    : W64
  next   : LThen
  deriving DecidableEq, Repr

/-- The ledger (R644 to R648): next sequence number, chain head, LOST, entries still to write (the first is being written once
`entry` holds its bytes, and accepted once `accepted`), the latest entries for the cast dump (R705). -/
structure Ledger where
  seq   : Nat
  head  : List Byte
  lost  : Nat
  items : List LedItem
  entry : Option (List Byte)
  accepted : Bool
  last  : List (List Byte)
  deriving DecidableEq, Repr
def Ledger.reset : Ledger := ⟨0, List.replicate 32 0, 0, [], none, false, []⟩

-- Peer ports (12) ------------------------------------------------------------------------------------------------------

/-- A frame queued or being sent on a link (R543, R546, R551): its queue, type, destination position, the stream and generation a
STATE frame carries (R574), the Ethernet header before the Gipilvo bytes, and these. -/
structure TxFrame where
  link  : Nat
  queue : Nat
  typ   : Nat
  dst   : Nat
  stream : Nat
  gen   : W32
  eth   : List Byte
  bytes : List Byte
  deriving DecidableEq, Repr

/-- What the block knows of another position (R556 to R559): the pairing attempt, the HELLO payloads last sent and received,
PEER_CONFIG raised in this attempt, paired, epoch; `past` that a pairing with it has ended (R555). -/
structure PeerPos where
  trying : Bool
  own    : List Byte
  hello  : List Byte
  cfgErr : Bool
  paired : Bool
  epoch  : W32
  past   : Bool
  deriving DecidableEq, Repr

def PeerPos.init : PeerPos := ⟨false, [], [], false, false, 0, false⟩

/-- A digest entry (R564). -/
structure DigEntry where
  stream : Nat
  gen    : W32
  digest : W64
  deriving DecidableEq, Repr

/-- A span store this block sent and that is not acknowledged (R580): sender, frame and its sequence number. -/
structure SpanOut where
  core   : Nat
  thread : Nat
  ring   : Nat
  seq    : Nat
  sid    : Nat
  link   : Nat
  dst    : Nat
  tries  : Nat
  frame  : List Byte
  deriving DecidableEq, Repr

/-- A span store received and held until its paired step begins (R580). -/
structure SpanHeld where
  link  : Nat
  src   : Nat
  sid   : Nat
  job   : Nat
  dl    : Nat
  addr  : Nat
  lines : List (List Byte)
  poison : Nat
  deriving DecidableEq, Repr

/-- SEQ values accepted on a link from a sender (R554). -/
structure RxSeq where
  some? : Bool
  top   : Nat
  seen  : List Nat
  deriving DecidableEq, Repr

def RxSeq.init : RxSeq := ⟨false, 0, []⟩

/-- What the rejoining block assembles or holds until it can install it (R575 to R577): the STATE fragments of a stream by
offset (kind 0), those that answer a FILL_REQ (1), or a HELD entry (2). -/
structure StateAsm where
  stream : Nat
  gen    : W32
  kind   : Nat
  frags  : List (Nat × List Byte)
  deriving DecidableEq, Repr

/-- The pass of R573 on the active block: next stream id, streams to send again, requested single streams. -/
structure RjPass where
  next  : Nat
  again : List Nat
  deriving DecidableEq, Repr

/-- The peer ports. By 4 * link + position, `up` holds that the link has accepted a frame and is not silent, `mute` that its
silence has been noticed (R569); `fault` its received link fault (R741); `txq` and `sending` by link; `rjTold` that a heartbeat has told the
rejoining block of the pass asked for (R579); `digDone` received entries that were compared (R564); `ovfLeft` the 10 µs units until
DIGEST_OVERFLOW may be raised again (R567); `outcomes` the recorded outcomes of span stores by (link, source, SEQ). -/
structure Peer where
  active   : Bool
  rejoin   : Bool
  rjSeen   : Bool
  rjTold   : Bool
  pos      : Tab PeerPos
  up       : Tab Bool
  mute     : Tab Bool
  fault    : Tab Nat
  txSeq    : Tab W32
  rxSeq    : Tab RxSeq
  txq      : List TxFrame
  sending  : List TxFrame
  gcl      : Nat
  sync     : Tab Bool
  partner  : Tab Bool
  digQ     : List DigEntry
  digOwn   : List DigEntry
  digRx    : List DigEntry
  digDone  : List DigEntry
  ovfLeft  : Nat
  pass     : Option RjPass
  asm      : List StateAsm
  spanOut  : List SpanOut
  spanHeld : List SpanHeld
  outcomes : List (Nat × Nat × Nat × W16)
  crcErr   : Nat
  late     : Nat
  dup      : Nat
  retx     : Nat
  ovf      : Nat
  mismatch : Nat
  deriving DecidableEq, Repr

def Peer.reset : Peer :=
  { active := false, rejoin := false, rjSeen := false, rjTold := true, pos := [], up := [], mute := [], fault := [], txSeq := [], rxSeq := [],
    txq := [], sending := [], gcl := 0, sync := [], partner := [], digQ := [], digOwn := [], digRx := [], digDone := [], ovfLeft := 0,
    pass := none, asm := [], spanOut := [], spanHeld := [], outcomes := [], crcErr := 0, late := 0, dup := 0, retx := 0,
    ovf := 0, mismatch := 0 }

-- Safety, TAP, configuration port (13, 15, 16) ------------------------------------------------------------------------------

/-- The configuration port's last response and the latched upper registers of R727, until they are read. -/
structure CpOut where
  rdata  : W32
  err    : Bool
  numHi  : Option W32
  ledHi  : Option W32
  deriving DecidableEq, Repr
def CpOut.reset : CpOut := ⟨0, false, none, none⟩

/-- The cast dump (R697 to R700): what stood at detection (time, log, registers, port counters), the section being written (0 the first
header), DONE bits, lengths and checksums of the sections, whether the current one failed, how it ended. -/
structure Cast where
  tb    : Timebase
  log   : ErrLog
  cfg   : Tab W32
  irq   : Irq
  cp    : CpOut
  retried : Nat
  failed : Nat
  sect  : Nat
  started : Bool
  done  : Nat
  sums  : List (Nat × Nat)
  bad   : Bool
  finished : Bool
  deriving DecidableEq, Repr

/-- Safety and maintenance: the cast dump, sf_alive, sf_safe_req as sampled, MQ_STATUS, faults armed by SAFE_INJECT (kind,
core, argument), the reaction in progress, MEM_ECC_STATUS, the field repair record's entries and sequence number and whether the
host's record has been taken up (R377, R678), test repairs, the retirement record as last read or written (R681), TELEM_POWER and the number of the 10 ms window it is measured in (R662). -/
structure Saf where
  cast    : Option Cast
  alive   : Bool
  req     : Bool
  runs    : Nat
  forced  : Nat
  fails   : Nat
  armed   : List (Nat × Nat × Nat)
  ce      : Nat
  ue      : Nat
  repPend : Nat
  repairs : List W32
  repSeq  : W32
  repRead : Bool
  testMap : List W32
  retRec  : List Byte
  telem   : Nat
  telemWin : Nat
  deriving DecidableEq, Repr
def Saf.reset : Saf :=
  { cast := none, alive := false, req := false, runs := 0, forced := 0, fails := 0, armed := [], ce := 0,
    ue := 0, repPend := 0, repairs := [], repSeq := 0, repRead := false, testMap := [], retRec := [], telem := 0,
    telemWin := 0 }

/-- The debug TAP (R743, R744): its instruction, the bits its data register holds, and the read data an SQCFG access left. -/
structure Tap where
  ir    : Nat
  dr    : Nat
  rdata : W32
  deriving DecidableEq, Repr
def Tap.reset : Tap := ⟨1, 0, 0⟩


end Sys2Proof.Machine
end

