-- ==== Sys2Proof/Machine/State.lean ====
section
/-! DEFINITION. The state of the block: the queue of waiting commands, the timebase, the SRAMs, the error log, and every
other unit. -/

-- Declarations are elaborated one after another: side by side, each would hold a thread and its stack.
set_option Elab.async false

namespace Sys2Proof.Machine

/-- The SRAM contents (R55): weight stores, activation stores, plinths by core * size + offset, state store by
page * 2048 + offset, the Atelier's by offset (R687), and the granule poison of the first two by granule number (R371). Unlisted
bytes read 00h, unlisted granules are clean. -/
structure Ram where
  ws  : Tab Byte
  asm : Tab Byte
  pl  : Tab Byte
  st  : Tab Byte
  atl : Tab Byte
  wsP : Tab Bool
  asP : Tab Bool
  deriving DecidableEq, Repr

/-- The reset contents: nothing listed. -/
def Ram.reset : Ram := ⟨[], [], [], [], [], [], []⟩

/-- Every table of the SRAMs in canonical form. -/
def Ram.wf (r : Ram) : Bool :=
  tabWf 0 r.ws && tabWf 0 r.asm && tabWf 0 r.pl && tabWf 0 r.st && tabWf 0 r.atl && tabWf false r.wsP && tabWf false r.asP

/-- Every unit but the timebase, the SRAMs and the error log. `free` counts free values drawn (the model's own). -/
structure Dev where
  cfg    : Tab W32
  cores  : List Core
  models : List Model
  rings  : Rings
  arm    : Arm
  ports  : Ports
  pt     : Pt
  mesh   : Mesh
  cal    : Cal
  boot   : Boot
  irq    : Irq
  sec    : Sec
  led    : Ledger
  peer   : Peer
  saf    : Saf
  tap    : Tap
  cp     : CpOut
  free   : Nat
  deriving DecidableEq, Repr

/-- The machine: the pending commands, first in first out, and the block. -/
structure State where
  pending : List Instr
  tb      : Timebase
  ram     : Ram
  log     : ErrLog
  dev     : Dev
  deriving DecidableEq, Repr

/-- Why the machine stops. -/
inductive Fault where
  /-- No command raises it in this model: the spec gives every command an effect, and a command that is not enabled leaves
  the state as it is (safe). -/
  | protocolBreach
  deriving DecidableEq, Repr

/-- Why a command has no meaning. -/
inductive Refusal where
  /-- Raised by exec for a row that has no meaning yet (safe); no row is refused in this model. -/
  | notModelled (mnemonic : String)
  deriving DecidableEq, Repr

def Rings.reset : Rings := ⟨[], [], [], 0, false, 0, [], false⟩
def Arm.reset : Arm := ⟨[], [], [], [], [], [], [], [], List.replicate 8 0, []⟩
def Ports.reset : Ports := ⟨[], [], [], [], 0, 0, 0, 0, 0⟩
def Pt.reset : Pt := ⟨[], [], 0, 0, 0, 0, 0, 0⟩
def Mesh.reset : Mesh := ⟨[], [], [], []⟩

/-- Every unit right after reset (R692: nothing survives). -/
def Dev.reset : Dev :=
  { cfg := [], cores := List.replicate 32 Core.init, models := [], rings := Rings.reset, arm := Arm.reset,
    ports := Ports.reset, pt := Pt.reset, mesh := Mesh.reset, cal := Cal.reset, boot := Boot.reset, irq := Irq.reset,
    sec := Sec.reset, led := Ledger.reset, peer := Peer.reset, saf := Saf.reset, tap := Tap.reset, cp := CpOut.reset,
    free := 0 }

/-- The machine right after reset: rst_n has risen and the block is in KEYS (R671). -/
def State.reset : State :=
  { pending := [], tb := Timebase.reset, ram := Ram.reset, log := ErrLog.reset, dev := Dev.reset }

end Sys2Proof.Machine
end

