-- ==== Sys2Proof/Machine/Ops.lean ====
section
/-! DEFINITION. The named operations every meaning is written over: the working copy of one command, raising errors,
the one place where a command's effects reach the state, access to cores, threads, registers, SRAMs and configuration
words. -/

-- Declarations are elaborated one after another: side by side, each would hold a thread and its stack.
set_option Elab.async false

namespace Sys2Proof.Machine

-- Raising errors --------------------------------------------------------------------------------------------------

/-- What a command adds to the error log: a chain of (code, detail), the descriptor concerned (ring, seq, job), whether
injected, and the cores a class 8h reaction concerns; entering the safe state; the two clearing writes. -/
inductive Ev where
  | chain (codes : List (W16 × W32)) (who : Option (Nat × Nat × W16)) (inj : Bool) (cores : List Nat)
  | safe
  | clearErr
  | pop
  | takeReact
  deriving DecidableEq, Repr

/-- The class of a code (R601). -/
def classOf (c : W16) : Nat := bitsOf c.toNat 12 4

/-- Codes whose DETAIL the spec lays out: classes 8h and Fh (R606), LATE_WINDOW, DL_WAIT, SPILL_FAIL, HOST_WINDOW, BRATE_LOW,
PORT_RETRY (R364, R530, R319, R649, R477, R617), FETCH_LATE (R426; the places of port and slot are the model's). -/
def detailStated (c : W16) : Bool :=
  classOf c == 8 || classOf c == 15 || [0x2107, 0x5102, 0x5106, 0x3121, 0x710A, 0x5105, 0x3106].any (· == c.toNat)

/-- The DETAIL of a code: a free value where the spec lays out none and the model has nothing to say (log entry 9). -/
def detailOf (c : W16) (d : W32) : W32 := if d = 0 && c ≠ 0 && !detailStated c then Config.openDetail c else d

/-- The entries of a chain (R612, R613). -/
def chainEntries (t : W64) (who : Option (Nat × Nat × W16)) (inj loss : Bool) (codes : List (W16 × W32)) :
    List ErrEntry :=
  (codes.take 4).zipIdx.map fun ((c, d), i) =>
    { code := c, detail := detailOf c d, time := BitVec.ofNat 32 (bitsOf t.toNat 10 32), cont := decide (i ≠ 0),
      loss := loss && decide (i = 0), inj := inj, noJob := who.isNone,
      job := (who.map fun w => w.2.2).getD 0, ring := (who.map fun w => w.1).getD 0,
      seq := BitVec.ofNat 16 ((who.map fun w => w.2.1).getD 0) }

/-- Places a chain whole or counts it as lost (R612, R614). -/
def ErrLog.place (l : ErrLog) (es : List ErrEntry) : ErrLog :=
  if l.errq.length + es.length ≤ 64 then { l with errq := l.errq ++ es, loss := if es.isEmpty then l.loss else false }
  else { l with ovf := satAdd 65535 l.ovf es.length, loss := true }

/-- A fatal code: the first of a start sets FATAL and FCODE; a second one enters the safe state (R608, R610). -/
def ErrLog.raiseFatal (l : ErrLog) (c : W16) (chain : List ErrEntry) : ErrLog :=
  if l.fatal then { l with safe := true }
  else { l with fatal := true, fcode := c, fchain := chain, react := [], safe := l.safe || c == 0xF108#16 }

/-- A class 8h event: ERR sets (R602), and the event awaits its reaction (R603), unless a fatal error is being handled
(R611); more than 16 waiting is SAFETY_OVERRUN (R605), found by the Atelier (R606). -/
def ErrLog.raiseSafety (t : W64) (l : ErrLog) (c : W16) (d : W32) (inj : Bool) (cores : List Nat) : ErrLog :=
  if l.fatal then { l with err := true }
  else
    let l := { l with err := true, react := l.react ++ [⟨c, d, cores, inj⟩] }
    if l.react.length > 16 then
      let es := chainEntries t none inj l.loss [(0xF107, 0x140000)]
      (l.place es).raiseFatal 0xF107#16 es
    else l

/-- One event on the log. -/
def ErrLog.step (t : W64) (l : ErrLog) : Ev → ErrLog
  | .chain codes who inj cores =>
    let es := chainEntries t who inj l.loss codes
    let l := l.place es
    match codes with
    | [] => l
    | (c, d) :: _ =>
      if classOf c = 15 then l.raiseFatal c es
      else if classOf c = 8 then l.raiseSafety t c d inj cores
      else l
  | .safe => { l with safe := true }
  | .clearErr => { l with err := false }
  | .pop => { l with errq := l.errq.drop (match l.errq with | [] => 0 | _ => 1) }
  | .takeReact => { l with react := l.react.drop 1 }

-- The SRAMs ---------------------------------------------------------------------------------------------------------

/-- One change of the SRAMs: memory 0 WS, 1 AS, 2 plinth, 3 state store, 4 Atelier. -/
inductive RamOp where
  | byte (mem addr : Nat) (v : Byte)
  | poison (mem granule : Nat) (b : Bool)
  deriving DecidableEq, Repr

/-- The one operation that changes the SRAMs; it keeps their canonical form. -/
def Ram.step (r : Ram) : RamOp → Ram
  | .byte mem a v =>
    match mem with
    | 0 => { r with ws := tabSet 0 r.ws a v }
    | 1 => { r with asm := tabSet 0 r.asm a v }
    | 2 => { r with pl := tabSet 0 r.pl a v }
    | 3 => { r with st := tabSet 0 r.st a v }
    | _ => { r with atl := tabSet 0 r.atl a v }
  | .poison mem g b =>
    match mem with
    | 0 => { r with wsP := tabSet false r.wsP g b }
    | _ => { r with asP := tabSet false r.asP g b }

/-- Reads one byte of a memory; an unlisted byte reads 00h. -/
def Ram.get (r : Ram) (mem a : Nat) : Byte :=
  match mem with
  | 0 => tabGet 0 r.ws a
  | 1 => tabGet 0 r.asm a
  | 2 => tabGet 0 r.pl a
  | 3 => tabGet 0 r.st a
  | _ => tabGet 0 r.atl a

/-- The poison of one granule. -/
def Ram.poisoned (r : Ram) (mem g : Nat) : Bool :=
  match mem with
  | 0 => tabGet false r.wsP g
  | _ => tabGet false r.asP g

-- The working copy of one command -----------------------------------------------------------------------------------

/-- What a meaning works on: the timebase, the log and the SRAMs as the command found them, the units as it changes them,
the SRAM changes and log events it makes, newest first. -/
structure Work where
  tb  : Timebase
  log : ErrLog
  ram : Ram
  d   : Dev
  wr  : List RamOp
  ev  : List Ev
  deriving DecidableEq, Repr

/-- The internal timebase as a number. -/
def Work.now (w : Work) : Nat := w.tb.now.toNat

def Work.raise (w : Work) (codes : List (W16 × W32)) (who : Option (Nat × Nat × W16)) : Work :=
  { w with ev := .chain codes who false [] :: w.ev }
def Work.raiseInj (w : Work) (codes : List (W16 × W32)) (who : Option (Nat × Nat × W16)) : Work :=
  { w with ev := .chain codes who true [] :: w.ev }
/-- Raises a class 8h event whose reaction concerns the cores given. -/
def Work.raiseSafety (w : Work) (code : W16) (detail : W32) (cores : List Nat) (who : Option (Nat × Nat × W16)) :
    Work :=
  { w with ev := .chain [(code, detail)] who false cores :: w.ev }
/-- Logs one code with no descriptor concerned. -/
def Work.logCode (w : Work) (code : W16) (detail : W32) : Work := w.raise [(code, detail)] none

def Work.mod (w : Work) (f : Dev → Dev) : Work := { w with d := f w.d }

-- Configuration words -------------------------------------------------------------------------------------------------

/-- The reset word of each register that software can write (R753, R754). -/
def cfgReset (off : Nat) : W32 :=
  if off = 0x200 then 1 else if off = 0x204 then 0x1F40 else if off = 0x224 then 0xC3500
  else if off = 0x304 then 0x61A80 else if off = 0x330 then 0x20640
  else if off = 0x400 then 0x30 else if off = 0x508 then 0x1F40
  else if 0x604 ≤ off && off ≤ 0x60C && off % 4 = 0 then 0x3FF
  else if off = 0x800 then 0x8C0 else if off = 0x80C then 0x06542001 else if off = 0x810 then 0x0214140A
  else if 0x880 ≤ off && off < 0x8C0 && off % 4 = 0 then 0xF0000000
  else if 0x1000 ≤ off && off < 0x1800 && off % 32 = 8 then 4
  else if 0x2000 ≤ off && off < 0x2400 && off % 16 = 8 then 4
  else 0

/-- A stored configuration word: the table holds its difference from the reset word. -/
def Dev.cfgW (d : Dev) (off : Nat) : W32 := tabGet 0 d.cfg off ^^^ cfgReset off
def Dev.setCfgW (d : Dev) (off : Nat) (v : W32) : Dev := { d with cfg := tabSet 0 d.cfg off (v ^^^ cfgReset off) }
/-- A 48-bit address held in a LO and HI pair (R763). -/
def Dev.cfgAddr (d : Dev) (lo : Nat) : Nat := (d.cfgW lo).toNat + (fld (d.cfgW (lo + 4)) 0 16) * 2 ^ 32

def Work.cfg (w : Work) (off : Nat) : W32 := w.d.cfgW off
def Work.cfgAddr (w : Work) (lo : Nat) : Nat := w.d.cfgAddr lo

-- What follows a command -----------------------------------------------------------------------------------------------

/-- The first fatal error (R608): no frame and no request but those of the cast dump goes out, sessions and the attested key end
with the safe state (R629, R653), and the dump keeps what stood at detection. No core is touched: from here on no command acts
on one. -/
def fatalStop (tb : Timebase) (log : ErrLog) (d : Dev) : Dev :=
  { d with
    ports := { d.ports with cands := [], out := d.ports.out.filter PortReq.sent }
    peer := { d.peer with txq := [], sending := [] }
    saf := { d.saf with cast := some ⟨tb, log, d.cfg, d.irq, d.cp, d.ports.retried, d.ports.failed, 0, false, 0, [], false, false⟩ } }

/-- The safe state ends sessions and pairings and zeroises the attested key pair (R629, R559, R653). -/
def enterSafe (d : Dev) : Dev :=
  { d with
    ports := { d.ports with cands := [], out := d.ports.out.filter PortReq.sent }
    peer := { d.peer with txq := [], sending := [], pos := [] }
    sec := { d.sec with sessions := [], nonces := [], attest := none } }

/-- ERRQ_PEND sets when the queue becomes non-empty while ERRQ_EN is set (R539). -/
def errqPendUpdate (before after : ErrLog) (d : Dev) : Dev :=
  if before.errq.isEmpty && !after.errq.isEmpty && bit (tabGet 0 d.cfg 0x518) 6 then
    { d with irq := { d.irq with errqPend := true } }
  else d

/-- The interrupt lines that are active (R540), as bits 3 to 0. -/
def irqLines (d : Dev) : Nat :=
  if d.irq.pend = 0 && !d.irq.errqPend then 0
  else
    let on := fun k =>
      (d.irq.errqPend && fld (d.cfgW 0x518) 4 2 == k) ||
      (List.range 64).any fun r => d.irq.pend.getLsbD r && fld (d.cfgW (0x2008 + 16 * r)) 4 2 == k
    (if on 0 then 1 else 0) + (if on 1 then 2 else 0) + (if on 2 then 4 else 0) + (if on 3 then 8 else 0)

/-- The message write of line k (R540, R723). -/
def messageReq (d : Dev) (k : Nat) : PortReq :=
  let a := d.cfgAddr (0x520 + 16 * k)
  { PortReq.base with
    user := .message, isWrite := true, addr := a / 64 * 64,
    data := (leBytes 4 (d.cfgW (0x528 + 16 * k)).toNat).zipIdx.map (fun x => (a % 64 + x.2, x.1)),
    dl := 2 ^ 64 - 1, q := d.ports.order }

/-- Each line that becomes active with its MSG bit set sends its message; after a fatal error none goes out (R540, R608). -/
def irqUpdate (fatal : Bool) (d : Dev) : Dev :=
  let now := irqLines d
  let rise := (List.range 4).filter fun k => bitOf now k && !bitOf d.irq.lines k && bit (d.cfgW 0x518) k && !fatal
  { d with irq := { d.irq with lines := now }
           ports := { d.ports with cands := d.ports.cands ++ rise.map (messageReq d), order := d.ports.order + rise.length } }

/-- The log after a command's events, oldest first. -/
def logAfter (s : State) (w : Work) : ErrLog := w.ev.reverse.foldl (fun l e => l.step s.tb.now e) s.log

/-- A fatal error leads to the safe state at once where there is no cast region (R608, R695) or no firmware runs: not yet, or not
in BOOT_FAIL, where nothing runs in the Atelier (R671, R676; DEDUCED, log entry 91). -/
def noDump (d : Dev) : Bool :=
  decide (fld (d.cfgW 0x128) 0 16 < 8) || decide (d.boot.state < 5) || d.boot.state == 7

/-- Where a command's effects reach the state. -/
def commitWork (s : State) (w : Work) : State :=
  let log := logAfter s w
  let first := log.fatal && !s.log.fatal
  let log := if first && noDump w.d then { log with safe := true } else log
  let d := if first then fatalStop s.tb log w.d else w.d
  let d := if log.safe && !s.log.safe then enterSafe d else d
  { s with ram := w.wr.reverse.foldl Ram.step s.ram, log := log, dev := irqUpdate log.fatal (errqPendUpdate s.log log d) }

def State.work (s : State) : Work := ⟨s.tb, s.log, s.ram, s.dev, [], []⟩

/-- Every meaning but a timebase update or a reset is one of these: a change of the working copy, committed. -/
def lift (f : Work → Work) (s : State) : Host.Outcome State Fault Refusal := .next (commitWork s (f s.work))

/-- A meaning of the running block: it does nothing while rst_n or pwr_ok is low or once a fatal error is detected
(R608, R748). -/
def live (f : Work → Work) (w : Work) : Work := if w.log.fatal || !w.d.boot.powered then w else f w

/-- What detects errors: while a fatal error is handled it only logs them (R611). -/
def watch (f : Work → Work) (w : Work) : Work :=
  if w.log.safe || !w.d.boot.powered then w
  else if w.log.fatal then { w with ev := (f w).ev }
  else f w

def run (f : Work → Work) (s : State) : Host.Outcome State Fault Refusal := lift (live f) s

-- Cores and threads ---------------------------------------------------------------------------------------------------

def Work.core (w : Work) (p : Nat) : Core := nth Core.init w.d.cores p
def Work.modCore (w : Work) (p : Nat) (f : Core → Core) : Work :=
  { w with d := { w.d with cores := setNth w.d.cores p (f (w.core p)) } }
def Core.thread (c : Core) (t : Nat) : Thread := nth Thread.init c.threads t
def Work.thread (w : Work) (p t : Nat) : Thread := (w.core p).thread t
def Work.modThread (w : Work) (p t : Nat) (f : Thread → Thread) : Work :=
  w.modCore p fun c => { c with threads := setNth c.threads t (f (c.thread t)) }

/-- Scalar register `r`; x0 reads as zero (R156). -/
def Thread.reg (th : Thread) (r : Nat) : W32 := if r = 0 then 0 else tabGet 0 th.x r
/-- Writes a scalar register; a write of x0 is discarded. -/
def Thread.setReg (th : Thread) (r : Nat) (v : W32) : Thread :=
  if r = 0 then th else { th with x := tabSet 0 th.x r v }
def Thread.goto (th : Thread) (pc : Nat) : Thread := { th with pc := pc }

/-- A lane of a vector register, its poison, and a mask register (R179, R180). -/
def VecState.lane (s : VecState) (r i : Nat) : W32 := tabGet 0 s.v (64 * r + i)
def VecState.poisoned (s : VecState) (r i : Nat) : Bool := tabGet false s.p (64 * r + i)
def VecState.mask (s : VecState) (k : Nat) : BitVec 64 := tabGet 0 s.m k
def VecState.setLane (s : VecState) (r i : Nat) (v : W32) (p : Bool) : VecState :=
  { s with v := tabSet 0 s.v (64 * r + i) v, p := tabSet false s.p (64 * r + i) p }
def VecState.setMask (s : VecState) (k : Nat) (v : BitVec 64) : VecState := { s with m := tabSet 0 s.m k v }

def PlinthState.slot (s : PlinthState) (k : Nat) : TileSlot := tabGet TileSlot.init s.slots k
def PlinthState.setSlot (s : PlinthState) (k : Nat) (v : TileSlot) : PlinthState :=
  { s with slots := tabSet TileSlot.init s.slots k v }
def PlinthState.chain (s : PlinthState) (k : Nat) : Chain := tabGet Chain.init s.chains k
def PlinthState.setChain (s : PlinthState) (k : Nat) (v : Chain) : PlinthState :=
  { s with chains := tabSet Chain.init s.chains k v }

-- Free values ----------------------------------------------------------------------------------------------------------

/-- A fresh number for a free value (the model's own counter). -/
def Work.fresh (w : Work) : Nat × Work := (w.d.free, { w with d := { w.d with free := w.d.free + 1 } })

/-- Bytes whose values the spec leaves open. -/
def Work.freshBytes (w : Work) (n : Nat) : List Byte × Work :=
  ((List.range n).map fun i => (Config.freeValue (w.d.free + i)).setWidth 8, { w with d := { w.d with free := w.d.free + n } })

-- Core memories -------------------------------------------------------------------------------------------------------

/-- Bytes of a core memory: 0 WS, 1 AS, 2 plinth (R333). -/
def memSize (mem : Nat) : Nat := if mem = 0 then 1310720 else if mem = 1 then 524288 else 262144

/-- Is a line of a core memory locked (R382, R664)? -/
def Core.lineLocked (c : Core) (mem line : Nat) : Bool :=
  match mem with
  | 0 => c.locks.wlines.any fun r => decide (r.1 ≤ line) && decide (line < r.1 + r.2)
  | 1 => c.locks.lines.any fun r => decide (r.1 ≤ line) && decide (line < r.1 + r.2)
  | _ => c.locks.plinth

/-- A byte of a core memory; a locked line reads zero (R383). -/
def Work.mread (w : Work) (p mem off : Nat) : Byte :=
  if (w.core p).lineLocked mem (off / 64) then 0 else w.ram.get mem (p * memSize mem + off)
/-- The poison of the granule that holds a byte (R371); a locked line reads clean (R383). -/
def Work.mpoison (w : Work) (p mem off : Nat) : Bool :=
  if (w.core p).lineLocked mem (off / 64) then false else w.ram.poisoned mem ((p * memSize mem + off) / 16)
def Work.mreadN (w : Work) (p mem off n : Nat) : List Byte := (List.range n).map fun i => w.mread p mem (off + i)
def Work.mpoisonN (w : Work) (p mem off n : Nat) : Bool := (List.range n).any fun i => w.mpoison p mem (off + i)

/-- The granule poison a write leaves (R371): poisoned if a byte is; cleared if the write covers the granule; else kept. -/
def granuleOps (mem base : Nat) (bytes : List (Nat × Byte)) (pois : List Nat) : List RamOp :=
  let gs := (bytes.map fun b => b.1 / 16).eraseDups
  gs.filterMap fun g =>
    if pois.any fun o => o / 16 == g then some (.poison mem (base / 16 + g) true)
    else if ((bytes.filter fun b => b.1 / 16 == g).map Prod.fst).eraseDups.length = 16 then
      some (.poison mem (base / 16 + g) false)
    else none

/-- A write of bytes (offset, value) with poisoned offsets to a core memory, dropped whole if it touches a locked line
(R383). -/
def Work.mwrite (w : Work) (p mem : Nat) (bytes : List (Nat × Byte)) (pois : List Nat) : Work :=
  if bytes.any fun b => (w.core p).lineLocked mem (b.1 / 64) then w
  else
    let base := p * memSize mem
    let ops := (bytes.map fun b => RamOp.byte mem (base + b.1) b.2) ++
      (if mem = 2 then [] else granuleOps mem base bytes pois)
    { w with wr := ops.reverse ++ w.wr }

/-- A run of bytes as (offset, value) pairs. -/
def runFrom (off : Nat) (bs : List Byte) : List (Nat × Byte) := bs.zipIdx.map fun (b, i) => (off + i, b)

end Sys2Proof.Machine
end

