-- ==== Sys2Proof/Machine/Operands.lean ====
section
/-! DEFINITION. Operand forms: the fields of descriptors (R501, R504, R505), of batch-list entries (R507) and of the
custom instruction formats (R186, R195, R210). -/

-- Declarations are elaborated one after another: side by side, each would hold a thread and its stack.
set_option Elab.async false

namespace Sys2Proof.Machine

-- Descriptors -------------------------------------------------------------------------------------------------------

def dW (d : List Byte) (o : Nat) : Nat := word32 d o
def dOpc (d : List Byte) : Nat := bitsOf (dW d 0) 24 8
def dRt (d : List Byte) : Bool := bitOf (dW d 0) 23
def dPol (d : List Byte) : Bool := bitOf (dW d 0) 22
def dPrio (d : List Byte) : Nat := bitsOf (dW d 0) 19 3
def dJob (d : List Byte) : Nat := bitsOf (dW d 0) 0 16
def dDl (d : List Byte) : Nat := word64 d 8
def dModel (d : List Byte) : Nat := bitsOf (dW d 4) 24 8
def dLen (d : List Byte) : Nat := bitsOf (dW d 4) 0 9
def dBlist (d : List Byte) : Nat := word64 d 0x30
/-- Buffer reference k as (base, bytes) (R504). -/
def dBuf (d : List Byte) (k : Nat) : Nat × Nat :=
  let v := word64 d (0x10 + 8 * k)
  (bitsOf v 22 42 * 64, bitsOf v 0 22 * 64)

/-- The stream a CHUNK, BIWIN, BIND, RELEASE, FILL or SPILL names, and its expected generation. -/
def dStreamOff (d : List Byte) : Nat := if dOpc d = 2 || dOpc d = 3 then 0x30 else 0x10
def dStream (d : List Byte) : Nat := bitsOf (dW d (dStreamOff d)) 0 16
def dEgv (d : List Byte) : Bool := bitOf (dW d (dStreamOff d)) 31
def dExpgen (d : List Byte) : Nat := dW d (dStreamOff d + 4)

def isStepOpc (o : Nat) : Bool := o == 1 || o == 2 || o == 3

/-- The listed opcodes (R505). -/
def knownOpc (o : Nat) : Bool :=
  [0x01, 0x02, 0x03, 0x10, 0x11, 0x12, 0x13, 0x20, 0x21, 0x22, 0x30, 0x31, 0x3F, 0x40].any (· == o)

/-- A 64-bit address field: bits [63:48] zero, low bits zero (R505). -/
def addrOk (d : List Byte) (o align : Nat) : Bool :=
  decide (word64 d o < 2 ^ 48) && word64 d o % 2 ^ align == 0

/-- Bits of word at offset `o` outside the given mask are zero. -/
def onlyBits (d : List Byte) (o mask : Nat) : Bool := (dW d o) &&& (0xFFFFFFFF - mask) == 0

/-- The reserved fields and ranges of a descriptor (R503, R505). -/
def formatOk (d : List Byte) : Bool :=
  let o := dOpc d
  let w0 := onlyBits d 0 0xFFF8FFFF && (!dPol d || isStepOpc o)
  let z := fun lo hi => zeroRange d lo hi
  w0 && match o with
  | 0x01 => onlyBits d 4 0xFF0001FF && decide (1 ≤ dLen d) && decide (dLen d ≤ 64) && addrOk d 0x30 6 && z 0x38 0x3C
  | 0x02 => onlyBits d 4 0xFF0001FF && decide (1 ≤ dLen d) && decide (dLen d ≤ 256) && onlyBits d 0x30 0x8000FFFF &&
      z 0x38 0x3C
  | 0x03 => onlyBits d 4 0xFF0001FF && onlyBits d 0x30 0x8000FFFF && z 0x38 0x3C
  | 0x10 => onlyBits d 4 0xFF000003 && bitsOf (dW d 4) 0 2 != 3 && onlyBits d 0x10 0xFFFF && onlyBits d 0x1C 0xFFFF &&
      addrOk d 0x20 9 && addrOk d 0x28 6 && z 0x30 0x3C
  | 0x11 => onlyBits d 4 0 && onlyBits d 0x10 0xFFFF && z 0x14 0x3C
  | 0x12 => onlyBits d 4 0 && onlyBits d 0x10 0x8000FFFF && z 0x18 0x3C
  | 0x13 => onlyBits d 4 0 && onlyBits d 0x10 0xC000FFFF && addrOk d 0x18 9 &&
      (!bitOf (dW d 0x10) 30 || word64 d 0x18 != 0) && z 0x20 0x3C
  | 0x20 => onlyBits d 4 0 && addrOk d 0x10 6 && z 0x1C 0x3C
  | 0x21 => onlyBits d 4 0xF && decide (bitsOf (dW d 4) 0 4 ≤ 11) && addrOk d 0x10 6 && z 0x1C 0x3C
  | 0x22 => onlyBits d 4 0 && z 0x10 0x3C
  | 0x30 => onlyBits d 4 0 && onlyBits d 0x10 0x8000003F && z 0x18 0x3C
  | 0x31 => onlyBits d 4 0 && onlyBits d 0x10 0x8000FFFF && bitsOf (dW d 0x10) 0 16 != 0 && z 0x14 0x3C
  | 0x3F => onlyBits d 4 0 && z 0x10 0x3C
  | 0x40 => onlyBits d 4 0xFFFF && addrOk d 0x10 0 && addrOk d 0x20 0 && z 0x1C 0x20 && z 0x2C 0x3C
  | _ => true

/-- CRC over bytes 00h to 3Bh (R501). -/
def descCrcOk (d : List Byte) : Bool := crc32 (sliceAt d 0 0x3C) == dW d 0x3C

/-- Batch-list entry i as (stream, egv, expgen) (R507). -/
def batchEntry (b : List Byte) (i : Nat) : Nat × Bool × Nat :=
  let w := word32 b (16 * i)
  (bitsOf w 0 16, bitOf w 31, word32 b (16 * i + 4))

-- Custom instruction formats ------------------------------------------------------------------------------------------

/-- VOP fields (R186). -/
structure VopF where
  mz : Bool
  me : Bool
  msk : Nat
  vs2 : Nat
  vs1 : Nat
  vd : Nat
  deriving DecidableEq, Repr

def vopFields (w : Nat) : VopF :=
  ⟨bitOf w 26, bitOf w 25, bitsOf w 22 3, bitsOf w 17 5, bitsOf w 12 5, bitsOf w 7 5⟩

/-- VMEM fields (R195). -/
structure VmemF where
  site : Nat
  fmt : Nat
  mz : Bool
  me : Bool
  msk : Nat
  rs1 : Nat
  vd : Nat
  deriving DecidableEq, Repr

def vmemFields (w : Nat) : VmemF :=
  ⟨bitsOf w 25 4, bitsOf w 22 3, bitOf w 21, bitOf w 20, bitsOf w 17 3, bitsOf w 12 5, bitsOf w 7 5⟩

/-- XCMD and XSYS fields (R210). -/
structure XF where
  rs2 : Nat
  rs1 : Nat
  rd : Nat
  deriving DecidableEq, Repr

def xFields (w : Nat) : XF := ⟨bitsOf w 20 5, bitsOf w 15 5, bitsOf w 7 5⟩

/-- Is lane i active (R181): below VL and not masked off. -/
def laneActive (vs : VecState) (vl : Nat) (me : Bool) (msk i : Nat) : Bool :=
  decide (i < vl) && (!me || (vs.mask msk).getLsbD i)

/-- The memory formats of R196: the width in bytes. -/
def fmtWidth (fmt : Nat) : Nat := if fmt ≤ 2 then 1 else if fmt ≤ 4 then 2 else 4

def fmtOf (fmt : Nat) : FFmt := if fmt = 1 then fmtE4M3 else if fmt = 2 then fmtE5M2 else if fmt = 3 then fmtFP16 else fmtBF16

/-- An element of memory as it stands in a register (R196). -/
def loadElem (fmt : Nat) (bs : List Byte) : W32 :=
  let x := leNat bs
  match fmt with
  | 0 => intToF32 (signExt 8 x)
  | 5 => w32 x
  | 6 => w32 x
  | _ => toF32 (fmtOf fmt) x

/-- A register value as it is stored in a memory format (R69, R71, R197), with its flags. -/
def storeElem (fmt : Nat) (r : Rounding) (v : W32) : List Byte × Flags :=
  match fmt with
  | 0 => let p := f32ToInt 8 v; (leBytes 1 (toTwos 8 p.1), p.2)
  | 5 => (leBytes 4 v.toNat, Flags.none)
  | 6 => (leBytes 4 v.toNat, Flags.none)
  | _ => let p := f32To (fmtOf fmt) r v; (leBytes (fmtWidth fmt) p.1, p.2)

/-- The state formats of R264 as formats of R196. -/
def sfmtToFmt (s : Nat) : Nat := if s = 0 then 4 else if s = 1 then 3 else if s = 2 then 1 else 2

end Sys2Proof.Machine
end

