-- ==== Sys2Proof/Machine/Flags.lean ====
section
/-! DEFINITION. The sticky flags of a core (R68, R170 to R172, R194) and the flag bits of a completion record (R517). -/

-- Declarations are elaborated one after another: side by side, each would hold a thread and its stack.
set_option Elab.async false

namespace Sys2Proof.Machine

/-- Records flags of the step: in XFLAGS and in the step's report (R171). -/
def XFlags.record (x : XFlags) (f : Flags) : XFlags :=
  { x with cur := Flags.or x.cur f, report := Flags.or x.report f }

def XFlags.setPs (x : XFlags) (p : Bool) : XFlags := { x with ps := x.ps || p }

/-- XFLAGS as a word: PS, UF, OF, NV in bits 3 to 0 (R170). -/
def XFlags.word (x : XFlags) : W32 :=
  w32 (b2n x.ps * 8 + b2n x.cur.uf * 4 + b2n x.cur.ovf * 2 + b2n x.cur.nv)

/-- A write of XFLAGS by the step program: the report keeps what happened (R171). -/
def XFlags.write (x : XFlags) (v : W32) : XFlags :=
  { x with ps := bit v 3, cur := ⟨bit v 0, bit v 1, bit v 2⟩ }

def Core.recordFlags (c : Core) (f : Flags) : Core := { c with flags := c.flags.record f }

/-- NV, OF and UF as bits 2, 1 and 0 of a completion record (R517). -/
def Flags.recordBits (f : Flags) : Nat := b2n f.nv * 4 + b2n f.ovf * 2 + b2n f.uf

end Sys2Proof.Machine
end

