-- ==== Sys2Proof/Machine/Records.lean ====
section
/-! DEFINITION. Memory-port requests (R407, R410, R712, R723), whole host reads, and completion records (R517 to R521). -/

-- Declarations are elaborated one after another: side by side, each would hold a thread and its stack.
set_option Elab.async false

namespace Sys2Proof.Machine

-- Requests ------------------------------------------------------------------------------------------------------------

/-- Adds a candidate request; Q is its issue order (R409). -/
def Work.request (w : Work) (r : PortReq) : Work :=
  w.mod fun d => { d with ports := { d.ports with cands := d.ports.cands ++ [{ r with q := d.ports.order }],
                                                  order := d.ports.order + 1 } }

/-- Cuts a host range into requests of whole 64-byte lines within 256-byte blocks (R407, R712): each piece is
(line-aligned address, beats, first byte, bytes). Structural on the fuel. -/
def cutRange : Nat → Nat → Nat → List (Nat × Nat × Nat × Nat)
  | 0, _, _ => []
  | fuel + 1, addr, len =>
    if len = 0 then []
    else
      let n := min len (256 - addr % 256)
      let first := addr / 64 * 64
      (first, (addr + n - 1) / 64 - addr / 64 + 1, addr, n) :: cutRange fuel (addr + n) (len - n)

def pieces (addr len : Nat) : List (Nat × Nat × Nat × Nat) := cutRange (len / 256 + 2) addr len

/-- Which port the next request of a unit that spreads its traffic uses (R317, R723). -/
def Work.nextPort (w : Work) : Nat × Work :=
  (w.d.ports.rrPort, w.mod fun d => { d with ports := { d.ports with rrPort := (d.ports.rrPort + 1) % 8 } })

/-- A port to use: a fixed one, or round-robin. -/
def Work.pickPort (w : Work) : Option Nat → Nat × Work
  | some p => (p, w)
  | none => w.nextPort

/-- Host reads in progress for a purpose? -/
def Work.jobFor (w : Work) (k : JobKey) : Option ReadJob := w.d.ports.jobs.find? fun j => j.key == k

/-- A whole read of a host range, cut into requests on one port or spread over all. A read of no bytes completes as it
stands. -/
def Work.readHost (w : Work) (k : JobKey) (addr len : Nat) (port : Option Nat) (dl cl : Nat) : Work :=
  let ps := pieces addr len
  let j := w.d.ports.nextJob
  let w := w.mod fun d => { d with ports :=
    { d.ports with nextJob := j + 1, jobs := d.ports.jobs ++ [⟨j, k, addr, len, [], ps.length, false, 0, 0⟩] } }
  ps.foldl (fun w (first, beats, _, _) =>
    let (p, w) := w.pickPort port
    w.request { PortReq.base with user := .job j (first - addr / 64 * 64), port := p, addr := first, beats := beats, dl := dl, cl := cl }) w

/-- The bytes of a finished read: the pieces in address order, cut to the range. -/
def ReadJob.bytes (j : ReadJob) : List Byte :=
  let lines : Tab (List Byte) := j.pieces.foldl (fun t (a, bs) => tabSet [] t a bs) []
  sliceAt ((lines.map Prod.snd).flatten) (j.addr % 64) j.len

/-- Is the read finished? -/
def ReadJob.ready (j : ReadJob) : Bool := j.left == 0

def Work.dropJob (w : Work) (k : JobKey) : Work :=
  w.mod fun d => { d with ports := { d.ports with jobs := dropFirst (fun j => j.key == k) d.ports.jobs } }

/-- A finished read taken for use: its bytes, or none where it was poisoned or failed. -/
def Work.takeJob (w : Work) (k : JobKey) : Option (Option (List Byte) × Work) :=
  match w.jobFor k with
  | none => none
  | some j => if j.ready then some (if j.bad then none else some j.bytes, w.dropJob k) else none

/-- Writes a host range: one request per 256-byte block (R407). -/
def Work.writeHost (w : Work) (u : User) (addr : Nat) (bs : List Byte) (port : Option Nat) (dl cl : Nat) : Work :=
  (pieces addr bs.length).foldl (fun w (first, beats, a, n) =>
    let (p, w) := w.pickPort port
    let data := ((bs.drop (a - addr)).take n).zipIdx.map fun (b, i) => (a - first + i, b)
    w.request { PortReq.base with user := u, port := p, isWrite := true, addr := first, beats := beats, data := data, dl := dl, cl := cl }) w

/-- Is any request of a user still unanswered? -/
def Work.pendingUser (w : Work) (u : User) : Bool :=
  (w.d.ports.cands.any fun r => r.user == u) || (w.d.ports.out.any fun r => r.user == u && !r.cancelled)

-- Rings -----------------------------------------------------------------------------------------------------------------

def Work.sq (w : Work) (r : Nat) : SqRing := tabGet SqRing.init w.d.rings.sq r
def Work.modSq (w : Work) (r : Nat) (f : SqRing → SqRing) : Work :=
  w.mod fun d => { d with rings := { d.rings with sq := tabMod SqRing.init d.rings.sq r f } }
def Work.cq (w : Work) (k : Nat) : CqRing := tabGet CqRing.init w.d.rings.cq k
def Work.modCq (w : Work) (k : Nat) (f : CqRing → CqRing) : Work :=
  w.mod fun d => { d with rings := { d.rings with cq := tabMod CqRing.init d.rings.cq k f } }

def sqBase (r : Nat) : Nat := 0x1000 + 32 * r
def cqBase (k : Nat) : Nat := 0x2000 + 16 * k
def Work.sqCtrl (w : Work) (r : Nat) : W32 := w.cfg (sqBase r + 8)
def Work.cqCtrl (w : Work) (k : Nat) : W32 := w.cfg (cqBase k + 8)
def Work.sqOn (w : Work) (r : Nat) : Bool := bit (w.sqCtrl r) 31
def Work.cqOn (w : Work) (k : Nat) : Bool := bit (w.cqCtrl k) 31
def Work.sqSize (w : Work) (r : Nat) : Nat := 2 ^ fld (w.sqCtrl r) 0 4
def Work.cqSize (w : Work) (k : Nat) : Nat := 2 ^ fld (w.cqCtrl k) 0 4
def Work.cqOf (w : Work) (r : Nat) : Nat := fld (w.sqCtrl r) 16 6

/-- Free completion entries that no begun descriptor has reserved (R520). -/
def Work.cqFree (w : Work) (k : Nat) : Nat :=
  let c := w.cq k
  let n := w.cqSize k
  n - 1 - ((c.tail + n - c.chead) % n) - c.reserved

-- Begun descriptors -----------------------------------------------------------------------------------------------------

def isExec (r s : Nat) (e : Exec) : Bool := e.ring == r && e.seq == s
def Work.exec? (w : Work) (r s : Nat) : Option Exec := w.d.rings.execs.find? (isExec r s)
def Work.modExec (w : Work) (r s : Nat) (f : Exec → Exec) : Work :=
  w.mod fun d => { d with rings := { d.rings with execs := modFirst (isExec r s) f d.rings.execs } }
def Exec.who (e : Exec) : Nat × Nat × W16 := (e.ring, e.seq, BitVec.ofNat 16 (dJob e.desc))

/-- A descriptor at its begin, or as it completes without beginning. -/
def Exec.fresh (ring seq : Nat) (desc : List Byte) (order bankEp qthr : Nat) : Exec :=
  { ring := ring, seq := seq, desc := desc, order := order, ph := .work, begun := true, lanes := [], cores := [],
    checker := [], bankEp := bankEp, qthr := qthr, redun := false, out := Outc.ok, failed := false, flags := Flags.none, late := false,
    outInv := false, missed := false, result := 0, laneWord := 0, killed := false, stage := 0, wrote := false,
    inrep := 0, inlong := 0, sfail := none, missCause := none, data := [], role := 0, cred := 15 }

/-- DETAIL of CODE or CAUSE (R517): the lane's number where a STEP's CODE is 0000h (R518), else a free value where the spec lays
out none for the code. -/
def Outc.fullDetail (o : Outc) : W32 :=
  if o.cause = 0 then detailOf o.code o.detail else if o.code = 0 then o.detail else detailOf o.cause o.detail

/-- The bytes of a completion record (R517). -/
def recordBytes (e : Exec) (phase : Bool) : List Byte :=
  leBytes 4 (e.out.code.toNat * 65536 + dOpc e.desc * 256 + b2n phase * 128 + b2n e.late * 64 + b2n e.outInv * 32 +
    e.flags.recordBits) ++
  leBytes 4 e.seq ++ leBytes 4 (dJob e.desc * 65536 + e.ring) ++ leBytes 4 (e.out.cause.toNat * 65536) ++
  leBytes 4 e.out.fullDetail.toNat ++ leBytes 4 e.result.toNat ++ leBytes 8 e.laneWord.toNat

/-- Every write of the descriptor's effects has been accepted or has failed for good (R521). -/
def Work.effectsDone (w : Work) (e : Exec) : Bool :=
  !w.pendingUser (.out e.ring e.seq) &&
  !(w.d.pt.streams.any fun s => s.ring == e.ring && s.seq == e.seq && s.cmd.isStore)

-- Deadlines (R482, R525 to R530) -----------------------------------------------------------------------------------------

/-- A deadline has passed when the internal timebase exceeds it (R482); only real-time descriptors are tested (R525), and none
while tb_valid is low (R481). -/
def Exec.passed (e : Exec) (tb : Timebase) : Bool := tb.valid && dRt e.desc && decide (dDl e.desc < tb.now.toNat)

def Dev.model? (d : Dev) (h : Nat) : Option Model := d.models.find? fun m => m.handle == h
def Work.model? (w : Work) (h : Nat) : Option Model := w.d.model? h
/-- The model of a handle for a descriptor that looks for it: one that is being unloaded is not found (R537). -/
def Work.live? (w : Work) (h : Nat) : Option Model := (w.model? h).filter fun m => !m.dead

/-- In-service cores in the order of the core map (R46, R52). -/
def Dev.inService (d : Dev) : List Nat := d.boot.coreMap.filter fun p => !(nth Core.init d.cores p).lost

/-- The checker copy's cores for a model of `n` slots, under redundant execution (R595). -/
def Work.checkerCores (w : Work) (redun : Bool) (n : Nat) : List Nat :=
  if redun then ((w.d.boot.coreMap.drop n).filter fun p => !(w.core p).lost).take n else []

/-- Every core of a step with the slot image it runs: those of its copies once it has them, else those it waits for. -/
def Work.places (w : Work) (e : Exec) : List (Nat × SlotImg) :=
  match w.model? (dModel e.desc) with
  | none => []
  | some m =>
    if e.cores.isEmpty then
      (w.d.boot.coreMap.take m.slots.length).zip m.slots ++ (w.checkerCores e.redun m.slots.length).zip m.slots
    else e.cores.zip m.slots ++ e.checker.zip m.slots

/-- Do two runs of lines meet? -/
def meets (a n b m : Nat) : Bool := decide (a < b + m) && decide (b < a + n)

/-- Does a lock of a core keep a step with this slot image from it (R383)? -/
def Core.lockedFor (k : Core) (img : SlotImg) : Bool :=
  k.locks.plinth || k.locks.lines.any fun r => meets r.1 r.2 img.asBase img.asLen

/-- Has a core followed every TFENCE, and its banks been made alike again (R258)? -/
def Work.bankSettled (w : Work) (p : Nat) : Bool :=
  decide (w.d.rings.fences ≤ (w.core p).tables.switches) && !(w.core p).tables.resync

/-- The FUNC of a MGMT descriptor. -/
def dFunc (d : List Byte) : Nat := bitsOf (dW d 4) 0 16

/-- The stream a STREAM_DRIFT or STREAM_RESTORE names, once its request is read. -/
def Exec.mgmtStream (e : Exec) : Option Nat :=
  if dOpc e.desc = 0x40 && (dFunc e.desc = 2 || dFunc e.desc = 3) && decide (2 ≤ e.stage) then some (word32 e.data 0 % 65536)
  else none
/-- The cores a step needs: those of its copies once it runs, else its model's slots (R46, R595). -/
def Work.coresOf (w : Work) (e : Exec) : List Nat :=
  if e.cores.isEmpty then
    match w.model? (dModel e.desc) with
    | some m => w.d.boot.coreMap.take m.slots.length
    | none => []
  else e.cores ++ e.checker

/-- The DETAIL of DL_WAIT: what the descriptor was doing (R530). -/
def Work.dlDetail (w : Work) (e : Exec) : W32 :=
  let mk := fun (kind id : Nat) => w32 (kind * 2 ^ 28 + id % 65536)
  let o := dOpc e.desc
  let bank := mk 2 ((w.d.inService.find? fun p => !w.bankSettled p).getD 0)
  match e.ph with
  | .wait =>
    if isStepOpc o then
      match e.lanes.find? fun l => l.ph == .fill with
      | some l => mk 1 l.stream
      | none => mk 0 (((e.lanes.find? fun l => l.ph == .wait).map Lane.stream).getD 0)
    else if o = 0x10 || o = 0x11 || o = 0x12 || o = 0x13 then mk (if o = 0x12 && e.stage = 1 then 1 else 0) (dStream e.desc)
    else if o = 0x21 || o = 0x22 then bank
    else match e.mgmtStream with
      | some s => mk 0 s
      | none => mk 7 0
  | .ready =>
    let cs := w.places e
    match cs.find? fun x => decide ((w.core x.1).tables.switches < e.bankEp) with
    | some x => mk 2 x.1
    | none =>
      match cs.find? fun x => (w.core x.1).lockedFor x.2 with
      | some x => mk 3 x.1
      | none => mk 5 ((((cs.find? fun x => (w.core x.1).cur.isSome).orElse fun _ => cs.head?).map Prod.fst).getD 0)
  | .run =>
    match (w.coresOf e).find? fun p => ((w.core p).cur.map fun c => !c.ended).getD false with
    | some p => mk 6 p
    | none => mk 7 0
  | .work => if o = 0x22 then bank else mk 7 0
  | _ => mk 7 0

/-- Does a fetch stream of the step still have lines to land (R426)? -/
def Work.lateStream (w : Work) (e : Exec) : Option PtStream :=
  w.d.pt.streams.find? fun x => x.ring == e.ring && x.seq == e.seq && !x.cmd.isStore

/-- The first cause of a missed deadline, and PORT_RETRY where the deadline ends a retry (R530, R617). -/
def Work.missCauses (w : Work) (e : Exec) (detail : Option W32) : List (W16 × W32) :=
  let first : W16 × W32 := match detail with
    | some d => (0x5106, d)
    | none => match w.lateStream e with
      | some x => (0x5102, w32 (x.port * 65536 + x.slot))
      | none => (0x5106, w.dlDetail e)
  let mine := fun (q : PortReq) => match q.user with
    | .stream p s ep => !q.cancelled && (w.d.pt.streams.any fun x =>
        x.port == p && x.slot == s && x.epoch == ep && x.ring == e.ring && x.seq == e.seq)
    | _ => false
  let retry := if dPol e.desc then (w.d.ports.out.find? fun q => mine q && q.tries != 0).map fun q =>
      ((0x3106 : W16), w32 ((q.tries + 1) * 2 ^ 28 + q.port * 65536 + q.id % 65536)) else none
  [first] ++ retry.toList

/-- An RT descriptor misses its deadline: one DEADLINE entry with its chain (R530), FETCH_LATE counted (R426). -/
def Work.miss (w : Work) (r s : Nat) (detail : Option W32) : Work :=
  match w.exec? r s with
  | none => w
  | some e =>
    if e.missed then w
    else
      let cs := w.missCauses e detail
      let w := w.raise ((0x5101, 0) :: cs) (some e.who)
      let w := if cs.any fun c => c.1 == 0x5102 then
          w.mod fun d => { d with pt := { d.pt with late := satAdd 65535 d.pt.late 1 } } else w
      w.modExec r s fun e => { e with missed := true, missCause := cs.head? }

/-- The cause of a missed deadline stands in the record where the outcome names none (R530). -/
def Exec.withMiss (e : Exec) : Exec :=
  match e.missCause with
  | some (c, d) => if e.out.cause = 0 && (e.out.detail = 0 || e.out.code = 0x5101) then { e with out := ⟨e.out.code, c, d⟩ } else e
  | none => e

/-- Writes the completion record into the entry after the tail (R519), LATE where the deadline was found passed or has passed (R517,
R529); a descriptor that reserved an entry releases the reservation (R520). -/
def Work.putRecord (w : Work) (e0 : Exec) : Work :=
  let late := e0.begun && (e0.missed || e0.passed w.tb)
  let w := if late then w.miss e0.ring e0.seq none else w
  let e := { ((w.exec? e0.ring e0.seq).getD e0).withMiss with late := late }
  let k := w.cqOf e.ring
  let c := w.cq k
  let n := w.cqSize k
  let w := w.writeHost (.record e.ring e.seq k) (w.cfgAddr (cqBase k) + 32 * c.tail) (recordBytes e c.phase)
    (some (e.ring % 8)) (2 ^ 64 - 1) 7
  let w := w.modCq k fun c => { c with
    tail := (c.tail + 1) % n, phase := (if (c.tail + 1) % n = 0 then !c.phase else c.phase),
    reserved := (if e.begun then c.reserved - 1 else c.reserved) }
  w.modExec e.ring e.seq fun e => { e with ph := .record }

/-- Moves a descriptor whose outcome is known on: from its effects to its record once every write is accepted; one that
never began first needs a free completion entry. -/
def Work.settle (w : Work) (r s : Nat) : Work :=
  match w.exec? r s with
  | none => w
  | some e =>
    match e.ph with
    | .effects => if w.effectsDone e then w.putRecord e else w
    | .blocked => if 0 < w.cqFree (w.cqOf r) then w.putRecord e else w
    | _ => w

/-- Numeric flags of a step, logged where ERRQ_NUMMASK asks for it (R612). -/
def Work.logNumeric (w : Work) (e : Exec) : Work :=
  let m := w.cfg 0x318
  let put := fun (w : Work) (on : Bool) (i : Nat) (c : W16) => if on && bit m i then w.raise [(c, 0)] (some e.who) else w
  put (put (put w e.flags.nv 2 0x4101) e.flags.ovf 1 0x4102) e.flags.uf 0 0x4103

/-- Gives a begun descriptor its outcome: its record follows once its effects are accepted (R521). -/
def Work.finish (w : Work) (r s : Nat) (o : Outc) (result : W32) (laneWord : W64) : Work :=
  match w.exec? r s with
  | none => w
  | some e =>
    let w := if isStepOpc (dOpc e.desc) then w.logNumeric e else w
    let w := w.modExec r s fun e => { e with ph := .effects, out := o, result := result, laneWord := laneWord }
    w.settle r s

/-- A descriptor with a code and nothing else. -/
def Work.finishCode (w : Work) (r s : Nat) (c : W16) : Work := w.finish r s ⟨c, 0, 0⟩ 0 0

/-- The generation that LANES gives a descriptor on one stream: CHUNK, BIWIN, BIND, FILL, SPILL; zero for any other (R517). -/
def Work.genWord (w : Work) (desc : List Byte) : W64 :=
  if [0x02, 0x03, 0x10, 0x12, 0x13].any (· == dOpc desc) then
    BitVec.ofNat 64 (tabGet CtxEntry.init w.d.arm.ctx (dStream desc)).gen.toNat
  else 0

/-- A descriptor that completes without beginning (R502, R503, R509, R535): no reservation, its record as soon as an entry
is free. -/
def Work.unbegunWith (w : Work) (r s : Nat) (desc : List Byte) (o : Outc) (killed : Bool) : Work :=
  let e := { Exec.fresh r s desc w.d.rings.nextOrder 0 0 with
    ph := .blocked, begun := false, out := o, killed := killed, laneWord := w.genWord desc }
  let w := w.mod fun d => { d with rings := { d.rings with execs := d.rings.execs ++ [e], nextOrder := d.rings.nextOrder + 1 } }
  w.settle r s

/-- The same with a code alone. -/
def Work.unbegun (w : Work) (r s : Nat) (desc : List Byte) (c : W16) (killed : Bool) : Work :=
  w.unbegunWith r s desc ⟨c, 0, 0⟩ killed

end Sys2Proof.Machine
end

