-- ==== Sys2Proof/Machine/Armature.lean ====
section
/-! DEFINITION. The Armature (07): layer state layout, context entries, pages and state slots, eviction, spill records. -/

-- Declarations are elaborated one after another: side by side, each would hold a thread and its stack.
set_option Elab.async false

namespace Sys2Proof.Machine

-- Models and their state (R264, R266, R267, R299) -----------------------------------------------------------------------

def Layer.chans (l : Layer) : Nat := l.chm1 + 1
/-- State elements of a layer (R266). -/
def Layer.elems (l : Layer) : Nat := if l.oper = 3 then l.chans * (l.ktaps - 1) else l.chans * 2 ^ (l.ncode + 3)
def Layer.fmt (l : Layer) : Nat := sfmtToFmt l.sfmt
def Layer.bytes (l : Layer) : Nat := l.elems * fmtWidth l.fmt

def Model.elems (m : Model) : Nat := (m.layers.map Layer.elems).sum
def Model.stateBytes (m : Model) : Nat := (m.layers.map Layer.bytes).sum
/-- Pages of one half (R299). -/
def Model.halfPages (m : Model) : Nat := max 1 (ceilDiv m.stateBytes 2048)

/-- The format and byte offset of element `e` of the state (R267, R299). -/
def elemAt : List Layer → Nat → Nat → Option (Nat × Nat)
  | [], _, _ => none
  | l :: ls, base, e => if e < l.elems then some (l.fmt, base + e * fmtWidth l.fmt) else elemAt ls (base + l.bytes) (e - l.elems)

-- Context entries ---------------------------------------------------------------------------------------------------------

def Work.ctx (w : Work) (s : Nat) : CtxEntry := tabGet CtxEntry.init w.d.arm.ctx s
def Work.modArm (w : Work) (f : Arm → Arm) : Work := w.mod fun d => { d with arm := f d.arm }
def Work.modCtx (w : Work) (s : Nat) (f : CtxEntry → CtxEntry) : Work :=
  w.modArm fun a => { a with ctx := tabMod CtxEntry.init a.ctx s f }

/-- Timebase [41:10], as LAST_USE holds it (R294). -/
def Work.useTime (w : Work) : W32 := w32 (bitsOf w.now 10 32)

/-- The eight words of a context entry (R294). -/
def CtxEntry.words (c : CtxEntry) : List W32 :=
  [w32 (c.model * 2 ^ 24 + c.driftK * 2 ^ 12 + b2n c.driftEn * 2 ^ 11 + b2n c.driftOut * 2 ^ 10 + b2n c.noslot * 2 ^ 9 +
      b2n c.half * 2 ^ 8 + c.run * 16 + b2n c.spillCur * 8 + c.st.code),
   c.gen, w32 c.sidx.toNat, w32 (c.prun * 2 ^ 28 + c.sslot * 2 ^ 16 + c.sidx.toNat / 2 ^ 32),
   w32 c.spill, w32 (c.spill / 2 ^ 32), w32 (c.dhi.toNat * 65536 + c.dlo.toNat), c.lastUse]

/-- Does the entry hold a valid SSLOT (R294, R301)? -/
def CtxEntry.resident (c : CtxEntry) : Bool :=
  match c.st with
  | .filling => true
  | .resident => true
  | .busy => true
  | .spilling => true
  | .quarantined => !c.noslot
  | _ => false

def Arm.residents (a : Arm) : Nat := (a.ctx.filter fun kv => kv.2.resident).length
def Arm.freePages (a : Arm) : Nat := 8192 - a.pages.length
def Arm.zeroing (a : Arm) : Nat := (a.pages.filter fun kv => kv.2 == 2).length

def SSlot.init : SSlot := ⟨[], [], []⟩
def Work.sslot (w : Work) (k : Nat) : SSlot := tabGet SSlot.init w.d.arm.slots k
def SSlot.pagesOf (s : SSlot) (half : Bool) : List Nat := if half then s.half1 else s.half0

/-- The state-store byte at offset `o` of a half. -/
def halfAddr (pages : List Nat) (o : Nat) : Nat := nth 0 pages (o / 2048) * 2048 + o % 2048
def Work.halfBytes (w : Work) (pages : List Nat) (o n : Nat) : List Byte :=
  (List.range n).map fun i => w.ram.get 3 (halfAddr pages (o + i))
def Work.writeHalf (w : Work) (pages : List Nat) (o : Nat) (bs : List Byte) : Work :=
  { w with wr := (bs.zipIdx.map fun (b, i) => RamOp.byte 3 (halfAddr pages (o + i)) b).reverse ++ w.wr }

/-- The bytes of a stream's active half. -/
def Work.activeState (w : Work) (s n : Nat) : List Byte :=
  let c := w.ctx s
  w.halfBytes ((w.sslot c.sslot).pagesOf c.half) 0 n

-- Pages (R298, R302) ------------------------------------------------------------------------------------------------------

/-- Free pages of a slice, 2,048 pages each. -/
def sliceFree (t : Tab Nat) (k : Nat) : Nat := 2048 - (t.filter fun kv => kv.1 / 2048 == k).length

/-- The slice for the page after one in slice `prev`: another one with free pages, of these the one with most; `prev` only where
no other has any (R302). -/
def nextSlice (t : Tab Nat) (prev : Nat) : Nat :=
  let others := (List.range 4).filter fun k => k != prev && sliceFree t k != 0
  match sortBy (fun a b => decide (sliceFree t b < sliceFree t a) || (sliceFree t a == sliceFree t b && decide (a ≤ b))) others with
  | k :: _ => k
  | [] => prev

/-- Takes `n` free pages, consecutive ones in different slices where free pages allow (R302); `prev` is the slice of the page
before, 4 for the first of a half. -/
def takePages : Nat → Nat → Tab Nat → List Nat × Tab Nat
  | 0, _, t => ([], t)
  | n + 1, prev, t =>
    let s := nextSlice t prev
    match lowest 2048 fun k => tabGet 0 t (s * 2048 + k) == 0 with
    | none => ([], t)
    | some k =>
      let r := takePages n s (tabSet 0 t (s * 2048 + k) 1)
      ((s * 2048 + k) :: r.1, r.2)

/-- Allocates a footprint and a state slot for a stream (R299); the caller has checked that the pages exist. -/
def Work.allocSlot (w : Work) (s half : Nat) : Work :=
  let (h0, t) := takePages half 4 w.d.arm.pages
  let (h1, t) := takePages half 4 t
  match lowest 4096 fun k => (tabGet SSlot.init w.d.arm.slots k) == SSlot.init with
  | none => w
  | some k =>
    let w := w.modArm fun a => { a with pages := t, slots := tabSet SSlot.init a.slots k ⟨h0, h1, []⟩ }
    w.modCtx s fun c => { c with sslot := k }

/-- Gives up a stream's footprint: its pages are zeroed, then free (R302). -/
def Work.freeSlot (w : Work) (s : Nat) : Work :=
  let k := (w.ctx s).sslot
  let sl := w.sslot k
  let w := w.modArm fun a => { a with
    pages := (sl.half0 ++ sl.half1).foldl (fun t p => tabSet 0 t p 2) a.pages,
    slots := tabSet SSlot.init a.slots k SSlot.init,
    passes := a.passes.filter fun x => x.stream != s }
  w.modCtx s fun c => { c with sslot := 0 }

/-- RELEASE: the pages are zeroed and freed and the entry zeroed (R303), sync and partner-held bits cleared (R565, R576). -/
def Work.releaseStream (w : Work) (s : Nat) : Work :=
  let w := if (w.ctx s).resident then w.freeSlot s else w
  let w := w.mod fun d => { d with peer := { d.peer with partner := tabSet false d.peer.partner s false,
                                                         sync := tabSet false d.peer.sync s false,
                                                         digDone := d.peer.digDone.filter fun x => x.stream != s } }
  w.modArm fun a => { a with ctx := tabSet CtxEntry.init a.ctx s CtxEntry.init, digests := tabSet 0 a.digests s 0,
                             dropped := a.dropped.filter (· != s), ctxBad := a.ctxBad.filter (· != s) }

-- Spill records (R310 to R312) ----------------------------------------------------------------------------------------------

/-- The header unit in plaintext (R311). -/
def recordHeader (s : Nat) (c : CtxEntry) (bytes : Nat) (digest : Nat) : List Byte :=
  leBytes 4 s ++ leBytes 4 c.gen.toNat ++ leBytes 4 c.sidx.toNat ++
  leBytes 4 (c.model * 65536 + c.sidx.toNat / 2 ^ 32) ++ leBytes 4 bytes ++ leBytes 4 0 ++ leBytes 8 digest ++
  List.replicate (512 - 0x20) 0

/-- The tweak of data unit j (R312). -/
def recordTweak (s : Nat) (c : CtxEntry) (j : Nat) : Nat :=
  c.sidx.toNat * 2 ^ 64 + c.gen.toNat * 2 ^ 32 + s * 2 ^ 16 + j

def cryptUnits (dec : Bool) (key : List Byte) (s : Nat) (c : CtxEntry) : Nat → Nat → List Byte → List Byte
  | 0, _, _ => []
  | n + 1, j, bs =>
    xtsUnit dec (key.take 32) (key.drop 32) (recordTweak s c j) (bs.take 512) ++
      cryptUnits dec key s c n (j + 1) (bs.drop 512)

/-- A record as it stands in host memory: header unit and payload, encrypted (R310, R312). -/
def Work.recordFor (w : Work) (key : List Byte) (s : Nat) (m : Model) : List Byte :=
  let c := w.ctx s
  let st := w.activeState s m.stateBytes
  let pl := st ++ List.replicate (2048 * m.halfPages - m.stateBytes) 0
  let plain := recordHeader s c m.stateBytes (crc64 st) ++ pl
  cryptUnits false key s c (1 + 4 * m.halfPages) 0 plain

/-- The payload of a record that verifies under R314. -/
def openRecord (key : List Byte) (s : Nat) (c : CtxEntry) (m : Model) (enc : List Byte) : Option (List Byte) :=
  let plain := cryptUnits true key s c (1 + 4 * m.halfPages) 0 enc
  let st := (plain.drop 512).take m.stateBytes
  let good := plain.take 512 == recordHeader s c m.stateBytes (crc64 st) &&
    ((plain.drop (512 + m.stateBytes)).all (· == 0))
  if good then some (plain.drop 512) else none

def recordLen (m : Model) : Nat := 512 + 2048 * m.halfPages

def Work.memKey (w : Work) : Option (List Byte) := w.d.sec.keys.map KeyRecord.memKey

-- Eviction and allocation (R301, R319, R320) -------------------------------------------------------------------------------

/-- Is a stream named by a descriptor in execution: one that has begun and whose record is not accepted? -/
def Work.namedInExec (w : Work) (s : Nat) : Bool :=
  w.d.rings.execs.any fun e => e.begun &&
    ((e.lanes.any fun l => l.stream == s) || e.mgmtStream == some s ||
      ((dOpc e.desc == 0x10 || dOpc e.desc == 0x11 || dOpc e.desc == 0x12 || dOpc e.desc == 0x13) && dStream e.desc == s))

/-- Is a digest pass of a stream still to be made? -/
def Work.passDue (w : Work) (s : Nat) : Bool := w.d.arm.passes.any fun x => x.stream == s

/-- Eviction candidates for a descriptor, oldest first, lower stream id where ages are equal (R319, R320, R771). -/
def Work.evictable (w : Work) (ring seq : Nat) : List Nat :=
  let ok := w.d.arm.ctx.filter fun (s, c) =>
    c.st == .resident && c.spill != 0 && !w.namedInExec s && (c.spillCur || w.memKey.isSome) &&
    !(w.d.arm.noEvict.any fun x => x == (ring, seq, s))
  let age := fun (c : CtxEntry) => (w.useTime - c.lastUse).toNat
  (sortBy (fun a b => decide (age b.2 < age a.2) || (age a.2 == age b.2 && decide (a.1 ≤ b.1))) ok).map Prod.fst

/-- Footprint in pages of a resident stream. -/
def Work.footprint (w : Work) (s : Nat) : Nat :=
  let sl := w.sslot (w.ctx s).sslot
  sl.half0.length + sl.half1.length

/-- The shortest head of the candidates whose footprints reach a need. -/
def chooseEvict (fp : Nat → Nat) : List Nat → Nat → List Nat
  | [], _ => []
  | s :: ss, need => if need = 0 then [] else s :: chooseEvict fp ss (need - fp s)

/-- The JOB of a descriptor. -/
def Work.jobOf (w : Work) (r s : Nat) : W16 := ((w.exec? r s).map fun e => e.who.2.2).getD 0

/-- Starts a spill of a resident stream: the record writes are issued (R313, R317). Class 6 for a SPILL, 2 for an
eviction. -/
def Work.startSpill (w : Work) (s : Nat) (ring seq dl : Nat) (evict : Bool) : Work :=
  match w.memKey, w.model? (w.ctx s).model with
  | some key, some m =>
    let bytes := w.recordFor key s m
    let w := w.modCtx s fun c => { c with st := .spilling }
    let w := w.modArm fun a => { a with jobs := a.jobs ++ [⟨s, false, ring, seq, w.jobOf ring seq, evict, dl, true, 0, 0⟩] }
    w.writeHost (.spill s) ((w.ctx s).spill * 512) bytes none dl (if evict then 2 else 6)
  | _, _ => w

/-- Evicts a stream: with a current record its pages are freed at once, else it is spilled first (R303), once its digest pass is
over (R324). -/
def Work.evict (w : Work) (ring seq dl s : Nat) : Work :=
  if (w.ctx s).spillCur then (w.freeSlot s).modCtx s fun c => { c with st := .spilled }
  else if w.passDue s then w
  else w.startSpill s ring seq dl true

/-- What a page need meets (R301, R319). -/
inductive Room where
  | ok | later | full
  deriving DecidableEq, Repr

/-- Judges the page need of a fill or BIND: without eviction only what is free counts; with it the oldest candidates go if they
meet the need (R301, R319), and pages on their way to the free pool count as to come. -/
def Work.makeRoom (w : Work) (ring seq dl half : Nat) : Room × Work :=
  let need := 2 * half
  let a := w.d.arm
  if need ≤ a.freePages && a.residents < 4096 then (.ok, w)
  else if !bit (w.cfg 0x400) 8 then (.full, w)
  else
    let spilling := a.jobs.filter fun j => !j.isFill && j.evict
    let coming := a.zeroing + (spilling.map fun j => w.footprint j.stream).sum
    if a.residents - spilling.length < 4096 && need ≤ a.freePages + coming then (.later, w)
    else
      let pick := chooseEvict w.footprint (w.evictable ring seq) (max 1 (need - a.freePages - coming))
      let total := (pick.map w.footprint).sum
      if need ≤ a.freePages + coming + total && !pick.isEmpty then
        (.later, pick.foldl (fun w s => w.evict ring seq dl s) w)
      else (.full, w)

/-- Starts a fill of a spilled stream: footprint, FILLING, record reads (R303, R314, R317). -/
def Work.startFill (w : Work) (s ring seq dl : Nat) (m : Model) : Work :=
  let w := (w.allocSlot s m.halfPages).modCtx s fun c => { c with st := .filling }
  let w := w.modArm fun a => { a with jobs := a.jobs ++ [⟨s, true, ring, seq, w.jobOf ring seq, false, dl, true, 0, 0⟩] }
  w.readHost (.fill s) ((w.ctx s).spill * 512) (recordLen m) none dl 2

def Work.dropArmJob (w : Work) (s : Nat) : Work :=
  w.modArm fun a => { a with jobs := dropFirst (fun j => j.stream == s) a.jobs }
def Work.armJob (w : Work) (s : Nat) : Option ArmJob := w.d.arm.jobs.find? fun j => j.stream == s

/-- PRUN counts a poisoned step; at a non-zero QTHR the stream is quarantined and STREAM_QUAR raised once (R303, R325).
`slot` says whether it keeps its state slot. -/
def Work.countPoison (w : Work) (s qthr : Nat) (slot : Bool) (back : StreamSt) (who : Option (Nat × Nat × W16)) : Work :=
  let n := min 15 ((w.ctx s).prun + 1)
  if qthr ≠ 0 && decide (qthr ≤ n) then
    let w := if slot then w else w.freeSlot s
    (w.modCtx s fun c => { c with prun := n, st := .quarantined, noslot := !slot }).raise [(0x2103, w32 s)] who
  else
    let w := if slot then w else w.freeSlot s
    w.modCtx s fun c => { c with prun := n, st := back }

end Sys2Proof.Machine
end

