-- ==== Sys2Proof/Machine/StepEnd.lean ====
section
/-! DEFINITION. How a step ends: streams of the pointing engines (R425), cores (R119, R175, R357), lanes (R303), batch
list (R507), and a failing step (R118, R178). -/

-- Declarations are elaborated one after another: side by side, each would hold a thread and its stack.
set_option Elab.async false

namespace Sys2Proof.Machine

-- Locks over core, step and streams ----------------------------------------------------------------------------------------

def PtStream.ofStep (r s : Nat) (x : PtStream) : Bool := x.ring == r && x.seq == s

/-- Which stream a request serves. -/
def streamUser (p s e : Nat) (u : User) : Bool := u == .stream p s e

/-- Ends every fetch and store stream of a step (R425): unissued requests are cancelled; a store stream stays only while
writes it has issued are unanswered. -/
def Work.endStreams (w : Work) (r s : Nat) : Work :=
  let mine := w.d.pt.streams.filter (PtStream.ofStep r s)
  let gone := fun (q : PortReq) => mine.any fun x => q.user == .stream x.port x.slot x.epoch
  let out := w.d.ports.out
  let issued := fun (x : PtStream) => (out.filter fun q => q.isWrite && q.user == .stream x.port x.slot x.epoch).length
  let keep := fun (x : PtStream) =>
    if PtStream.ofStep r s x then
      (if x.cmd.isStore && issued x != 0 then some { x with src := [], lineQ := [], cmd := { x.cmd with nrec := 0 } }
       else none)
    else some x
  w.mod fun d => { d with ports := { d.ports with cands := d.ports.cands.filter fun q => !gone q },
                          pt := { d.pt with streams := d.pt.streams.filterMap keep } }

/-- The core's execution state at the end of a step (R119, R357): slots FREE, chains discarded, windows closed, gather
buffer drained. -/
def Core.endStep (c : Core) : Core :=
  { c with threads := c.threads.map (fun t => { t with st := .ended }), queue := [], mmas := [], gather := [],
           plinth := { c.plinth with slots := [], tags := [], chains := [] }, land := { c.land with opens := [] },
           cur := none }

/-- A pending trim takes effect at a step boundary of an in-service core, whether the core is idle or its step has ended on it (R42,
R465, R471): the probe count starts again, the confirmations
of R464 end but for a core at its limit (R467); the change is counted. -/
def Work.applyTrim (w : Work) (p : Nat) : Work :=
  let k := w.core p
  let boundary := match k.cur with
    | some c => c.ended
    | none => true
  match boundary && !k.lost, k.cal.pend with
  | true, some t =>
    let w := w.modCore p fun k => { k with cal := { k.cal with trim := t, pend := none, probes := 0, confirmAll := k.cal.limit } }
    w.mod fun d => { d with cal := { d.cal with
      longer := (if k.cal.trim < t then satAdd 65535 d.cal.longer 1 else d.cal.longer),
      shorter := (if t < k.cal.trim then satAdd 65535 d.cal.shorter 1 else d.cal.shorter) } }
  | _, _ => w

/-- Cache tags of a step that ends: a failed step's records are not cached (R440). -/
def Core.settleCache (c : Core) (failed : Bool) : Core :=
  { c with cache := if failed then c.cache.filter (fun t => !t.fresh) else c.cache.map fun t => { t with fresh := false } }

/-- Ends a step on every core it holds. -/
def Work.endCores (w : Work) (e : Exec) (failed : Bool) : Work :=
  (e.cores ++ e.checker).foldl (fun w p =>
    match (w.core p).cur with
    | some cur =>
      if cur.ring = e.ring && cur.seq = e.seq then (w.modCore p fun c => (c.settleCache failed).endStep).applyTrim p
      else w
    | none => w) w

/-- A stream leaves BUSY, FILLING or SPILLING: one whose model was unloaded meanwhile is released now (R537). -/
def Work.leave (w : Work) (s : Nat) : Work :=
  if w.d.arm.dropped.any (· == s) then w.releaseStream s else w

/-- BUSY lanes return to RESIDENT and nothing changes (R303). -/
def Work.lanesBack (w : Work) (e : Exec) : Work :=
  e.lanes.foldl (fun w l =>
    if l.ph == .busy && !l.committed then
      (w.modCtx l.stream fun c => if c.st = .busy then { c with st := .resident } else c).leave l.stream
    else w) w

/-- The status words of entry `i` of a batch list (R507). A lane that committed without event has code 0000h; one whose record
reported INPUT_LONG (R434) has that code, the record of a lane being the one of its number (log entry 100). -/
def laneStatus (e : Exec) (i : Nat) (l : Lane) (gen : W32) : List Byte :=
  let code := if l.code != 0 then l.code else if !l.committed then e.out.code
    else if e.inlong.getLsbD i then 0x1062 else 0
  let marked := l.ph == .absent || l.poisoned
  leBytes 4 (b2n (l.ph == .absent) * 2 ^ 18 + b2n marked * 2 ^ 17 + b2n l.committed * 2 ^ 16 + code.toNat) ++
    leBytes 4 gen.toNat

/-- Writes every entry's status words of a STEP (R507). -/
def Work.writeBatch (w : Work) (r s : Nat) : Work :=
  match w.exec? r s with
  | none => w
  | some e =>
    if dOpc e.desc = 1 then
      e.lanes.zipIdx.foldl (fun w (l, i) =>
        w.writeHost (.out r s) (dBlist e.desc + 16 * i + 8) (laneStatus e i l (w.ctx l.stream).gen) (some (r % 8))
          (2 ^ 64 - 1) 7) w
    else w

/-- The LANES word: committed lanes of a STEP, the stream's generation otherwise (R517). -/
def Work.lanesWord (w : Work) (e : Exec) : W64 :=
  if dOpc e.desc = 1 then
    BitVec.ofNat 64 ((e.lanes.zipIdx.map fun (l, i) => if l.committed then 2 ^ i else 0).sum)
  else BitVec.ofNat 64 (w.ctx (dStream e.desc)).gen.toNat

/-- Ends a step that does not commit with its code (R178, R527, R535): streams end, threads stop on every core, BUSY lanes
return to RESIDENT; OUTINV tells that writes had issued. -/
def Work.endStepWith (w : Work) (r s : Nat) (o : Outc) : Work :=
  match w.exec? r s with
  | none => w
  | some e =>
    match e.ph with
    | .effects => w
    | .record => w
    | .blocked => w
    | _ =>
      let report := ((e.cores ++ e.checker).map fun p => (w.core p).flags.report).foldl Flags.or e.flags
      let w := ((w.endStreams r s).endCores e true).lanesBack e
      let w := w.modExec r s fun e => { e with out := o, outInv := e.wrote, flags := report, failed := true }
      (w.writeBatch r s).finish r s o 0 (w.lanesWord { e with lanes := e.lanes.map fun l => { l with committed := false } })

/-- A step fails with a code and detail (R178). -/
def Work.failStep (w : Work) (r s : Nat) (c : W16) (detail : W32) : Work := w.endStepWith r s ⟨c, 0, detail⟩

/-- The step running on a core fails. -/
def Work.failCore (w : Work) (p : Nat) (c : W16) : Work :=
  match (w.core p).cur with
  | some cur => w.failStep cur.ring cur.seq c 0
  | none => w

/-- The descriptor a core works for, as error entries name it. -/
def Work.whoOf (w : Work) (p : Nat) : Option (Nat × Nat × W16) :=
  match (w.core p).cur with
  | none => none
  | some cur => (w.exec? cur.ring cur.seq).map Exec.who

-- What the running step gives its cores ---------------------------------------------------------------------------------

/-- The running step of a core with its model and slot entry. -/
structure Ctx where
  cur   : Cur
  e     : Exec
  m     : Model
  img   : SlotImg
  deriving DecidableEq, Repr

def SlotImg.init : SlotImg := ⟨[], 0, [], 0, 0, 0, 0, 0, false, 0, 0, [], []⟩

def Work.ctxOf (w : Work) (p : Nat) : Option Ctx :=
  match (w.core p).cur with
  | none => none
  | some cur =>
    match w.exec? cur.ring cur.seq with
    | none => none
    | some e => (w.model? (dModel e.desc)).map fun m => ⟨cur, e, m, nth SlotImg.init m.slots cur.slot⟩

/-- LEN of the step: lanes of a STEP, positions otherwise. -/
def Ctx.len (c : Ctx) : Nat := dLen c.e.desc
/-- The lane that ROW names (R203). -/
def Ctx.laneOf (c : Ctx) (row : Nat) : Lane :=
  nth ⟨0, false, 0, .wait, 0, false, false, false, 0, 0⟩ c.e.lanes (if dOpc c.e.desc = 1 then row else 0)
/-- The step index the rounding of ROW uses (R76, R203). -/
def Ctx.stepIdx (c : Ctx) (row : Nat) : Nat :=
  (c.laneOf row).sidx + (if dOpc c.e.desc = 1 then 0 else row)

/-- Lines lie within the slot's declared lines (R351). -/
def SlotImg.declared (s : SlotImg) (line n : Nat) : Bool :=
  decide (s.asBase ≤ line) && decide (line + n ≤ s.asBase + s.asLen)

/-- The physical core of a logical slot for the copy a core runs (R46, R595). -/
def Ctx.coreOf (c : Ctx) (slot : Nat) : Nat :=
  if c.cur.checker then nth 0 c.e.checker slot else nth 0 c.e.cores slot

end Sys2Proof.Machine
end

