-- ==== Sys2Proof/Machine/Issue.lean ====
section
/-! DEFINITION. Fetching and naming the instruction at a thread's pc, and how an instruction ends: it goes on, sleeps or
fails the step (R160 to R164, R169, R178). -/

-- Declarations are elaborated one after another: side by side, each would hold a thread and its stack.
set_option Elab.async false

namespace Sys2Proof.Machine

/-- The step-program rows of the table: what an instruction word is. -/
inductive Row where
  | base | csr
  | fadd | fsub | fmul | fma | fnma | fmin | fmax | fsgnj | iadd | isub | imul | imin | imax | vand | vor | vxor
  | vsll | vsrl | vsra | fcmplt | fcmple | fcmpeq | icmplt | icmpeq | fcvti | icvtf | fabs | fneg | vmov | laneid
  | vsplat | vsel | rfsum | rfmax | rfmin | risum | rimax | rimin | mpop | mfirst | mand | mor | mandn | mxor | mnot
  | mset | mclr | vfn | vgact
  | vld | vst | prd | pwr | vlds | vsts | vrng | vldb
  | xmma | xrel | xchain | xtally | xstout | xstin | xstrd | xpt
  | xsetvl | xwait | xcnt | xstart | xend | xjoin | xfence | xcset
  deriving DecidableEq, Repr

/-- The VOP operations by FUNCT (R187), where the row depends on FUNCT alone. -/
def vopRow (f : Nat) : Option Row :=
  match f with
  | 0 => some .fadd | 1 => some .fsub | 2 => some .fmul | 3 => some .fma | 4 => some .fnma | 5 => some .fmin
  | 6 => some .fmax | 7 => some .fsgnj | 8 => some .iadd | 9 => some .isub | 10 => some .imul | 11 => some .imin
  | 12 => some .imax | 13 => some .vand | 14 => some .vor | 15 => some .vxor | 16 => some .vsll | 17 => some .vsrl
  | 18 => some .vsra | 25 => some .vsplat | 26 => some .vsel
  | _ => none

/-- The comparisons, which write the mask that VD [2:0] names (R187). -/
def cmpRow (f : Nat) : Option Row :=
  match f with
  | 19 => some .fcmplt | 20 => some .fcmple | 21 => some .fcmpeq | 22 => some .icmplt | 23 => some .icmpeq
  | _ => none

def unaryRow (s : Nat) : Option Row :=
  match s with
  | 0 => some .fcvti | 1 => some .icvtf | 2 => some .fabs | 3 => some .fneg | 4 => some .vmov | 5 => some .laneid
  | _ => none

def reduceRow (s : Nat) : Option Row :=
  match s with
  | 0 => some .rfsum | 1 => some .rfmax | 2 => some .rfmin | 3 => some .risum | 4 => some .rimax | 5 => some .rimin
  | 8 => some .mpop | 9 => some .mfirst
  | _ => none

def maskRow (m : Nat) : Option Row :=
  match m with
  | 0 => some .mand | 1 => some .mor | 2 => some .mandn | 3 => some .mxor | 4 => some .mnot | 5 => some .mset
  | 6 => some .mclr
  | _ => none

/-- The row of a VOP word; none for an undefined encoding (R187 to R192). -/
def vopRowOf (w : Nat) : Option Row :=
  let f := bitsOf w 27 5
  let v := vopFields w
  if f = 24 then unaryRow v.vs2
  else if f = 27 then reduceRow v.vs2
  else if f = 28 then
    (if v.me || 8 ≤ v.vd || 8 ≤ v.vs1 || 8 ≤ v.vs2 then none else maskRow v.msk)
  else if f = 29 then (if v.vs2 ≤ 11 then some .vfn else none)
  else if f = 30 then (if v.vs2 ≤ 11 then some .vgact else none)
  else if 19 ≤ f && f ≤ 23 then cmpRow f
  else vopRow f

/-- The row of a VMEM word (R195 to R197, R207); R200 judges the FMT of PRD and PWR. -/
def vmemRowOf (w : Nat) : Option Row :=
  let v := vmemFields w
  let ok := v.fmt ≠ 7
  match bitsOf w 29 3 with
  | 0 => if ok then some .vld else none
  | 1 => if ok && v.site ≠ 15 then some .vst else none
  | 2 => some .prd
  | 3 => some .pwr
  | 4 => if ok then some .vlds else none
  | 5 => if ok then some .vsts else none
  | 6 => if ok then some .vrng else none
  | _ => if ok then some .vldb else none

/-- The row of an XCMD word (R210, R211). -/
def xcmdRowOf (w : Nat) : Option Row :=
  if bitsOf w 25 7 ≠ 0 then none
  else match bitsOf w 12 3 with
    | 0 => some .xmma | 1 => some .xrel | 2 => some .xchain | 3 => some .xtally | 4 => some .xstout | 5 => some .xstin
    | 6 => some .xstrd
    | _ => some .xpt

/-- The row of an XSYS word (R213). -/
def xsysRowOf (w : Nat) : Option Row :=
  if bitsOf w 25 7 ≠ 0 then none
  else match bitsOf w 12 3 with
    | 0 => some .xsetvl | 1 => some .xwait | 2 => some .xcnt | 3 => some .xstart | 4 => some .xend | 5 => some .xjoin
    | 6 => some .xfence
    | _ => some .xcset

/-- The row an instruction word belongs to (R185). Words that are no instruction belong to BASE_INSTRUCTION, where they
fail the step (R161). -/
def rowOf (w : Nat) : Row :=
  match bitsOf w 0 7 with
  | 0x0B => (vopRowOf w).getD .base
  | 0x2B => (vmemRowOf w).getD .base
  | 0x5B => (xcmdRowOf w).getD .base
  | 0x7B => (xsysRowOf w).getD .base
  | 0x73 => if bitsOf w 12 3 = 0 || bitsOf w 12 3 = 4 then .base else .csr
  | _ => .base

/-- The instruction at a pc: its word (16 or 32 bits) and its length; none outside the step program or at an odd
address (R160). -/
def fetchAt (img : SlotImg) (pc : Nat) : Option (Nat × Nat) :=
  if pc % 2 = 0 ∧ pc + 2 ≤ img.prog.length then
    let lo := leNat (sliceAt img.prog pc 2)
    if lo % 4 = 3 then
      (if pc + 4 ≤ img.prog.length then some (leNat (sliceAt img.prog pc 4), 4) else none)
    else some (lo, 2)
  else none

/-- How an instruction ends: the thread goes on at a pc, sleeps with its pc kept, or the step fails. -/
inductive Res where
  | go (w : Work) (pc : Nat)
  | sleep (why : Sleep)
  | fail (code : W16) (detail : W32)
  deriving DecidableEq, Repr

/-- Has what a thread waits for come about (R163)? -/
def slotChanged (c : Core) (s : Nat) : Bool := (c.plinth.slot s).st != .accum

def Work.engineFree (w : Work) (port : Nat) : Bool :=
  (w.d.pt.streams.filter fun s => s.port == port).length < 256

/-- Is a stream the STORE of a BIWIN window that still computes? Its writes wait until the window is done (R286), and neither XFENCE
nor the end of the step on a core waits for them (DEDUCED, log entry 104). -/
def Work.heldStore (w : Work) (x : PtStream) : Bool :=
  x.cmd.isStore && (w.exec? x.ring x.seq).any fun e => dOpc e.desc == 3 && e.ph == .run

/-- Operations a thread issued that XFENCE still waits for (R770): its array commands, its streams, its remote stores. -/
def Work.fenceClear (w : Work) (p t : Nat) : Bool :=
  let c := w.core p
  let mine := fun (r s : Nat) => match c.cur with
    | some cur => cur.ring == r && cur.seq == s
    | none => false
  !(c.queue.any fun m => m.thread == t) && !(c.mmas.any fun m => m.thread == t) &&
  !(w.d.pt.streams.any fun s => s.core == p && s.thread == t && mine s.ring s.seq && !w.heldStore s) &&
  !((w.d.mesh.stores ++ w.d.mesh.early).any fun s => s.fromCore == p && s.thread == t && mine s.ring s.seq) &&
  !(w.d.mesh.acks.any fun a => a.core == p && a.thread == t && mine a.ring a.seq) &&
  !(w.d.peer.spanOut.any fun s => s.core == p && s.thread == t && mine s.ring s.seq)

/-- Lines that stand in a core's mesh port and have not been injected (R368). -/
def Work.meshLines (w : Work) (p : Nat) : Nat :=
  ((w.d.mesh.stores.filter fun s => s.fromCore == p).map RStore.queued).sum

/-- Does a pointing command use the sprue chain: a FETCH with DEST not 00b (R392, R418)? -/
def usesChain (b : List Byte) : Bool := bitsOf (word32 b 0) 28 4 == 2 && bitsOf (word32 b 0) 10 2 != 0

/-- Is there room for a command at the chain's injection point, which queues eight (R418)? -/
def Work.chainRoom (w : Work) : Bool :=
  decide ((w.d.pt.streams.filter fun x => !x.cmd.isStore && x.cmd.dest != 0).length < 8)

/-- Is the instruction at a thread's pc one for the function unit, and the thread running or asleep for the unit (R224)? -/
def Work.fuReady (w : Work) (p : Nat) (img : SlotImg) (t : Nat) : Bool :=
  let th := w.thread p t
  (th.st == .running || th.st == .sleeping .fu) &&
    match fetchAt img th.pc with
    | some (word, 4) => rowOf word == .vfn || rowOf word == .vgact
    | _ => false

/-- The thread the function unit grants: round-robin, from the thread after the one granted last (R224). -/
def Work.fuGrant (w : Work) (p : Nat) (img : SlotImg) : Option Nat :=
  ((List.range 8).map fun i => ((w.core p).tables.lastFu + 1 + i) % 8).find? (w.fuReady p img)

/-- The slot image of the step on a core. -/
def Work.imgOf (w : Work) (p : Nat) : SlotImg := ((w.ctxOf p).map Ctx.img).getD SlotImg.init

/-- Has what a sleeping thread waits for come about (R163)? -/
def Work.awake (w : Work) (p t : Nat) : Sleep → Bool
  | .slot s => slotChanged (w.core p) s
  | .tally s => slotChanged (w.core p) s
  | .chain k => !((w.core p).plinth.chain k).isOpen
  | .counter k target => decide (target ≤ (tabGet 0 (w.core p).land.ctrs k).toNat)
  | .threads mask =>
    (List.range 8).all fun k => !bitOf mask k || k == t || (w.thread p k).st == .ended
  | .queue _ => (w.core p).queue.length < 4
  | .engine port b => w.engineFree port && (!usesChain b || w.chainRoom)
  | .mesh => w.meshLines p < 8
  | .fence => w.fenceClear p t
  | .fu => w.fuGrant p (w.imgOf p) == some t

/-- A thread that sleeps and whose wait has not ended. -/
def Work.stillWaits (w : Work) (p t : Nat) : Option Sleep :=
  match (w.thread p t).st with
  | .sleeping why => if w.awake p t why then none else some why
  | _ => none

def Work.liveThreads (w : Work) (p : Nat) : List Nat := (List.range 8).filter fun t => (w.thread p t).st != .ended

/-- The slots an MMA names (R111). -/
def Mma.slots (m : Mma) : List Nat := (List.range (m.nrow + 1)).map fun r => m.slot + r

/-- The format a command requires (R132). -/
def Mma.fmt (m : Mma) : PlFmt := if !m.isExact then .promoted else if m.pair = 6 then .exact16 else .exact8
/-- The kind of its elements (R136). -/
def Mma.kind (m : Mma) : Kind :=
  if m.pair ≤ 1 then .int else if !m.isExact then .fp else if m.pair = 6 then .fp16 else .e4m3

def PlinthState.allFree (s : PlinthState) : Bool := s.slots.all fun kv => kv.2.st == .free

/-- What a command at the head of the queue meets: it waits, fails, or begins. -/
inductive Head where
  | waits
  | fails (code : W16)
  | begins
  deriving DecidableEq, Repr

/-- The head of the queue against its slots (R135, R136, R139, R769, R115). A FIRST = 1 command that meets a DONE slot of the other
kind fails at once and does not wait for RELEASE (log entry 101). -/
def Core.judgeHead (k : Core) (m : Mma) : Head :=
  let s := k.plinth
  let sls := m.slots.map fun i => (i, s.slot i)
  if s.fmt != m.fmt && !s.allFree then .fails 0x1035
  else if sls.any fun x => x.2.st != .free && x.2.kind != m.kind then .fails 0x1035
  else
    let draining := fun i => k.mmas.any fun x => x.isFinal && x.slots.any (· == i)
    let bad := sls.any fun x =>
      if m.first then x.2.st == .held || (x.2.st == .accum && !draining x.1) else x.2.st != .accum
    if bad then .fails 0x1034
    else if m.first && sls.any fun x => x.2.st == .done || x.2.st == .accum then .waits
    else if sls.any fun x => decide (16777216 < (if m.first then 0 else x.2.len) + m.klen) then .fails 0x1036
    else .begins

/-- Does the command at the head of the queue wait on a slot (R139, R769)? -/
def Core.queueWaits (c : Core) : Bool :=
  match c.queue with
  | [] => false
  | m :: _ => c.judgeHead m == .waits

/-- The two deadlocks the block detects: every live thread under XJOIN (R176), and a waiting array queue that no live thread,
if there is one, can relieve (R140). Where both hold the code of R176 is reported (log entry 101). -/
def Work.stallCheck (w : Work) (p : Nat) : Work :=
  let ts := w.liveThreads p
  if (w.core p).cur.isNone then w
  else
    let joins := !ts.isEmpty && ts.all fun t => match w.stillWaits p t with
      | some (.threads _) => true
      | _ => false
    let stuck := ts.all fun t => match w.stillWaits p t with
      | some (.threads _) => true
      | some (.slot _) => true
      | some (.tally _) => true
      | some (.chain _) => true
      | some (.queue _) => true
      | _ => false
    if joins then w.failCore p 0x103A
    else if stuck && (w.core p).queueWaits && (w.core p).mmas.isEmpty then w.failCore p 0x1034
    else w

/-- Applies how an instruction ended. -/
def Work.apply (w : Work) (p t : Nat) : Res → Work
  | .go w' pc => (w'.modThread p t fun th => { th with pc := pc }).stallCheck p
  | .sleep why => (w.modThread p t fun th => { th with st := .sleeping why }).stallCheck p
  | .fail c d =>
    match (w.core p).cur with
    | some cur => w.failStep cur.ring cur.seq c d
    | none => w

/-- The instruction a running thread of a running step is about to execute. -/
def Work.current (w : Work) (p t : Nat) : Option (Ctx × Option (Nat × Nat)) :=
  if (w.thread p t).st == .running && decide (t < 8) && decide (p < 32) then
    match w.ctxOf p with
    | some c => if c.e.ph == .run then some (c, fetchAt c.img (w.thread p t).pc) else none
    | none => none
  else none

/-- Takes an armed fault of a kind on a core (R623); answers whether there was one, and its argument. -/
def Work.takeArmed (w : Work) (kind core : Nat) : Option (Nat × Work) :=
  (w.d.saf.armed.find? fun a => a.1 == kind && a.2.1 == core).map fun a =>
    (a.2.2, w.mod fun d => { d with saf := { d.saf with armed := dropFirst (fun b => b.1 == kind && b.2.1 == core) d.saf.armed } })

/-- Takes an armed fault of a kind on a core with an argument. -/
def Work.takeArmedAt (w : Work) (kind core arg : Nat) : Option Work :=
  (w.d.saf.armed.find? fun a => a == (kind, core, arg)).map fun _ =>
    w.mod fun d => { d with saf := { d.saf with armed := dropFirst (· == (kind, core, arg)) d.saf.armed } }

/-- Takes an armed fault of a kind by its argument. -/
def Work.takeArmedArg (w : Work) (kind arg : Nat) : Option Work :=
  (w.d.saf.armed.find? fun a => a.1 == kind && a.2.2 == arg).map fun _ =>
    w.mod fun d => { d with saf := { d.saf with armed := dropFirst (fun b => b.1 == kind && b.2.2 == arg) d.saf.armed } }

/-- A disagreement of the control core and its shadow (R169), one that SAFE_INJECT brings about marked as such (R623). -/
def Work.lockstepFail (w : Work) (p t : Nat) (c : Ctx) (inj : Bool) : Work :=
  let detail := w32 (0x04 * 65536 + p * 256 + t)
  let w := { w with ev := .chain [(0x8105, detail)] (some c.e.who) inj [p] :: w.ev }
  w.failStep c.cur.ring c.cur.seq 0x8105 detail

/-- Does the row issue to the vector engine (R185)? Its issues are what R663 counts. -/
def Row.isVector : Row → Bool
  | .base | .csr | .xmma | .xrel | .xchain | .xtally | .xstout | .xstin | .xstrd | .xpt => false
  | .xsetvl | .xwait | .xcnt | .xstart | .xend | .xjoin | .xfence | .xcset => false
  | _ => true

/-- Counts an issue of the vector engine (R663). -/
def Res.counted (row : Row) (p : Nat) : Res → Res
  | .go w pc =>
    if row.isVector then
      .go (w.modCore p fun k => { k with perf := { k.perf with vops := (k.perf.vops + 1) % 2 ^ 64 } }) pc
    else .go w pc
  | r => r

/-- Runs the instruction at a thread's pc if it belongs to the row the command names; else nothing happens. -/
def instr (row : Row) (p t : Nat) (f : Ctx → Nat → Nat → Work → Res) (w : Work) : Work :=
  match w.current p t with
  | some (c, some (word, len)) =>
    if (if len = 2 then Row.base else rowOf word) = row then
      match w.takeArmed 2 p with
      | some (_, w) => w.lockstepFail p t c true
      | none => w.apply p t ((f c word len w).counted row p)
    else w
  | some (_, none) => if row = .base then w.failCore p 0x1039 else w
  | none => w

/-- PROG_ILLEGAL and PROG_ACCESS (R160, R161). -/
def Res.illegal : Res := .fail 0x1038 0
def Res.access : Res := .fail 0x1039 0

/-- A custom instruction that completes: the thread goes on at the next word. -/
def Work.done (w : Work) (p t : Nat) : Res := .go w ((w.thread p t).pc + 4)

-- Rates ---------------------------------------------------------------------------------------------------------------------

/-- The guaranteed beat rate of an operating point (R475). -/
def oppRate (opp : Nat) : W32 := if opp = 0 then 900000 else if opp = 1 then 1200000 else 1500000

/-- XBRATE of a core (R474): the count of its last rate window; before the first one the guaranteed rate of the operating point
(R475). -/
def Dev.brate (d : Dev) (p : Nat) : W32 :=
  let c := (nth Core.init d.cores p).cal
  if c.rated then c.xbrate else oppRate (fld (d.cfgW 0x200) 0 2)

-- The data memory (R159, R160) ---------------------------------------------------------------------------------------------

/-- A run of bytes of the model's data memory: the constant region from address 0, the scratch region directly after it (log
entry 6). -/
def dmem (img : SlotImg) (scratch : Tab Byte) (a n : Nat) : Option (List Byte) :=
  let k := img.consts.length
  if a + n ≤ k then some (sliceAt img.consts a n)
  else if k ≤ a && decide (a + n ≤ k + img.scratch) then some (tabRun 0 scratch (a - k) n)
  else none

end Sys2Proof.Machine
end

