-- ==== Sys2Proof/Machine/PeerOps.lean ====
section
/-! DEFINITION. Gipilvo frames and links (12): building and queueing frames, judging received ones, sending span stores. -/

-- Declarations are elaborated one after another: side by side, each would hold a thread and its stack.
set_option Elab.async false

namespace Sys2Proof.Machine

def Work.modPeer (w : Work) (f : Peer → Peer) : Work := w.mod fun d => { d with peer := f d.peer }
def Work.peerMode (w : Work) : Nat := fld (w.cfg 0x800) 0 2
def Work.myPos (w : Work) : Nat := fld (w.cfg 0x800) 2 2
def Work.nblk (w : Work) : Nat := fld (w.cfg 0x800) 4 2
def Work.linkOn (w : Work) (l : Nat) : Bool := bit (w.cfg 0x800) (6 + l)
def Work.peerPos (w : Work) (b : Nat) : PeerPos := tabGet PeerPos.init w.d.peer.pos b
def Work.modPos (w : Work) (b : Nat) (f : PeerPos → PeerPos) : Work :=
  w.modPeer fun p => { p with pos := tabMod PeerPos.init p.pos b f }
/-- Has a link accepted a frame from a position and not been silent since (PEER_STATUS, R585)? -/
def Work.linkUp (w : Work) (l b : Nat) : Bool := tabGet false w.d.peer.up (4 * l + b)
/-- Has a link been found silent towards a position (R569)? -/
def Work.linkMute (w : Work) (l b : Nat) : Bool := tabGet false w.d.peer.mute (4 * l + b)
/-- Does a link carry frames to a position: enabled and not silent? -/
def Work.linkGood (w : Work) (l b : Nat) : Bool := w.linkOn l && !w.linkMute l b
def Work.paired (w : Work) (b : Nat) : Bool := (w.peerPos b).paired

/-- The other positions of the configuration (R556). -/
def Work.others (w : Work) : List Nat :=
  if w.peerMode = 0 then [] else (List.range (w.nblk + 1)).filter (· != w.myPos)
/-- The partner of a mirrored block (R561). -/
def Work.partnerPos (w : Work) : Nat := if w.myPos = 0 then 1 else 0

/-- The link a frame to a position goes out on when it needs one: the preferred one if enabled and not silent, else the other
(R569). -/
def Work.pickLink (w : Work) (dst prefer : Nat) : Nat :=
  let o := 1 - prefer
  if w.linkGood prefer dst then prefer else if w.linkGood o dst then o
  else if w.linkOn prefer || !w.linkOn o then prefer else o

/-- The queue of a frame type (R546). -/
def queueOf (typ : Nat) : Nat :=
  if typ = 1 || typ = 2 || typ = 3 then 3 else if typ = 4 || typ = 9 || typ = 11 then 2
  else if typ = 8 || typ = 7 || typ = 10 then 1 else 0

/-- Type-specific fields of a frame (R551, R552). -/
structure FrameArgs where
  flags : Nat := 0
  d     : Nat := 0
  a     : Nat := 0
  b     : Nat := 0
  c     : Nat := 0
  deriving DecidableEq, Repr

/-- The MAC address of a position (R544). -/
def Work.macOf (w : Work) (b : Nat) : Nat :=
  (w.cfg (0x840 + 8 * b)).toNat + fld (w.cfg (0x844 + 8 * b)) 0 16 * 2 ^ 32

/-- The Ethernet header of a frame to a position: the receiver's address and the own one (R544), the tag with the PCP of the frame's
queue, DEI 0 and the VLAN id (R543, R546), EtherType 88B5h. -/
def Work.ethHeader (w : Work) (dst queue : Nat) : List Byte :=
  let v := w.cfg 0x80C
  beBytes 6 (w.macOf dst) ++ beBytes 6 (w.macOf w.myPos) ++ [0x81, 0x00] ++
    beBytes 2 (fld v (12 + 4 * queue) 3 * 2 ^ 13 + fld v 0 12) ++ [0x88, 0xB5]

/-- The octets of a frame on its link, FCS included: the data field reaches the least length of IEEE 802.3 with zeros (R543). -/
def TxFrame.octets (f : TxFrame) : List Byte :=
  let b := f.eth ++ f.bytes
  let b := b ++ List.replicate (60 - b.length) 0
  b ++ leBytes 4 (crc32 b)

/-- Header and payload with the CRC in place (R551). -/
def frameBytes (typ : Nat) (x : FrameArgs) (seq : Nat) (epoch : W32) (dst src : Nat) (payload : List Byte) : List Byte :=
  let h := leBytes 4 (1 * 2 ^ 28 + typ * 2 ^ 24 + x.flags * 2 ^ 16 + payload.length) ++ leBytes 4 seq ++
    leBytes 4 epoch.toNat ++ leBytes 4 (x.d * 2 ^ 16 + dst * 4 + src) ++ leBytes 4 x.a ++ leBytes 4 x.b ++ leBytes 4 x.c
  let crc := crc32 (h ++ [0, 0, 0, 0] ++ payload)
  h ++ leBytes 4 crc ++ payload

/-- A frame with another SEQ, its CRC following. -/
def frameWithSeq (bs : List Byte) (seq : Nat) : List Byte :=
  let b := patchBytes (patchBytes bs 4 (leBytes 4 seq)) 0x1C [0, 0, 0, 0]
  patchBytes b 0x1C (leBytes 4 (crc32 b))

/-- Takes the next SEQ of a link and receiving position (R554). -/
def Work.nextSeq (w : Work) (link dst : Nat) : Nat × Work :=
  let key := link * 4 + dst
  let seq := tabGet 0 w.d.peer.txSeq key
  (seq.toNat, w.modPeer fun p => { p with txSeq := tabSet 0 p.txSeq key (seq + 1) })

/-- Queues a frame on a link: SEQ of the link and receiving position counts every frame (R554). Answers the SEQ used. A
link that is not enabled carries no frame (R741). -/
def Work.sendFrame (w : Work) (link dst typ : Nat) (x : FrameArgs) (payload : List Byte) (stream : Nat) (gen : W32) :
    Nat × List Byte × Work :=
  let epoch := if typ = 1 || typ = 2 then 0 else (w.peerPos dst).epoch
  let r := w.nextSeq link dst
  let bytes := frameBytes typ x r.1 epoch dst w.myPos payload
  if w.linkOn link then
    (r.1, bytes, r.2.modPeer fun p => { p with
      txq := p.txq ++ [⟨link, queueOf typ, typ, dst, stream, gen, w.ethHeader dst (queueOf typ), bytes⟩] })
  else (r.1, bytes, w)

def Work.send (w : Work) (link dst typ : Nat) (x : FrameArgs) (payload : List Byte) : Work :=
  (w.sendFrame link dst typ x payload 0 0).2.2

/-- Sends on both enabled links. -/
def Work.sendBoth (w : Work) (dst typ : Nat) (x : FrameArgs) (payload : List Byte) : Work :=
  (w.send 0 dst typ x payload).send 1 dst typ x payload

-- Received frames (R545, R553 to R555, R560) ------------------------------------------------------------------------------

/-- The header of a received frame. -/
structure Hdr where
  typ   : Nat
  flags : Nat
  plen  : Nat
  seq   : Nat
  epoch : W32
  d     : Nat
  dst   : Nat
  src   : Nat
  a     : Nat
  b     : Nat
  c     : Nat
  deriving DecidableEq, Repr

def hdrOf (bs : List Byte) : Hdr :=
  let w0 := word32 bs 0
  let w3 := word32 bs 12
  ⟨bitsOf w0 24 4, bitsOf w0 16 8, bitsOf w0 0 11, word32 bs 4, w32 (word32 bs 8), bitsOf w3 16 16, bitsOf w3 2 2,
   bitsOf w3 0 2, word32 bs 16, word32 bs 20, word32 bs 24⟩

/-- What becomes of a received frame. -/
inductive RxRes where
  | accept (h : Hdr)
  | ignore
  | crcErr
  | late
  | dup (h : Hdr)
  deriving DecidableEq, Repr

def Work.rxOf (w : Work) (link src : Nat) : RxSeq := tabGet RxSeq.init w.d.peer.rxSeq (link * 4 + src)

/-- Is a position one of the others of the configuration (R556, R557)? -/
def Work.otherPos (w : Work) (b : Nat) : Bool := b != w.myPos && decide (b ≤ w.nblk)

/-- Judges a received frame by R545, R553, R560, R555 and R554, in that order. A HELLO from a position outside the configuration is
looked at, since its check is R557's; a frame of a pairing that has ended is late (R555), one from a position never paired is not
accepted (R560). -/
def Work.judge (w : Work) (link : Nat) (f : RxFrame) : RxRes :=
  let h := hdrOf f.bytes
  let w0 := word32 f.bytes 0
  if !w.linkOn link || w.peerMode = 0 then .ignore
  else if !f.fcsOk then .crcErr
  else if f.dst != w.macOf w.myPos || !f.tagged || f.vid != fld (w.cfg 0x80C) 0 12 || f.etherType != 0x88B5 then .ignore
  else if f.bytes.length < 32 || f.bytes.length != 32 + h.plen || 1040 < h.plen || bitsOf w0 28 4 != 1 ||
      bitsOf w0 11 5 != 0 || bitsOf (word32 f.bytes 12) 4 12 != 0 || h.typ = 0 || 11 < h.typ ||
      crc32 (patchBytes f.bytes 0x1C [0, 0, 0, 0]) != word32 f.bytes 0x1C then .crcErr
  else if h.typ ≠ 1 && !w.otherPos h.src then .ignore
  else if 2 < h.typ && !w.paired h.src then (if (w.peerPos h.src).past then .late else .ignore)
  else if 2 < h.typ && h.epoch != (w.peerPos h.src).epoch then .late
  else
    let r := w.rxOf link h.src
    if r.some? && h.seq + 255 < r.top then .late
    else if r.some? && r.seen.any (· == h.seq) then .dup h
    else .accept h

/-- Records an accepted frame: its SEQ, and the link is not silent (R554, R569). -/
def Work.accepted (w : Work) (link : Nat) (h : Hdr) : Work :=
  w.modPeer fun p =>
    let r := tabGet RxSeq.init p.rxSeq (link * 4 + h.src)
    let top := if r.some? then max r.top h.seq else h.seq
    { p with up := (if w.otherPos h.src then tabSet false p.up (4 * link + h.src) true else p.up),
             mute := tabSet false p.mute (4 * link + h.src) false,
             rxSeq := tabSet RxSeq.init p.rxSeq (link * 4 + h.src)
               ⟨true, top, h.seq :: r.seen.filter fun q => decide (top ≤ q + 256)⟩ }

/-- A received frame of a type: `f` gets the header once it is accepted; other frames belong to FRAME_DISCARD. -/
def onFrame (typ link : Nat) (fr : RxFrame) (f : Hdr → List Byte → Work → Work) (w : Work) : Work :=
  match w.judge link fr with
  | .accept h => if h.typ = typ then f h (fr.bytes.drop 32) (w.accepted link h) else w
  | _ => w

-- Span stores (R580, R581) ----------------------------------------------------------------------------------------------------

/-- Is a begun step pairable (R581)? Decided as it begins and kept in `stage` bit 0 of the step. -/
def Exec.pairable (e : Exec) : Bool := e.stage % 2 == 1

/-- Sends a span store of whole lines: `addr` is the window address, `first` the first line number of the window it touches. The
frame has no byte mask (R552), so a byte of its lines that no active lane writes is sent with a value the spec leaves open (log
entry 102). -/
def Work.spanStore (w : Work) (p t : Nat) (c : Ctx) (blk addr : Nat) (bytes : List (Nat × Byte)) (pois : List Nat) :
    Res :=
  let target := (w.myPos + blk) % 4
  let off := bitsOf addr 0 19
  let first := off / 64
  let last := (bytes.map fun b => b.1 / 64).foldl max first
  let n := last - first + 1
  if w.peerMode ≠ 2 || w.nblk < target then .fail 0x6107 0
  else if !c.e.pairable then .fail 0x610D 0
  else if 16 < n then .fail 0x610C 0
  else
    let open_ := w.freshBytes (64 * n)
    let w := open_.2
    let data := open_.1.zipIdx.map fun (b, i) => ((bytes.find? fun x => x.1 == 64 * first + i).map Prod.snd).getD b
    let mask := ((List.range (4 * n)).map fun g => if pois.any fun o => o / 16 == 4 * first + g then 2 ^ g else 0).sum
    let link := w.pickLink target (c.cur.slot % 2)
    let dl := dDl c.e.desc
    let r := w.sendFrame link target 8
      { flags := c.cur.slot, d := dJob c.e.desc, a := addr, b := dl % 2 ^ 32, c := dl / 2 ^ 32 }
      (data ++ leBytes 8 mask) 0 0
    let w := r.2.2.modPeer fun q => { q with
      spanOut := q.spanOut ++ [⟨p, t, c.cur.ring, c.cur.seq, r.1, link, target, 0, r.2.1⟩] }
    w.done p t

end Sys2Proof.Machine
end

