-- ==== Sys2Proof/Machine/ControlCore.lean ====
section
/-! DEFINITION. The control core's base instructions: RV32I, M, C and Zicsr (R156, R161, R170, R171). -/

namespace Sys2Proof.Machine

-- RV32C: each compressed word stands for one 32-bit word ---------------------------------------------------------------

def encI (imm rs1 f3 rd op : Nat) : Nat := (imm % 4096) * 2 ^ 20 + rs1 * 2 ^ 15 + f3 * 2 ^ 12 + rd * 2 ^ 7 + op
def encR (f7 rs2 rs1 f3 rd op : Nat) : Nat :=
  f7 * 2 ^ 25 + rs2 * 2 ^ 20 + rs1 * 2 ^ 15 + f3 * 2 ^ 12 + rd * 2 ^ 7 + op
def encS (imm rs2 rs1 f3 op : Nat) : Nat := encR (bitsOf imm 5 7) rs2 rs1 f3 (bitsOf imm 0 5) op
def encB (imm rs2 rs1 f3 : Nat) : Nat :=
  (bitsOf imm 12 1) * 2 ^ 31 + (bitsOf imm 5 6) * 2 ^ 25 + rs2 * 2 ^ 20 + rs1 * 2 ^ 15 + f3 * 2 ^ 12 +
    (bitsOf imm 1 4) * 2 ^ 8 + (bitsOf imm 11 1) * 2 ^ 7 + 0x63
def encJ (imm rd : Nat) : Nat :=
  (bitsOf imm 20 1) * 2 ^ 31 + (bitsOf imm 1 10) * 2 ^ 21 + (bitsOf imm 11 1) * 2 ^ 20 + (bitsOf imm 12 8) * 2 ^ 12 +
    rd * 2 ^ 7 + 0x6F

/-- A sign-extended immediate from scattered bits: `parts` are (bit of the word, lowest bit of the value, width). -/
def gatherImm (w : Nat) (parts : List (Nat × Nat × Nat)) : Nat :=
  (parts.map fun (src, dst, n) => bitsOf w src n * 2 ^ dst).sum
def sextTo (wid x : Nat) : Nat := toTwos 32 (signExt wid x)

/-- The 32-bit word a compressed word stands for; none if it is reserved, illegal, or of an extension the core lacks. -/
def expandC (w : Nat) : Option Nat :=
  let rd := bitsOf w 7 5
  let rs2 := bitsOf w 2 5
  let rd' := bitsOf w 2 3 + 8
  let rs1' := bitsOf w 7 3 + 8
  let imm6 := gatherImm w [(12, 5, 1), (2, 0, 5)]
  let lw := gatherImm w [(10, 3, 3), (6, 2, 1), (5, 6, 1)]
  match bitsOf w 0 2, bitsOf w 13 3 with
  | 0, 0 =>
    let imm := gatherImm w [(11, 4, 2), (7, 6, 4), (6, 2, 1), (5, 3, 1)]
    if imm = 0 then none else some (encI imm 2 0 rd' 0x13)
  | 0, 2 => some (encI lw rs1' 2 rd' 0x03)
  | 0, 6 => some (encS lw rd' rs1' 2 0x23)
  | 1, 0 => some (encI (sextTo 6 imm6) rd 0 rd 0x13)
  | 1, 1 => some (encJ (sextTo 12 (gatherImm w
      [(12, 11, 1), (11, 4, 1), (9, 8, 2), (8, 10, 1), (7, 6, 1), (6, 7, 1), (3, 1, 3), (2, 5, 1)])) 1)
  | 1, 2 => some (encI (sextTo 6 imm6) 0 0 rd 0x13)
  | 1, 3 =>
    if imm6 = 0 then none
    else if rd = 2 then
      some (encI (sextTo 10 (gatherImm w [(12, 9, 1), (6, 4, 1), (5, 6, 1), (3, 7, 2), (2, 5, 1)])) 2 0 2 0x13)
    else some (bitsOf (sextTo 6 imm6) 0 20 * 2 ^ 12 + rd * 2 ^ 7 + 0x37)
  | 1, 4 =>
    match bitsOf w 10 2 with
    | 0 => if bitOf w 12 then none else some (encI imm6 rs1' 5 rs1' 0x13)
    | 1 => if bitOf w 12 then none else some (encI (imm6 + 0x400) rs1' 5 rs1' 0x13)
    | 2 => some (encI (sextTo 6 imm6) rs1' 7 rs1' 0x13)
    | _ =>
      if bitOf w 12 then none
      else match bitsOf w 5 2 with
        | 0 => some (encR 0x20 rd' rs1' 0 rs1' 0x33)
        | 1 => some (encR 0 rd' rs1' 4 rs1' 0x33)
        | 2 => some (encR 0 rd' rs1' 6 rs1' 0x33)
        | _ => some (encR 0 rd' rs1' 7 rs1' 0x33)
  | 1, 5 => some (encJ (sextTo 12 (gatherImm w
      [(12, 11, 1), (11, 4, 1), (9, 8, 2), (8, 10, 1), (7, 6, 1), (6, 7, 1), (3, 1, 3), (2, 5, 1)])) 0)
  | 1, 6 => some (encB (sextTo 9 (gatherImm w [(12, 8, 1), (10, 3, 2), (5, 6, 2), (3, 1, 2), (2, 5, 1)])) 0 rs1' 0)
  | 1, 7 => some (encB (sextTo 9 (gatherImm w [(12, 8, 1), (10, 3, 2), (5, 6, 2), (3, 1, 2), (2, 5, 1)])) 0 rs1' 1)
  | 2, 0 => if bitOf w 12 then none else some (encI imm6 rd 1 rd 0x13)
  | 2, 2 => if rd = 0 then none else some (encI (gatherImm w [(12, 5, 1), (4, 2, 3), (2, 6, 2)]) 2 2 rd 0x03)
  | 2, 4 =>
    if bitOf w 12 then
      (if rs2 = 0 then (if rd = 0 then none else some (encI 0 rd 0 1 0x67)) else some (encR 0 rs2 rd 0 rd 0x33))
    else if rs2 = 0 then (if rd = 0 then none else some (encI 0 rd 0 0 0x67))
    else some (encR 0 rs2 0 0 rd 0x33)
  | 2, 6 => some (encS (gatherImm w [(9, 2, 4), (7, 6, 2)]) rs2 2 2 0x23)
  | _, _ => none

-- RV32I and M ---------------------------------------------------------------------------------------------------------------

/-- Register and immediate operations of RV32I by funct3; `alt` is bit 30. -/
def aluOp (f3 : Nat) (alt : Bool) (a b : W32) : W32 :=
  match f3 with
  | 0 => if alt then a - b else a + b
  | 1 => a <<< (b.toNat % 32)
  | 2 => if a.slt b then 1 else 0
  | 3 => if a < b then 1 else 0
  | 4 => a ^^^ b
  | 5 => if alt then a.sshiftRight (b.toNat % 32) else a >>> (b.toNat % 32)
  | 6 => a ||| b
  | _ => a &&& b

/-- The M extension, with its defined results for division by zero and overflow (R161). -/
def mulOp (f3 : Nat) (a b : W32) : W32 :=
  match f3 with
  | 0 => a * b
  | 1 => BitVec.ofInt 32 (a.toInt * b.toInt / 2 ^ 32)
  | 2 => BitVec.ofInt 32 (a.toInt * (b.toNat : Int) / 2 ^ 32)
  | 3 => w32 (a.toNat * b.toNat / 2 ^ 32)
  | 4 => if b = 0 then BitVec.allOnes 32 else BitVec.ofInt 32 (a.toInt.tdiv b.toInt)
  | 5 => if b = 0 then BitVec.allOnes 32 else w32 (a.toNat / b.toNat)
  | 6 => if b = 0 then a else BitVec.ofInt 32 (a.toInt.tmod b.toInt)
  | _ => if b = 0 then a else w32 (a.toNat % b.toNat)

def branchTaken (f3 : Nat) (a b : W32) : Option Bool :=
  match f3 with
  | 0 => some (a == b)
  | 1 => some (a != b)
  | 4 => some (a.slt b)
  | 5 => some (!a.slt b)
  | 6 => some (decide (a < b))
  | 7 => some (!decide (a < b))
  | _ => none

def immI (w : Nat) : W32 := BitVec.ofInt 32 (signExt 12 (bitsOf w 20 12))
def immS (w : Nat) : W32 := BitVec.ofInt 32 (signExt 12 (bitsOf w 25 7 * 32 + bitsOf w 7 5))
def immB (w : Nat) : W32 :=
  BitVec.ofInt 32 (signExt 13 (bitsOf w 31 1 * 4096 + bitsOf w 7 1 * 2048 + bitsOf w 25 6 * 32 + bitsOf w 8 4 * 2))
def immJ (w : Nat) : W32 :=
  BitVec.ofInt 32 (signExt 21 (bitsOf w 31 1 * 2 ^ 20 + bitsOf w 12 8 * 2 ^ 12 + bitsOf w 20 1 * 2 ^ 11 + bitsOf w 21 10 * 2))

/-- A scalar load (R159, R160). -/
def loadOp (c : Ctx) (scratch : Tab Byte) (f3 a : Nat) : Option W32 :=
  let n := if f3 % 4 = 0 then 1 else if f3 % 4 = 1 then 2 else 4
  if a % n ≠ 0 then none
  else (dmem c.img scratch a n).map fun bs =>
    if f3 = 0 then BitVec.ofInt 32 (signExt 8 (leNat bs))
    else if f3 = 1 then BitVec.ofInt 32 (signExt 16 (leNat bs))
    else w32 (leNat bs)

/-- A scalar store: only the scratch region may be written (R160). -/
def storeOp (c : Ctx) (k : Core) (n a v : Nat) : Option Core :=
  let base := c.img.consts.length
  if a % n ≠ 0 || a < base || base + c.img.scratch < a + n then none
  else some { k with scratch := tabSetRun 0 k.scratch (a - base) (leBytes n v) }

/-- One RV32IM instruction of a thread, given as its 32-bit word; `len` is its length in the program. -/
def baseOp (p t len : Nat) (c : Ctx) (x : Nat) (w : Work) : Res :=
  let th := w.thread p t
  let rd := bitsOf x 7 5
  let f3 := bitsOf x 12 3
  let a := th.reg (bitsOf x 15 5)
  let b := th.reg (bitsOf x 20 5)
  let pc := w32 th.pc
  let wr := fun (v : W32) (pc' : Nat) => Res.go (w.modThread p t fun th => th.setReg rd v) pc'
  let nx := th.pc + len
  match bitsOf x 0 7 with
  | 0x37 => wr (w32 (bitsOf x 12 20 * 4096)) nx
  | 0x17 => wr (pc + w32 (bitsOf x 12 20 * 4096)) nx
  | 0x6F => wr (w32 nx) (pc + immJ x).toNat
  | 0x67 => if f3 ≠ 0 then .illegal else wr (w32 nx) ((a + immI x) &&& ~~~1#32).toNat
  | 0x63 =>
    match branchTaken f3 a b with
    | none => .illegal
    | some true => .go w (pc + immB x).toNat
    | some false => .go w nx
  | 0x03 =>
    if f3 = 3 || f3 = 6 || f3 = 7 then .illegal
    else match loadOp c (w.core p).scratch f3 (a + immI x).toNat with
      | none => .access
      | some v => wr v nx
  | 0x23 =>
    if 3 ≤ f3 then .illegal
    else match storeOp c (w.core p) (2 ^ f3) (a + immS x).toNat b.toNat with
      | none => .access
      | some k => .go (w.modCore p fun _ => k) nx
  | 0x13 =>
    let hi := bitsOf x 25 7
    if f3 = 1 && hi ≠ 0 || f3 = 5 && hi ≠ 0 && hi ≠ 0x20 then .illegal
    else wr (aluOp f3 (f3 == 5 && hi == 0x20) a (immI x)) nx
  | 0x33 =>
    match bitsOf x 25 7 with
    | 0 => wr (aluOp f3 false a b) nx
    | 1 => wr (mulOp f3 a b) nx
    | 0x20 => if f3 = 0 || f3 = 5 then wr (aluOp f3 true a b) nx else .illegal
    | _ => .illegal
  | 0x0F => if f3 = 0 then .go w nx else .illegal
  | _ => .illegal

/-- BASE_INSTRUCTION: an RV32IM or compressed instruction, or a word that is no instruction (R156, R160, R161). -/
def baseInstr (p t : Nat) (c : Ctx) (word len : Nat) (w : Work) : Res :=
  if len = 2 then
    match expandC word with
    | none => .illegal
    | some x => baseOp p t 2 c x w
  else baseOp p t 4 c word w

/-- A base instruction, or a disagreement of the control core with its shadow on whatever instruction stands at the pc (R168,
R169). -/
def baseRow (p t : Nat) (shadowOk : Bool) (w : Work) : Work :=
  match shadowOk, w.current p t with
  | false, some (c, _) => w.lockstepFail p t c false
  | _, _ => instr .base p t (baseInstr p t) w

/-- BASE_INSTRUCTION (R156). -/
def execBaseInstruction (core thread : Nat) (s : State) (shadowOk : Bool := true) : Host.Outcome State Fault Refusal :=
  run (baseRow core thread shadowOk) s

-- CSRs (R170, R171) ------------------------------------------------------------------------------------------------------------

/-- XSTEP: OPC, LEN and SLOT of the running step. -/
def Ctx.xstep (c : Ctx) : W32 := w32 (dOpc c.e.desc * 2 ^ 24 + c.len * 2 ^ 8 + c.cur.slot)

/-- Reads a CSR; XTBLO also latches XTBHI of the thread. None for an address that is no CSR. -/
def csrRead (p t : Nat) (c : Ctx) (a : Nat) (w : Work) : Option (W32 × Work) :=
  let th := w.thread p t
  match a with
  | 0x800 => some (w32 th.vl, w)
  | 0x801 => some (w32 (b2n th.sr), w)
  | 0x802 => some (th.ctx, w)
  | 0x803 => some (th.layer.setWidth 32, w)
  | 0x804 => some ((w.core p).flags.word, w)
  | 0xCC0 => some (c.xstep, w)
  | 0xCC1 => some (w32 c.m.slots.length, w)
  | 0xCC2 => some (w32 w.now, w.modThread p t fun th => { th with tbHi := w32 (w.now / 2 ^ 32) })
  | 0xCC3 => some (th.tbHi, w)
  | 0xCC4 => some (w.d.brate p, w)
  | _ => none

/-- Writes a CSR at 0801h to 0804h; none for a read-only one (R170). -/
def csrWrite (p t a : Nat) (v : W32) (w : Work) : Option Work :=
  match a with
  | 0x801 => some (w.modThread p t fun th => { th with sr := bit v 0 })
  | 0x802 => some (w.modThread p t fun th => { th with ctx := v &&& 0xFF1FFFFF })
  | 0x803 => some (w.modThread p t fun th => { th with layer := v.setWidth 16 })
  | 0x804 => some (w.modCore p fun k => { k with flags := k.flags.write v })
  | _ => none

/-- CSR_ACCESS: the six Zicsr instructions. -/
def csrInstr (p t : Nat) (c : Ctx) (word _len : Nat) (w : Work) : Res :=
  let f3 := bitsOf word 12 3
  let rs1 := bitsOf word 15 5
  let rd := bitsOf word 7 5
  let a := bitsOf word 20 12
  let src := if f3 ≥ 4 then w32 rs1 else (w.thread p t).reg rs1
  let writes := f3 % 4 == 1 || rs1 != 0
  match csrRead p t c a w with
  | none => .illegal
  | some (old, w1) =>
    let new := if f3 % 4 = 1 then src else if f3 % 4 = 2 then old ||| src else old &&& ~~~src
    match (if writes then csrWrite p t a new w1 else some w1) with
    | none => .illegal
    | some w2 => (w2.modThread p t fun th => th.setReg rd old).done p t

def execCsrAccess (core thread : Nat) (s : State) : Host.Outcome State Fault Refusal :=
  run (instr .csr core thread (csrInstr core thread)) s

end Sys2Proof.Machine
end

