-- ==== Sys2Proof/Machine/Vector.lean ====
section
/-! DEFINITION. The vector engine's arithmetic, comparisons, reductions and mask operations (R181 to R194). A destination
lane is poisoned when a source lane it reads is (R179, R206). -/

-- Declarations are elaborated one after another: side by side, each would hold a thread and its stack.
set_option Elab.async false

namespace Sys2Proof.Machine

/-- The 64 lanes. -/
def lanes64 : List Nat := List.range 64

/-- Writes a destination register as R182 gives: active lanes take `f`, masked-off lanes below VL become +0 where MZ is set,
all others keep value and poison. `f` sees the sources as they were. -/
def writeLanes (vs : VecState) (vl : Nat) (me mz : Bool) (msk vd : Nat) (f : Nat → W32 × Bool) : VecState :=
  lanes64.foldl (fun acc i =>
    if laneActive vs vl me msk i then acc.setLane vd i (f i).1 (f i).2
    else if mz && decide (i < vl) then acc.setLane vd i 0 false else acc) vs

/-- A 64-bit mask from its bits. -/
def maskOf (f : Nat → Bool) : BitVec 64 := BitVec.ofNat 64 ((lanes64.map fun i => if f i then 2 ^ i else 0).sum)

/-- Writes a destination mask as R182 and R188 give. -/
def writeMask (vs : VecState) (vl : Nat) (me mz : Bool) (msk md : Nat) (f : Nat → Bool) : VecState :=
  vs.setMask md (maskOf fun i =>
    if laneActive vs vl me msk i then f i else if mz && decide (i < vl) then false else (vs.mask md).getLsbD i)

/-- The flags of the active lanes together (R184). -/
def laneFlags (vs : VecState) (vl : Nat) (me : Bool) (msk : Nat) (f : Nat → Flags) : Flags :=
  (lanes64.filter (laneActive vs vl me msk)).foldl (fun a i => Flags.or a (f i)) Flags.none

/-- Does an active lane read poison from one of the registers? -/
def anyPoison (vs : VecState) (vl : Nat) (me : Bool) (msk : Nat) (srcs : List Nat) : Bool :=
  lanes64.any fun i => laneActive vs vl me msk i && srcs.any fun r => vs.poisoned r i

/-- A vector operation on a core: the lanes it writes and the flags it sets. -/
def Core.vop (c : Core) (vl : Nat) (v : VopF) (srcs : List Nat) (f : Nat → W32 × Flags) : Core :=
  let vs := c.vec
  { (c.recordFlags (laneFlags vs vl v.me v.msk fun i => (f i).2)) with
    vec := writeLanes vs vl v.me v.mz v.msk v.vd fun i => ((f i).1, srcs.any fun r => vs.poisoned r i) }

/-- A two-source operation of the VOP format. -/
def vopBin (op : W32 → W32 → W32 × Flags) (p t : Nat) (_c : Ctx) (word _len : Nat) (w : Work) : Res :=
  let v := vopFields word
  let k := w.core p
  (w.modCore p fun _ => k.vop (w.thread p t).vl v [v.vs1, v.vs2] fun i =>
    op (k.vec.lane v.vs1 i) (k.vec.lane v.vs2 i)).done p t

/-- A three-source operation: the destination is the addend or the gate's other operand. -/
def vopTri (op : W32 → W32 → W32 → W32 × Flags) (p t : Nat) (_c : Ctx) (word _len : Nat) (w : Work) : Res :=
  let v := vopFields word
  let k := w.core p
  (w.modCore p fun _ => k.vop (w.thread p t).vl v [v.vs1, v.vs2, v.vd] fun i =>
    op (k.vec.lane v.vs1 i) (k.vec.lane v.vs2 i) (k.vec.lane v.vd i)).done p t

/-- A one-source operation (UNARY). -/
def vopUn (op : W32 → W32 × Flags) (p t : Nat) (_c : Ctx) (word _len : Nat) (w : Work) : Res :=
  let v := vopFields word
  let k := w.core p
  (w.modCore p fun _ => k.vop (w.thread p t).vl v [v.vs1] fun i => op (k.vec.lane v.vs1 i)).done p t

/-- A comparison into the mask VD [2:0]; a poisoned source sets PS, no flag is set (R170, R188). -/
def vopCmp (op : W32 → W32 → Bool) (p t : Nat) (_c : Ctx) (word _len : Nat) (w : Work) : Res :=
  let v := vopFields word
  let k := w.core p
  let vl := (w.thread p t).vl
  (w.modCore p fun _ => { k with
    vec := writeMask k.vec vl v.me v.mz v.msk (v.vd % 8) (fun i => op (k.vec.lane v.vs1 i) (k.vec.lane v.vs2 i)),
    flags := k.flags.setPs (anyPoison k.vec vl v.me v.msk [v.vs1, v.vs2]) }).done p t

def noFlags (x : W32) : W32 × Flags := (x, Flags.none)
def intOp (f : Int → Int → Int) (a b : W32) : W32 × Flags := sat32 (f a.toInt b.toInt)

/-- The reduction of the active lanes in ascending order from a start value (R192, R193). -/
def reduceLanes (vs : VecState) (vl : Nat) (v : VopF) (start : W32) (op : W32 → W32 → W32 × Flags) : W32 × Flags :=
  (lanes64.filter (laneActive vs vl v.me v.msk)).foldl (fun acc i =>
    let r := op acc.1 (vs.lane v.vs1 i)
    (r.1, Flags.or acc.2 r.2)) (start, Flags.none)

/-- The start of a least or greatest: the first active lane under the operation itself, the value of R192 over no lanes. -/
def extremeStart (vs : VecState) (vl : Nat) (v : VopF) (none : W32) (op : W32 → W32 → W32 × Flags) : W32 :=
  match lanes64.find? (laneActive vs vl v.me v.msk) with
  | some i => (op (vs.lane v.vs1 i) (vs.lane v.vs1 i)).1
  | Option.none => none

/-- A REDUCE into x[VD]; a poisoned lane sets PS (R194). A sum starts from `start`, a least or greatest from its first lane. -/
def vopReduce (extreme : Bool) (start : W32) (op : W32 → W32 → W32 × Flags) (p t : Nat) (_c : Ctx) (word _len : Nat)
    (w : Work) : Res :=
  let v := vopFields word
  let k := w.core p
  let vl := (w.thread p t).vl
  let r := reduceLanes k.vec vl v (if extreme then extremeStart k.vec vl v start op else start) op
  let w := w.modCore p fun _ =>
    let k := k.recordFlags r.2
    { k with flags := k.flags.setPs (anyPoison k.vec vl v.me v.msk [v.vs1]) }
  (w.modThread p t fun th => th.setReg v.vd r.1).done p t

/-- MPOP and MFIRST: a scalar summary of mask VS1 [2:0] over the active lanes (R192). -/
def vopScan (f : List Nat → Nat) (p t : Nat) (_c : Ctx) (word _len : Nat) (w : Work) : Res :=
  let v := vopFields word
  let k := w.core p
  let vl := (w.thread p t).vl
  let set := lanes64.filter fun i => laneActive k.vec vl v.me v.msk i && (k.vec.mask (v.vs1 % 8)).getLsbD i
  (w.modThread p t fun th => th.setReg v.vd (w32 (f set))).done p t

/-- A MASKOP: bits below VL of mask VD (R190). -/
def vopMask (op : Bool → Bool → Bool) (p t : Nat) (_c : Ctx) (word _len : Nat) (w : Work) : Res :=
  let v := vopFields word
  let k := w.core p
  let vl := (w.thread p t).vl
  (w.modCore p fun _ => { k with
    vec := writeMask k.vec vl false false 0 v.vd fun i =>
      op ((k.vec.mask v.vs1).getLsbD i) ((k.vec.mask v.vs2).getLsbD i) }).done p t

/-- Start values of the reductions over no lanes (R192). -/
def negInf : W32 := 0xFF800000
def posInf : W32 := 0x7F800000

/-- VSPLAT (R187): the scalar's bits, without poison. -/
def vsplatOp (p t : Nat) (_c : Ctx) (word _len : Nat) (w : Work) : Res :=
  let v := vopFields word
  let th := w.thread p t
  let k := w.core p
  (w.modCore p fun _ => k.vop th.vl v [] fun _ => noFlags (th.reg v.vs1)).done p t

/-- LANEID (R189): the lane's number; no source is read. -/
def laneidOp (p t : Nat) (_c : Ctx) (word _len : Nat) (w : Work) : Res :=
  let v := vopFields word
  let k := w.core p
  (w.modCore p fun _ => k.vop (w.thread p t).vl v [] fun i => noFlags (w32 i)).done p t

/-- VSEL (R187): every lane below VL takes vs1 where its bit of MSK is set, else vs2, with the poison of the one it takes. -/
def vselOp (p t : Nat) (_c : Ctx) (word _len : Nat) (w : Work) : Res :=
  let v := vopFields word
  let k := w.core p
  let pick := fun i => if (k.vec.mask v.msk).getLsbD i then v.vs1 else v.vs2
  (w.modCore p fun _ => { k with
    vec := writeLanes k.vec (w.thread p t).vl false false 0 v.vd fun i =>
      (k.vec.lane (pick i) i, k.vec.poisoned (pick i) i) }).done p t

/-- FADD (R187). -/
def execFadd (core thread : Nat) (s : State) : Host.Outcome State Fault Refusal :=
  run (instr .fadd core thread (vopBin f32Add core thread)) s

/-- FSUB (R187). -/
def execFsub (core thread : Nat) (s : State) : Host.Outcome State Fault Refusal :=
  run (instr .fsub core thread (vopBin f32Sub core thread)) s

/-- FMUL (R187). -/
def execFmul (core thread : Nat) (s : State) : Host.Outcome State Fault Refusal :=
  run (instr .fmul core thread (vopBin f32Mul core thread)) s

/-- FMA: one rounding (R63, R187). -/
def execFma (core thread : Nat) (s : State) : Host.Outcome State Fault Refusal :=
  run (instr .fma core thread (vopTri (f32Fma false) core thread)) s

/-- FNMA: one rounding (R63, R187). -/
def execFnma (core thread : Nat) (s : State) : Host.Outcome State Fault Refusal :=
  run (instr .fnma core thread (vopTri (f32Fma true) core thread)) s

/-- FMIN (R187). -/
def execFmin (core thread : Nat) (s : State) : Host.Outcome State Fault Refusal :=
  run (instr .fmin core thread (vopBin (fun a b => noFlags (f32MinMax false a b)) core thread)) s

/-- FMAX (R187). -/
def execFmax (core thread : Nat) (s : State) : Host.Outcome State Fault Refusal :=
  run (instr .fmax core thread (vopBin (fun a b => noFlags (f32MinMax true a b)) core thread)) s

/-- FSGNJ (R187). -/
def execFsgnj (core thread : Nat) (s : State) : Host.Outcome State Fault Refusal :=
  run (instr .fsgnj core thread (vopBin (fun a b => noFlags (f32Sgnj a b)) core thread)) s

/-- IADD, saturating (R187). -/
def execIadd (core thread : Nat) (s : State) : Host.Outcome State Fault Refusal :=
  run (instr .iadd core thread (vopBin (intOp (· + ·)) core thread)) s

/-- ISUB, saturating (R187). -/
def execIsub (core thread : Nat) (s : State) : Host.Outcome State Fault Refusal :=
  run (instr .isub core thread (vopBin (intOp (· - ·)) core thread)) s

/-- IMUL, saturating (R187). -/
def execImul (core thread : Nat) (s : State) : Host.Outcome State Fault Refusal :=
  run (instr .imul core thread (vopBin (intOp (· * ·)) core thread)) s

/-- IMIN (R187). -/
def execImin (core thread : Nat) (s : State) : Host.Outcome State Fault Refusal :=
  run (instr .imin core thread (vopBin (fun a b => noFlags (if a.slt b then a else b)) core thread)) s

/-- IMAX (R187). -/
def execImax (core thread : Nat) (s : State) : Host.Outcome State Fault Refusal :=
  run (instr .imax core thread (vopBin (fun a b => noFlags (if a.slt b then b else a)) core thread)) s

/-- AND (R187). -/
def execVand (core thread : Nat) (s : State) : Host.Outcome State Fault Refusal :=
  run (instr .vand core thread (vopBin (fun a b => noFlags (a &&& b)) core thread)) s

/-- OR (R187). -/
def execVor (core thread : Nat) (s : State) : Host.Outcome State Fault Refusal :=
  run (instr .vor core thread (vopBin (fun a b => noFlags (a ||| b)) core thread)) s

/-- XOR (R187). -/
def execVxor (core thread : Nat) (s : State) : Host.Outcome State Fault Refusal :=
  run (instr .vxor core thread (vopBin (fun a b => noFlags (a ^^^ b)) core thread)) s

/-- SLL by vs2 [4:0] (R187). -/
def execVsll (core thread : Nat) (s : State) : Host.Outcome State Fault Refusal :=
  run (instr .vsll core thread (vopBin (fun a b => noFlags (a <<< (b.toNat % 32))) core thread)) s

/-- SRL by vs2 [4:0] (R187). -/
def execVsrl (core thread : Nat) (s : State) : Host.Outcome State Fault Refusal :=
  run (instr .vsrl core thread (vopBin (fun a b => noFlags (a >>> (b.toNat % 32))) core thread)) s

/-- SRA by vs2 [4:0] (R187). -/
def execVsra (core thread : Nat) (s : State) : Host.Outcome State Fault Refusal :=
  run (instr .vsra core thread (vopBin (fun a b => noFlags (a.sshiftRight (b.toNat % 32))) core thread)) s

/-- FCMPLT (R187, R188). -/
def execFcmplt (core thread : Nat) (s : State) : Host.Outcome State Fault Refusal :=
  run (instr .fcmplt core thread (vopCmp (f32Cmp true false) core thread)) s

/-- FCMPLE (R187, R188). -/
def execFcmple (core thread : Nat) (s : State) : Host.Outcome State Fault Refusal :=
  run (instr .fcmple core thread (vopCmp (f32Cmp true true) core thread)) s

/-- FCMPEQ (R187, R188). -/
def execFcmpeq (core thread : Nat) (s : State) : Host.Outcome State Fault Refusal :=
  run (instr .fcmpeq core thread (vopCmp (f32Cmp false true) core thread)) s

/-- ICMPLT, signed (R187). -/
def execIcmplt (core thread : Nat) (s : State) : Host.Outcome State Fault Refusal :=
  run (instr .icmplt core thread (vopCmp (fun a b => a.slt b) core thread)) s

/-- ICMPEQ (R187). -/
def execIcmpeq (core thread : Nat) (s : State) : Host.Outcome State Fault Refusal :=
  run (instr .icmpeq core thread (vopCmp (fun a b => a == b) core thread)) s

/-- FCVTI (R189). -/
def execFcvti (core thread : Nat) (s : State) : Host.Outcome State Fault Refusal :=
  run (instr .fcvti core thread (vopUn (fun a => let r := f32ToInt 32 a; (ofInt32 r.1, r.2)) core thread)) s

/-- ICVTF (R189). -/
def execIcvtf (core thread : Nat) (s : State) : Host.Outcome State Fault Refusal :=
  run (instr .icvtf core thread (vopUn (fun a => noFlags (intToF32 a.toInt)) core thread)) s

/-- FABS (R189). -/
def execFabs (core thread : Nat) (s : State) : Host.Outcome State Fault Refusal :=
  run (instr .fabs core thread (vopUn (fun a => noFlags (f32Abs a)) core thread)) s

/-- FNEG (R189). -/
def execFneg (core thread : Nat) (s : State) : Host.Outcome State Fault Refusal :=
  run (instr .fneg core thread (vopUn (fun a => noFlags (f32Neg a)) core thread)) s

/-- VMOV (R189). -/
def execVmov (core thread : Nat) (s : State) : Host.Outcome State Fault Refusal :=
  run (instr .vmov core thread (vopUn noFlags core thread)) s

/-- LANEID (R189). -/
def execLaneid (core thread : Nat) (s : State) : Host.Outcome State Fault Refusal :=
  run (instr .laneid core thread (laneidOp core thread)) s

/-- VSPLAT (R187). -/
def execVsplat (core thread : Nat) (s : State) : Host.Outcome State Fault Refusal :=
  run (instr .vsplat core thread (vsplatOp core thread)) s

/-- VSEL (R187). -/
def execVsel (core thread : Nat) (s : State) : Host.Outcome State Fault Refusal :=
  run (instr .vsel core thread (vselOp core thread)) s

/-- REDUCE FSUM from +0 (R193). -/
def execReduceFsum (core thread : Nat) (s : State) : Host.Outcome State Fault Refusal :=
  run (instr .rfsum core thread (vopReduce false 0 f32Add core thread)) s

/-- REDUCE FMAX (R192). -/
def execReduceFmax (core thread : Nat) (s : State) : Host.Outcome State Fault Refusal :=
  run (instr .rfmax core thread (vopReduce true negInf (fun a b => noFlags (f32MinMax true a b)) core thread)) s

/-- REDUCE FMIN (R192). -/
def execReduceFmin (core thread : Nat) (s : State) : Host.Outcome State Fault Refusal :=
  run (instr .rfmin core thread (vopReduce true posInf (fun a b => noFlags (f32MinMax false a b)) core thread)) s

/-- REDUCE ISUM from 0 (R193). -/
def execReduceIsum (core thread : Nat) (s : State) : Host.Outcome State Fault Refusal :=
  run (instr .risum core thread (vopReduce false 0 (intOp (· + ·)) core thread)) s

/-- REDUCE IMAX (R192). -/
def execReduceImax (core thread : Nat) (s : State) : Host.Outcome State Fault Refusal :=
  run (instr .rimax core thread (vopReduce true 0x80000000 (fun a b => noFlags (if a.slt b then b else a)) core thread)) s

/-- REDUCE IMIN (R192). -/
def execReduceImin (core thread : Nat) (s : State) : Host.Outcome State Fault Refusal :=
  run (instr .rimin core thread (vopReduce true 0x7FFFFFFF (fun a b => noFlags (if a.slt b then a else b)) core thread)) s

/-- MPOP (R192). -/
def execMpop (core thread : Nat) (s : State) : Host.Outcome State Fault Refusal :=
  run (instr .mpop core thread (vopScan List.length core thread)) s

/-- MFIRST (R192). -/
def execMfirst (core thread : Nat) (s : State) : Host.Outcome State Fault Refusal :=
  run (instr .mfirst core thread (vopScan (fun ls => ls.headD 64) core thread)) s

/-- MAND (R190). -/
def execMand (core thread : Nat) (s : State) : Host.Outcome State Fault Refusal :=
  run (instr .mand core thread (vopMask (fun a b => a && b) core thread)) s

/-- MOR (R190). -/
def execMor (core thread : Nat) (s : State) : Host.Outcome State Fault Refusal :=
  run (instr .mor core thread (vopMask (fun a b => a || b) core thread)) s

/-- MANDN (R190). -/
def execMandn (core thread : Nat) (s : State) : Host.Outcome State Fault Refusal :=
  run (instr .mandn core thread (vopMask (fun a b => a && !b) core thread)) s

/-- MXOR (R190). -/
def execMxor (core thread : Nat) (s : State) : Host.Outcome State Fault Refusal :=
  run (instr .mxor core thread (vopMask (fun a b => a != b) core thread)) s

/-- MNOT (R190). -/
def execMnot (core thread : Nat) (s : State) : Host.Outcome State Fault Refusal :=
  run (instr .mnot core thread (vopMask (fun a _ => !a) core thread)) s

/-- MSET (R190). -/
def execMset (core thread : Nat) (s : State) : Host.Outcome State Fault Refusal :=
  run (instr .mset core thread (vopMask (fun _ _ => true) core thread)) s

/-- MCLR (R190). -/
def execMclr (core thread : Nat) (s : State) : Host.Outcome State Fault Refusal :=
  run (instr .mclr core thread (vopMask (fun _ _ => false) core thread)) s

end Sys2Proof.Machine
end

