-- ==== Sys2Proof/Machine/FunctionUnit.lean ====
section
/-! DEFINITION. The function unit (05): table images, lookups, VFN and VGACT, and the loader's checks. -/

-- Declarations are elaborated one after another: side by side, each would hold a thread and its stack.
set_option Elab.async false

namespace Sys2Proof.Machine

-- Images (R228 to R230, R244) -----------------------------------------------------------------------------------------------

/-- The header fields of a programmable image (R228). -/
structure TabHead where
  dir    : Bool
  mono   : Bool
  sign   : Nat
  mbits  : Nat
  nseg   : Nat
  ecount : Nat
  emin   : Int
  vinfP  : W32
  vinfN  : W32
  deriving DecidableEq, Repr

def tabHead (b : List Byte) : TabHead :=
  let w0 := word32 b 0
  let w1 := word32 b 4
  ⟨bitOf w0 23, bitOf w0 22, bitsOf w0 20 2, bitsOf w0 16 4, bitsOf w0 0 11, bitsOf w1 8 8, signExt 8 (bitsOf w1 0 8),
   w32 (word32 b 8), w32 (word32 b 12)⟩

/-- Segments of one half (R229). -/
def TabHead.n (h : TabHead) : Nat := h.ecount * 2 ^ h.mbits + 2
def TabHead.etop (h : TabHead) : Int := h.emin + h.ecount

def dyOf (x : W32) : Dy := (f32v x).dy
def dyBits (x : Nat) : Dy := dyOf (w32 x)

/-- A quadratic in t: c0, c1, c2 exact. -/
structure Quad where
  c0 : Dy
  c1 : Dy
  c2 : Dy
  deriving DecidableEq, Repr

/-- Record i of a programmable image (R230). -/
def segment (b : List Byte) (i : Nat) : Quad :=
  let w := word32 b (64 + 8 * i + 4)
  ⟨dyBits (word32 b (64 + 8 * i)), dyBits (bitsOf w 0 20 * 2 ^ 12), dyBits (bitsOf w 20 12 * 2 ^ 20)⟩

/-- Record i of a built-in image (R244); c0 is c0hi + c0lo. -/
def builtinSeg (b : List Byte) (i : Nat) : Quad :=
  let o := 64 + 16 * i
  ⟨(dyBits (word32 b o)).add (dyBits (word32 b (o + 4))), dyBits (word32 b (o + 8)), dyBits (word32 b (o + 12))⟩

def Quad.eval (q : Quad) (t : Dy) : Dy := (q.c0.add (q.c1.mul t)).add (q.c2.mul (t.mul t))

-- Lookups -------------------------------------------------------------------------------------------------------------------

/-- What a lookup yields before its final rounding (R232, R233, R242, R243, R249): a special result, an exact value with the
sign an exact zero takes, or the infinity of an overflowing H segment. -/
inductive FnVal where
  | special (x : W32) (f : Flags)
  | exact (d : Dy) (zneg : Bool)
  | overflow (neg : Bool)
  deriving DecidableEq, Repr

/-- Segment and local coordinate of a finite input (R231); no coordinate where H overflows. -/
def locate (h : TabHead) (x : W32) : Nat × Option Dy :=
  let neg := bit x 31
  let base := if h.sign = 0 && neg then h.n else 0
  let a := dyOf (x &&& 0x7FFFFFFF)
  if a.lt ⟨1, h.emin⟩ then (base, some (dyOf (rne32 false (a.scale (-h.emin))).1))
  else
    let e : Int := (Nat.log2 a.n.natAbs : Int) + a.e
    if h.etop ≤ e then
      let t := (rne32 false ((a.scale (-h.etop)).sub (Dy.ofInt 1))).1
      (base + h.n - 1, if (f32v t).isInf then none else some (dyOf t))
    else
      let man := bitsOf x.toNat 0 23
      let m := man / 2 ^ (23 - h.mbits)
      let low := man % 2 ^ (23 - h.mbits)
      (base + 1 + (e - h.emin).toNat * 2 ^ h.mbits + m, some ⟨(low : Int), (h.mbits : Int) - 23⟩)

/-- A programmable table (R231 to R234). -/
def tabLookup (b : List Byte) (x : W32) : FnVal :=
  let h := tabHead b
  match f32v x with
  | .nan => .special nan32 Flags.none
  | .inf neg =>
    .special (if !neg then h.vinfP else if h.sign = 0 then h.vinfN else if h.sign = 1 then f32Neg h.vinfP else h.vinfP)
      Flags.none
  | _ =>
    let odd := h.sign == 1 && bit x 31
    let (i, t) := locate h x
    let q := segment b i
    match t with
    | some t => let d := q.eval t; .exact (if odd then d.neg else d) odd
    | none =>
      if q.c1.isZero && q.c2.isZero then .exact (if odd then q.c0.neg else q.c0) odd
      else .overflow ((if q.c2.isZero then decide (q.c1.n < 0) else decide (q.c2.n < 0)) != odd)

/-- Exponent and significand of a non-zero magnitude: |x| = m * 2^e with m in [1, 2). -/
def normalise (a : Dy) : Int × Dy :=
  let l := Nat.log2 a.n.natAbs
  ((l : Int) + a.e, ⟨a.n, -(l : Int)⟩)

/-- A built-in table (R242, R243). -/
def builtinLookup (slot : Nat) (b : List Byte) (x : W32) : FnVal :=
  let k : Dy := ⟨(word64 b 8 : Nat), -63⟩
  let neg := bit x 31
  let nanNv := FnVal.special nan32 Flags.nvOnly
  match f32v x with
  | .nan => .special nan32 Flags.none
  | .inf neg =>
    match slot, neg with
    | 0, false => .special posInf Flags.none
    | 0, true => .special 0 Flags.none
    | 1, false => .special posInf Flags.none
    | 2, false => .special 0 Flags.none
    | 2, true => .special 0x80000000 Flags.none
    | 3, false => .special 0 Flags.none
    | _, _ => nanNv
  | v =>
    if slot = 0 then
      let p := v.dy.mul k
      let kk := p.floor
      let u := (p.sub (Dy.ofInt kk)).scale 7
      let i := u.floor
      .exact (((builtinSeg b i.toNat).eval (u.sub (Dy.ofInt i))).scale kk) false
    else if v.isZero then
      (if slot = 1 then .special negInf Flags.none else .special (if neg then negInf else posInf) Flags.none)
    else if neg && slot ≠ 2 then nanNv
    else
      let (e, m) := normalise (dyOf (x &&& 0x7FFFFFFF))
      if slot = 1 then
        let big := Dy.le ⟨3, -1⟩ m
        let m := if big then m.scale (-1) else m
        let e := if big then e + 1 else e
        let u := (m.sub (Dy.ofInt 1)).scale 8
        let up := decide (0 ≤ u.n)
        let j := if up then u.floor else u.neg.ceil - 1
        let i := if up then 64 + j else 63 - j
        let t := if up then u.sub (Dy.ofInt j) else u.add (Dy.ofInt j)
        .exact (((Dy.ofInt e).mul k).add ((builtinSeg b i.toNat).eval t)) false
      else if slot = 2 then
        let u := (m.sub (Dy.ofInt 1)).scale 7
        let i := u.floor
        let d := ((builtinSeg b i.toNat).eval (u.sub (Dy.ofInt i))).scale (-e)
        .exact (if neg then d.neg else d) false
      else
        let odd := e % 2 != 0
        let m := if odd then m.scale 1 else m
        let e := if odd then e - 1 else e
        let u := (m.sub (Dy.ofInt 1)).scale 6
        let i := u.floor
        .exact (((builtinSeg b i.toNat).eval (u.sub (Dy.ofInt i))).scale (-(e / 2))) false

def lookup (slot : Nat) (b : List Byte) (x : W32) : FnVal :=
  if slot < 4 then builtinLookup slot b x else tabLookup b x

/-- The VFN result (R232 to R234). -/
def FnVal.round : FnVal → W32 × Flags
  | .special x f => (x, f)
  | .exact d z => rne32 z d
  | .overflow neg => (inf32 neg, Flags.ofOnly)

/-- The VGACT result: one rounding of the product with the exact value (R249). -/
def FnVal.gate (g : W32) : FnVal → W32 × Flags
  | .special x f => let r := f32Mul g x; (r.1, Flags.or f r.2)
  | .overflow neg => let r := f32Mul g (inf32 neg); (r.1, Flags.or Flags.ofOnly r.2)
  | .exact d z =>
    let v := FVal.fin (if d.n = 0 then z else decide (d.n < 0)) d.n.natAbs d.e
    match mulVals (f32v g) v with
    | none => (nan32, Flags.nvOnly)
    | some p => roundVal p

-- The loader's checks (R235 to R238, R246) ------------------------------------------------------------------------------------

/-- The image checks CRC with its own field taken as zero. -/
def imageCrcOk (b : List Byte) : Bool := crc32 (patchBytes b 0x1C [0, 0, 0, 0]) == word32 b 0x1C

def isNanW (x : Nat) : Bool := (f32v (w32 x)).isNan
def allOnesExp (x : Nat) : Bool := bitsOf x 23 8 == 255

/-- Check 3 for a programmable image (R229, R235). -/
def tabFormatOk (b : List Byte) : Bool :=
  let h := tabHead b
  let w0 := word32 b 0
  let w1 := word32 b 4
  bitsOf w0 24 8 == 0 && bitsOf w0 11 5 == 0 && bitsOf w1 16 16 == 0 && word32 b 0x18 == 0 && zeroRange b 0x20 0x40 &&
  h.sign != 3 && decide (h.mbits ≤ 9) && decide (2 ≤ h.nseg) && decide (h.nseg ≤ 1024) && decide (h.ecount ≤ 253) &&
  decide (-126 ≤ h.emin) && decide (h.emin ≤ 126) && decide (h.etop ≤ 127) &&
  h.nseg == (if h.sign = 0 then 2 * h.n else h.n) && !(h.mono && h.sign == 2) &&
  (h.sign == 0 || h.vinfN == 0) && !isNanW h.vinfP.toNat && !isNanW h.vinfN.toNat &&
  b.length == 64 + 8 * h.nseg &&
  (List.range h.nseg).all fun i =>
    let w := word32 b (64 + 8 * i + 4)
    !allOnesExp (word32 b (64 + 8 * i)) && !allOnesExp (bitsOf w 0 20 * 2 ^ 12) && !allOnesExp (bitsOf w 20 12 * 2 ^ 20)

/-- Records of a built-in slot (R217). -/
def builtinSegs (slot : Nat) : Nat := if slot % 2 = 0 then 128 else 192

/-- Check 3 for a built-in image (R246). -/
def builtinFormatOk (slot : Nat) (b : List Byte) : Bool :=
  let w0 := word32 b 0
  w0 == slot && word32 b 4 == 0 && word32 b 0x18 == 0 && zeroRange b 0x20 0x40 && b.length == 64 + 16 * builtinSegs slot &&
  (slot < 2 || word64 b 8 == 0) &&
  (List.range (4 * builtinSegs slot)).all fun i => !allOnesExp (word32 b (64 + 4 * i))

/-- One ulp of binary32 at a finite value (R237). -/
def ulpAt (x : W32) : Dy := ⟨1, (max 1 (bitsOf x.toNat 23 8 : Nat) : Int) - 150⟩

/-- A seam (R236, R237): both values finite and within one ulp at the larger magnitude. -/
def seamOk (a b : W32) : Bool :=
  let fin := fun (x : W32) => !allOnesExp x.toNat
  let big := if (a &&& 0x7FFFFFFF) < (b &&& 0x7FFFFFFF) then b else a
  let d := (dyOf a).sub (dyOf b)
  fin a && fin b && Dy.le ⟨(d.n.natAbs : Int), d.e⟩ (ulpAt big)

def rnd (d : Dy) : W32 := (rne32 false d).1

/-- The consecutive pairs of segment numbers of one half. -/
def halfPairs (base n : Nat) : List (Nat × Nat) := (List.range (n - 1)).map fun i => (base + i, base + i + 1)

/-- All seams of a programmable table as (end value, start value, is the zero seam). -/
def tabSeams (b : List Byte) (h : TabHead) : List (W32 × W32) :=
  let pair := fun (x : Nat × Nat) => (rnd ((segment b x.1).eval (Dy.ofInt 1)), rnd (segment b x.2).c0)
  (halfPairs 0 h.n).map pair ++ (if h.sign = 0 then (halfPairs h.n h.n).map pair else [])

def zeroSeam (b : List Byte) (h : TabHead) : W32 × W32 := (rnd (segment b h.n).c0, rnd (segment b 0).c0)

/-- Check 5 for a programmable image (R237). -/
def tabSeamsOk (b : List Byte) : Bool :=
  let h := tabHead b
  (tabSeams b h).all (fun s => seamOk s.1 s.2) &&
  (h.sign != 0 || seamOk (zeroSeam b h).1 (zeroSeam b h).2) &&
  (h.sign != 1 || (segment b 0).c0.isZero)

/-- Zero, or of the sign of direction `up`. -/
def signOk (up : Bool) (d : Dy) : Bool := d.isZero || (if up then decide (0 < d.n) else decide (d.n < 0))
/-- `b` does not step against the direction from `a`. -/
def stepOk (up : Bool) (a b : W32) : Bool := if up then f32Cmp true true a b else f32Cmp true true b a

/-- Check 6 for one half (R238); `up` is the direction along growing t. -/
def halfMono (b : List Byte) (h : TabHead) (base : Nat) (up : Bool) (vinf : W32) : Bool :=
  let segs := (List.range h.n).map fun i => segment b (base + i)
  let top := segment b (base + h.n - 1)
  segs.all (fun q => signOk up q.c1 && signOk up (q.c1.add (q.c2.scale 1))) && signOk up top.c2 &&
  ((halfPairs base h.n).all fun x =>
    stepOk up (rnd ((segment b x.1).eval (Dy.ofInt 1))) (rnd (segment b x.2).c0)) &&
  (if top.c1.isZero && top.c2.isZero then stepOk up (rnd top.c0) vinf else vinf == inf32 (!up))

/-- Check 6 for a programmable image (R238). -/
def tabMonoOk (b : List Byte) : Bool :=
  let h := tabHead b
  !h.mono ||
    (halfMono b h 0 (!h.dir) h.vinfP &&
      (h.sign != 0 || (halfMono b h h.n h.dir h.vinfN && stepOk (!h.dir) (zeroSeam b h).1 (zeroSeam b h).2)))

/-- The seams of a built-in's reduced argument in ascending order of its input, those at which k or e changes among them
(R246): (lower value, upper value). For log the last ones are taken at every exponent. -/
def builtinSeams (slot : Nat) (b : List Byte) : List (W32 × W32) :=
  let k : Dy := ⟨(word64 b 8 : Nat), -63⟩
  let ev := fun (i : Nat) (t : Int) => (builtinSeg b i).eval (Dy.ofInt t)
  if slot = 1 then
    ((List.range 63).map fun j => (rnd (ev (63 - (j + 1)) 0), rnd (ev (63 - j) (-1)))) ++
    [(rnd (ev 63 0), rnd (ev 64 0))] ++
    ((List.range 127).map fun j => (rnd (ev (64 + j) 1), rnd (ev (64 + j + 1) 0))) ++
    ((List.range 278).map fun (n : Nat) =>
      let e : Int := (n : Int) - 150
      (rnd (((Dy.ofInt e).mul k).add (ev 191 1)), rnd (((Dy.ofInt (e + 1)).mul k).add (ev 0 (-1)))))
  else
    let n := builtinSegs slot
    ((halfPairs 0 n).map fun x => (rnd (ev x.1 1), rnd (ev x.2 0))) ++
    [(rnd (ev (n - 1) 1), rnd ((ev 0 0).scale (if slot = 0 then 1 else -1)))]

def builtinSeamsOk (slot : Nat) (b : List Byte) : Bool := (builtinSeams slot b).all fun s => seamOk s.1 s.2

/-- Monotonicity of a built-in in the direction of R241. -/
def builtinMonoOk (slot : Nat) (b : List Byte) : Bool :=
  let up := slot < 2
  ((List.range (builtinSegs slot)).all fun i =>
    let q := builtinSeg b i
    let far := if slot = 1 && i < 64 then q.c1.sub (q.c2.scale 1) else q.c1.add (q.c2.scale 1)
    signOk up q.c1 && signOk up far) &&
  (builtinSeams slot b).all fun s => stepOk up s.1 s.2

/-- Pool records the programmable slots of a bank take, one slot left out (R218). -/
def poolUsed (bank : List TabImg) (slot : Nat) : Nat :=
  (bank.zipIdx.map fun (im, i) =>
    if i < 4 || i = slot then 0 else match im with
      | .image b => (tabHead b).nseg
      | _ => 0).sum

/-- Checks 2 to 6 of R235, and of R246 for a built-in: 0000h or the code of the first that fails. -/
def tableCheck (slot : Nat) (shadow : List TabImg) (b : List Byte) : W16 :=
  if b.length < 64 || !imageCrcOk b then 0x1044
  else if slot < 4 then
    (if !builtinFormatOk slot b then 0x1040
     else if !builtinSeamsOk slot b then 0x1041
     else if !builtinMonoOk slot b then 0x1042 else 0)
  else if !tabFormatOk b then 0x1040
  else if 2816 < poolUsed shadow slot + (tabHead b).nseg then 0x1045
  else if !tabSeamsOk b then 0x1041
  else if !tabMonoOk b then 0x1042 else 0

-- The shipped images ------------------------------------------------------------------------------------------------------------

/-- What the spec holds a shipped image to, as far as its records show it: the direction of R241 by the check R246 makes of a loaded
image, and for exp the 1.0 that R243 gives at zero, which the first record yields. The error bound of R240 is left to
the premise Sys2Proof.Machine.shippedAccurate (log entry 12). -/
def shippedOk (slot : Nat) (b : List Byte) : Bool :=
  builtinMonoOk slot b && (slot != 0 || rne32 false (builtinSeg b 0).c0 == (0x3F800000, Flags.none))

/-- An exp image of records (1.0, 0, 0, 0). -/
def flatExp : List Byte := List.replicate 64 0 ++ (List.replicate 128 (leBytes 16 0x3F800000)).flatten

/-- The shipped image of a built-in: any the spec allows (log entry 12). Where the free value is none of these, a flat image stands
in for it, that of exp or one of zeros. -/
def shippedImage (slot : Nat) : List Byte :=
  if shippedOk slot (Config.shippedTable slot) then Config.shippedTable slot else if slot = 0 then flatExp else []

/-- Bytes of the image in a slot; none when the slot is empty (R221, R222). -/
def TabImg.bytes (slot : Nat) : TabImg → Option (List Byte)
  | .empty => none
  | .shipped => some (shippedImage slot)
  | .image bs => some bs

-- VFN and VGACT -----------------------------------------------------------------------------------------------------------------

/-- The image a lookup of a slot reads: always of the active bank (R220). -/
def CoreTables.active (c : CoreTables) (slot : Nat) : Option (List Byte) :=
  (nth .empty (if c.active1 then c.bank1 else c.bank0) slot).bytes slot

/-- VFN: an empty slot fails the step whatever the mask and VL (R222); a thread that the unit does not grant sleeps (R224). -/
def vfnOp (p t : Nat) (c : Ctx) (word len : Nat) (w : Work) : Res :=
  match (w.core p).tables.active (vopFields word).vs2 with
  | none => .fail 0x1043 0
  | some b =>
    if w.fuGrant p c.img != some t then .sleep .fu
    else
    let w := w.modCore p fun k => { k with tables := { k.tables with lastFu := t } }
    vopUn (fun x => (lookup (vopFields word).vs2 b x).round) p t c word len w

/-- VGACT: vd times the table value, one rounding (R249); granted as VFN (R224). -/
def vgactOp (p t : Nat) (c : Ctx) (word _len : Nat) (w : Work) : Res :=
  let v := vopFields word
  match (w.core p).tables.active v.vs2 with
  | none => .fail 0x1043 0
  | some b =>
    if w.fuGrant p c.img != some t then .sleep .fu
    else
    let k := w.core p
    let k := { k with tables := { k.tables with lastFu := t } }
    (w.modCore p fun _ => k.vop (w.thread p t).vl v [v.vs1, v.vd] fun i =>
      (lookup v.vs2 b (k.vec.lane v.vs1 i)).gate (k.vec.lane v.vd i)).done p t

/-- VFN (R232). -/
def execVfn (core thread : Nat) (s : State) : Host.Outcome State Fault Refusal :=
  run (instr .vfn core thread (vfnOp core thread)) s
/-- VGACT (R249). -/
def execVgact (core thread : Nat) (s : State) : Host.Outcome State Fault Refusal :=
  run (instr .vgact core thread (vgactOp core thread)) s

end Sys2Proof.Machine
end

