-- ==== Sys2Proof/Machine/Plinth.lean ====
section
/-! DEFINITION. Plinth rows (R132 to R139): where an element stands, what a read delivers, preloading a slot. -/

-- Declarations are elaborated one after another: side by side, each would hold a thread and its stack.
set_option Elab.async false

namespace Sys2Proof.Machine

def PlFmt.bytes : PlFmt → Nat
  | .promoted => 4
  | .exact8 => 8
  | .exact16 => 16
/-- Tile slots of a format (R132). -/
def PlFmt.slots : PlFmt → Nat
  | .promoted => 16
  | .exact8 => 8
  | .exact16 => 4

/-- Byte offset of element (slot, row, column) (R133). -/
def elemOff (f : PlFmt) (slot row col : Nat) : Nat := ((64 * slot + row) * 64 + col) * f.bytes

def tagKey (slot row col : Nat) : Nat := slot * 4096 + row * 64 + col
def PlinthState.tag (s : PlinthState) (slot row col : Nat) : Nat := tabGet 0 s.tags (tagKey slot row col)

/-- The stored bits of an element. -/
def Work.plElem (w : Work) (p : Nat) (f : PlFmt) (slot row col : Nat) : Nat :=
  leNat (w.mreadN p 2 (elemOff f slot row col) f.bytes)

/-- Weight of the least significant bit of an exact accumulator (R84). -/
def Kind.lsb : Kind → Int
  | .e4m3 => -18
  | .fp16 => -48
  | _ => 0

/-- What the special-value tag of an exact element delivers (R86, R83). -/
def tagValue (tag : Nat) : Option (W32 × Flags) :=
  if bitOf tag 0 then some (nan32, Flags.none)
  else if bitOf tag 1 || (bitOf tag 2 && bitOf tag 3) then some (nan32, Flags.nvOnly)
  else if bitOf tag 2 then some (posInf, Flags.none)
  else if bitOf tag 3 then some (negInf, Flags.none)
  else none

/-- The binary32 read-out of an exact element (R87). -/
def exactRead (k : Kind) (f : PlFmt) (bits tag : Nat) : W32 × Flags :=
  match tagValue tag with
  | some r => r
  | none => rne32 false ⟨signExt (8 * f.bytes) bits, k.lsb⟩

/-- The value a vector-engine read delivers (R139, R200): stored bits in promoted format; one rounding in an exact one, to
int32 where `asInt`. A FREE slot reads +0. -/
def Work.plRead (w : Work) (p slot row col : Nat) (asInt : Bool) : W32 × Flags :=
  let s := (w.core p).plinth
  let sl := s.slot slot
  if sl.st == .free then (0, Flags.none)
  else
    let bits := w.plElem p s.fmt slot row col
    match s.fmt with
    | .promoted => (w32 bits, Flags.none)
    | f => if asInt then sat32 (signExt (8 * f.bytes) bits) else exactRead sl.kind f bits (s.tag slot row col)

/-- The binary32 value a tally uses (R144). -/
def Work.plReadF (w : Work) (p slot row col : Nat) : W32 × Flags :=
  let s := (w.core p).plinth
  let v := w.plRead p slot row col false
  if s.fmt == .promoted && (s.slot slot).kind == .int then (intToF32 v.1.toInt, v.2) else v

/-- Sets every stored byte of a range of a memory to zero: only bytes that hold something need a write. -/
def Work.clearRange (w : Work) (p mem off n : Nat) : Work :=
  let lo := p * memSize mem + off
  let t := match mem with
    | 0 => w.ram.ws
    | 1 => w.ram.asm
    | 2 => w.ram.pl
    | 3 => w.ram.st
    | _ => w.ram.atl
  let keys := (t.filter fun kv => decide (lo ≤ kv.1) && decide (kv.1 < lo + n)).map Prod.fst
  { w with wr := (keys.map fun k => RamOp.byte mem k 0).reverse ++ w.wr }

/-- A slot that leaves FREE holds +0 in every element and no tag (R139). -/
def Work.openSlot (w : Work) (p : Nat) (f : PlFmt) (slot : Nat) : Work :=
  let w := w.clearRange p 2 (elemOff f slot 0 0) (4096 * f.bytes)
  w.modCore p fun k => { k with plinth := { k.plinth with
    tags := tabKeep (fun key => key / 4096 != slot) k.plinth.tags } }

/-- The address and poison row of a plinth row number (R133). -/
def rowSlot (row : Nat) : Nat := row / 64

end Sys2Proof.Machine
end

