-- ==== Sys2Proof/Machine/VectorMem.lean ====
section
/-! DEFINITION. Vector memory instructions (R195 to R209, R359, R360): the activation and weight stores, windows, the plinth,
carried state, random words; the gather buffer (R341 to R345). -/

-- Declarations are elaborated one after another: side by side, each would hold a thread and its stack.
set_option Elab.async false

namespace Sys2Proof.Machine

-- Memory addresses (R198, R358) ---------------------------------------------------------------------------------------------

/-- What a memory address names. -/
inductive MAddr where
  | mem (m off : Nat)
  | window (blk slot win off : Nat)
  | reserved
  deriving DecidableEq, Repr

def memAddr (a : Nat) : MAddr :=
  if bitOf a 31 then .window (bitsOf a 29 2) (bitsOf a 24 5) (bitsOf a 19 5) (bitsOf a 0 19)
  else if bitsOf a 19 12 = 0 then .mem 1 (bitsOf a 0 19)
  else if bitsOf a 21 2 = 1 && bitsOf a 23 8 = 0 then .mem 0 (bitsOf a 0 21)
  else .reserved

def Window.init : Window := ⟨0, false, false, false, 0, 0, 0⟩
/-- Window `win` of logical slot `slot` of the running model, if it is valid (R355, R359). -/
def Ctx.window? (c : Ctx) (slot win : Nat) : Option Window :=
  match c.m.slots[slot]? with
  | none => none
  | some img => let x := nth Window.init img.windows win; if x.valid then some x else none

/-- A plinth byte as another core reads it (R139): stored values of a DONE or HELD slot, else +0. -/
def Work.meshPlinth (w : Work) (p off n : Nat) : List Byte × Bool :=
  let k := w.core p
  let row := off / 256
  let sl := k.plinth.slot (row / 64)
  if (sl.st == .done || sl.st == .held) && !k.locks.plinth then (w.mreadN p 2 off n, sl.poison.getLsbD (row % 64))
  else (List.replicate n 0, false)

/-- The element a load reads at `o` bytes past an address, with its poison, or the code of the first check that fails
(R199, R359). -/
def Work.loadAt (w : Work) (p : Nat) (c : Ctx) (fmt : Nat) (a : MAddr) (o : Nat) : Except W16 (W32 × Bool) :=
  let n := fmtWidth fmt
  match a with
  | .reserved => .error 0x1039
  | .mem m off =>
    let b := off + o
    if b % n ≠ 0 || memSize m < b + n || (m = 1 && !c.img.declared (b / 64) 1) then .error 0x1039
    else .ok (loadElem fmt (w.mreadN p m b n), w.mpoisonN p m b n)
  | .window blk slot win off =>
    if blk ≠ 0 then .error 0x1039
    else match c.window? slot win with
      | none => .error 0x103C
      | some x =>
        let q := c.coreOf slot
        if (off + o) % n ≠ 0 then .error 0x1039
        else if x.mem = 2 && (w.core q).plinth.fmt != .promoted then .error 0x1035
        else if x.len * 64 < off + o + n then .error 0x103C
        else
          let b := x.base * 64 + off + o
          if x.mem = 2 then let r := w.meshPlinth q b n; .ok (loadElem fmt r.1, r.2)
          else
            let m := if x.mem = 0 then 1 else 0
            .ok (loadElem fmt (w.mreadN q m b n), w.mpoisonN q m b n)

/-- The code of the lowest lane that fails. -/
def firstErr {α : Type} (f : Nat → Except W16 α) : List Nat → Option W16
  | [] => none
  | i :: is => match f i with
    | .error e => some e
    | .ok _ => firstErr f is

/-- The active lanes, ascending. -/
def activeLanes (vs : VecState) (vl : Nat) (v : VmemF) : List Nat := lanes64.filter (laneActive vs vl v.me v.msk)

/-- A load of one element per lane into vd. -/
def loadLanes (p t : Nat) (v : VmemF) (f : Nat → Except W16 (W32 × Bool)) (w : Work) : Res :=
  let k := w.core p
  let vl := (w.thread p t).vl
  match firstErr f (activeLanes k.vec vl v) with
  | some e => .fail e 0
  | none =>
    let val := fun i => match f i with
      | .ok x => x
      | .error _ => (0, false)
    (w.modCore p fun _ => { k with vec := writeLanes k.vec vl v.me v.mz v.msk v.vd val }).done p t

/-- VLD (R197). -/
def vldOp (p t : Nat) (c : Ctx) (word _len : Nat) (w : Work) : Res :=
  let v := vmemFields word
  let a := memAddr ((w.thread p t).reg v.rs1).toNat
  loadLanes p t v (fun i => w.loadAt p c v.fmt a (i * fmtWidth v.fmt)) w

/-- VLDB (R197): every active lane takes the one element at the address. It is none of the operations that R61 lets move a
binary32 uninterpreted, so a NaN comes out canonical. -/
def vldbOp (p t : Nat) (c : Ctx) (word _len : Nat) (w : Work) : Res :=
  let v := vmemFields word
  let a := memAddr ((w.thread p t).reg v.rs1).toNat
  let canon := fun (x : W32 × Bool) => if v.fmt = 5 && (f32v x.1).isNan then (nan32, x.2) else x
  loadLanes p t v (fun _ => (w.loadAt p c v.fmt a 0).map canon) w

-- The gather buffer (R341 to R345) ----------------------------------------------------------------------------------------------

/-- An entry with a write of bytes of its line merged in: data, byte-valid mask, and the poison of each granule, which a
poisoned byte sets and a clean write of the whole granule clears (R341, R371). -/
def GatherEntry.merge (e : GatherEntry) (bytes : List (Nat × Byte)) (pois : List Nat) : GatherEntry :=
  let mask := maskOf fun i => bytes.any fun b => b.1 == 64 * e.line + i
  let bad := fun (g : Nat) => pois.any fun o => o / 16 == 4 * e.line + g
  let whole := fun (g : Nat) => (List.range 16).all fun i => mask.getLsbD (16 * g + i)
  { e with data := bytes.foldl (fun t b => if b.1 / 64 = e.line then tabSet 0 t (b.1 % 64) b.2 else t) e.data,
           mask := e.mask ||| mask,
           poison := (maskOf fun g => bad g || (e.poison.getLsbD g && !whole g)).setWidth 4 }

/-- One line's share of a write: a whole line passes by, a part merges into its entry or opens one; the oldest of eight
entries drains to make room; a full entry drains (R342, R343). The bytes themselves stand in the store at once (R345). -/
def gatherLine (remote : Bool) (bytes : List (Nat × Byte)) (pois : List Nat) (g : List GatherEntry) (line : Nat) :
    List GatherEntry :=
  let full := fun (e : GatherEntry) => e.mask == BitVec.allOnes 64
  match g.find? fun e => e.line == line with
  | some e =>
    let e := e.merge bytes pois
    if full e then g.filter fun x => x.line != line else g.map fun x => if x.line = line then e else x
  | none =>
    let e := (GatherEntry.mk line remote [] 0 0).merge bytes pois
    if full e then g else (if g.length < 8 then g else g.drop 1) ++ [e]

def Core.gatherPut (c : Core) (remote : Bool) (bytes : List (Nat × Byte)) (pois : List Nat) : Core :=
  { c with gather := ((bytes.map fun b => b.1 / 64).eraseDups).foldl (gatherLine remote bytes pois) c.gather }

/-- An activation-store write by the vector engine or remote in: bytes, poison, gather buffer. One that touches a locked line is
dropped and leaves no trace in the buffer (R383). -/
def Work.asWrite (w : Work) (p : Nat) (remote : Bool) (bytes : List (Nat × Byte)) (pois : List Nat) : Work :=
  if bytes.any fun b => (w.core p).lineLocked 1 (b.1 / 64) then w
  else (w.mwrite p 1 bytes pois).modCore p fun k => k.gatherPut remote bytes pois

-- VST (R197, R199, R204, R206, R207, R360) ------------------------------------------------------------------------------------

/-- Folds an element's 32-bit value and poison into a thread's redundancy digest (R597). -/
def foldElem (d : Nat) (v : W32) (pois : Bool) : Nat := (leBytes 4 v.toNat ++ [w8 (b2n pois)]).foldl crc64Byte d

/-- The rounding of a conversion by lane i: seeded by the stream and step ROW names (R72 to R77, R207). -/
def Ctx.roundingAt (c : Ctx) (th : Thread) (row site elem : Nat) : Rounding :=
  if th.sr then
    .sr (randomWord c.m.seed (c.stepIdx row) th.layer.toNat site 0 (c.laneOf row).stream elem)
  else .rne

/-- Does a store to a format take part in stochastic rounding (R72)? -/
def roundsSr (fmt : Nat) : Bool := decide (1 ≤ fmt) && decide (fmt ≤ 4)

/-- The check of one stored lane at a local address (R199). -/
def storeAt (c : Ctx) (fmt : Nat) (a : MAddr) (o : Nat) : Except W16 Nat :=
  let n := fmtWidth fmt
  match a with
  | .mem 1 off =>
    let b := off + o
    if b % n ≠ 0 || memSize 1 < b + n || !c.img.declared (b / 64) 1 then .error 0x1039 else .ok b
  | .window _ _ _ off => if (off + o) % n ≠ 0 then .error 0x1039 else .ok (off + o)
  | _ => .error 0x1039

/-- A remote store enters the mesh port of its core, all of its lines queued there, on its way to the owner (R360, R368); it
counts its flits (R663). -/
def Work.sendRemote (w : Work) (p t : Nat) (c : Ctx) (slot win off hi : Nat) (bytes : List (Nat × Byte)) (pois : List Nat) :
    Work :=
  let lines := (bytes.map fun b => b.1 / 64).eraseDups
  let q := if slot < c.m.slots.length then c.coreOf slot else p
  let s : RStore := { fromCore := p, toCore := q, thread := t, ring := c.cur.ring, seq := c.cur.seq,
                      checker := c.cur.checker, slot := slot, win := win, off := off, bytes := bytes, poison := pois,
                      hi := hi, lines := lines, target := c.window? slot win, queued := lines.length }
  let w := w.mod fun d => { d with mesh := { d.mesh with stores := d.mesh.stores ++ [s] } }
  w.modCore p fun k => { k with perf := { k.perf with flits := (k.perf.flits + lines.length) % 2 ^ 64 } }

/-- VST. One that finds too little room in the mesh port's queue of eight lines puts its thread to sleep (R368). -/
def vstOp (p t : Nat) (c : Ctx) (word _len : Nat) (w : Work) : Res :=
  let v := vmemFields word
  let th := w.thread p t
  let k := w.core p
  let n := fmtWidth v.fmt
  let addr := (th.reg v.rs1).toNat
  let a := memAddr addr
  let row := fld th.ctx 24 8
  let act := activeLanes k.vec th.vl v
  let sr := th.sr && roundsSr v.fmt
  if sr && decide (c.len ≤ row) then .access
  else match firstErr (fun i => storeAt c v.fmt a (i * n)) act with
    | some e => .fail e 0
    | none =>
      let conv := fun i => storeElem v.fmt
        (if sr then c.roundingAt th row v.site (fld th.ctx 0 21 + i) else .rne) (k.vec.lane v.vd i)
      let base := match a with
        | .mem _ off => off
        | .window _ _ _ off => off
        | .reserved => 0
      let bytes := act.flatMap fun i => runFrom (base + i * n) (conv i).1
      let pois := (act.filter fun i => k.vec.poisoned v.vd i).flatMap fun i => (List.range n).map fun b => base + i * n + b
      let flagged := fun (w : Work) => w.modCore p fun k =>
        k.recordFlags (act.foldl (fun f i => Flags.or f (conv i).2) Flags.none)
      let folded := fun (w : Work) => w.modThread p t fun th =>
        { th with digest := act.foldl (fun d i => foldElem d (k.vec.lane v.vd i) (k.vec.poisoned v.vd i)) th.digest }
      match a, bytes with
      | _, [] => (flagged w).done p t
      | .window 0 slot win off, _ =>
        if 8 < w.meshLines p + ((bytes.map fun b => b.1 / 64).eraseDups).length then .sleep .mesh
        else
          let hi := (bytes.map fun b => b.1 + 1).foldl max 0
          (flagged (w.sendRemote p t c slot win off hi bytes pois)).done p t
      | .window blk _ _ _, _ =>
        let w := folded (flagged w)
        if c.cur.checker then w.done p t else w.spanStore p t c blk addr bytes pois
      | _, _ => (flagged (w.asWrite p false bytes pois)).done p t

/-- A position of the CHUNK or BIWIN on a core is poisoned: a tile row that carries it is (R130, R131). Its stream will not commit
(R282, R325; DEDUCED, log entry 105). -/
def Work.poisonPosition (w : Work) (p : Nat) : Work :=
  match (w.core p).cur with
  | none => w
  | some cur => w.modExec cur.ring cur.seq fun e =>
    if dOpc e.desc = 2 || dOpc e.desc = 3 then
      { e with lanes := e.lanes.map fun l => if l.ph = .busy then { l with poisoned := true } else l }
    else e

-- PRD and PWR (R200, R201, R137 to R139) ---------------------------------------------------------------------------------------

/-- PRD: waits while the slot accumulates. Where every slot is FREE the plinth's format is the last one it held (DESIGN CHOICE, log
entry 11). -/
def prdOp (p t : Nat) (_c : Ctx) (word _len : Nat) (w : Work) : Res :=
  let v := vmemFields word
  let th := w.thread p t
  let a := (th.reg v.rs1).toNat
  let k := w.core p
  let s := k.plinth
  let slot := a / 64
  let row := a % 64
  let sl := s.slot slot
  if 1024 ≤ a || (v.fmt != 5 && v.fmt != 6) || s.fmt.slots ≤ slot then .fail 0x1035 0
  else if sl.st = .accum then .sleep (.slot slot)
  else if sl.st != .free &&
      (if s.fmt == .promoted then sl.kind != (if v.fmt = 5 then .fp else .int) else v.fmt == 6 && sl.kind != .int) then
    .fail 0x1035 0
  else
    let r := fun i => w.plRead p slot row i (v.fmt == 6)
    let f := laneFlags k.vec th.vl v.me v.msk fun i => (r i).2
    (w.modCore p fun _ => { (k.recordFlags f) with
      vec := writeLanes k.vec th.vl v.me v.mz v.msk v.vd fun i => ((r i).1, sl.poison.getLsbD row) }).done p t

/-- PWR: promoted format, unrounded. -/
def pwrOp (p t : Nat) (_c : Ctx) (word _len : Nat) (w : Work) : Res :=
  let v := vmemFields word
  let th := w.thread p t
  let a := (th.reg v.rs1).toNat
  let k := w.core p
  let s := k.plinth
  let slot := a / 64
  let row := a % 64
  let sl := s.slot slot
  let kind : Kind := if v.fmt = 5 then .fp else .int
  if 1024 ≤ a || (v.fmt != 5 && v.fmt != 6) || (s.fmt != .promoted && !s.allFree) then .fail 0x1035 0
  else match sl.st with
    | .accum => .fail 0x1034 0
    | .held => .fail 0x1034 0
    | st =>
      if st != .free && sl.kind != kind then .fail 0x1035 0
      else
        let act := activeLanes k.vec th.vl v
        let bad := act.any fun i => k.vec.poisoned v.vd i
        let w := if st = .free then w.openSlot p .promoted slot else w
        let w := w.mwrite p 2 (act.flatMap fun i => runFrom (elemOff .promoted slot row i)
          (leBytes 4 (k.vec.lane v.vd i).toNat)) []
        let pz := if bad then sl.poison ||| BitVec.ofNat 64 (2 ^ row) else sl.poison
        let sl' : TileSlot := { sl with st := (if st = .free then .pre else st), kind := kind, poison := pz }
        let upd := fun (s : PlinthState) => PlinthState.setSlot { s with fmt := .promoted } slot sl'
        let w := w.modCore p fun k => { k with plinth := upd k.plinth }
        (if bad then w.poisonPosition p else w).done p t

-- Carried state and random words (R202 to R205, R208, R209) ---------------------------------------------------------------------

/-- The checks of a state address (R204): the row, or none. -/
def Ctx.stateRow (c : Ctx) (a : Nat) : Option Nat :=
  if bitsOf a 21 3 ≠ 0 || c.len ≤ bitsOf a 24 8 then none else some (bitsOf a 24 8)

/-- VLDS: the active half, or a zero state with every element poisoned for an absent lane (R306). -/
def vldsOp (p t : Nat) (c : Ctx) (word _len : Nat) (w : Work) : Res :=
  let v := vmemFields word
  let a := ((w.thread p t).reg v.rs1).toNat
  match c.stateRow a with
  | none => .access
  | some row =>
    let l := c.laneOf row
    let x := w.ctx l.stream
    let pages := (w.sslot x.sslot).pagesOf x.half
    loadLanes p t v (fun i =>
      match elemAt c.m.layers 0 (bitsOf a 0 21 + i) with
      | none => .error 0x1039
      | some (fmt, off) =>
        if l.ph == .absent then .ok (0, true) else .ok (loadElem fmt (w.halfBytes pages off (fmtWidth fmt)), false)) w

/-- VSTS: the inactive half, written mask, poison of the new state (R205, R208, R321). The checker copy writes nothing
(R596). -/
def vstsOp (p t : Nat) (c : Ctx) (word _len : Nat) (w : Work) : Res :=
  let v := vmemFields word
  let th := w.thread p t
  let k := w.core p
  let a := (th.reg v.rs1).toNat
  match c.stateRow a with
  | none => .access
  | some row =>
    let act := activeLanes k.vec th.vl v
    let off := bitsOf a 0 21
    let place := fun i => elemAt c.m.layers 0 (off + i)
    if act.any fun i => (place i).isNone then .access
    else
      let l := c.laneOf row
      let x := w.ctx l.stream
      let conv := fun i =>
        let at_ := (place i).getD (4, 0)
        let r := storeElem at_.1 (c.roundingAt th row 15 (off + i)) (k.vec.lane v.vd i)
        (at_.2, r.1, r.2)
      let w := w.modCore p fun k => k.recordFlags (act.foldl (fun f i => Flags.or f (conv i).2.2) Flags.none)
      let w := w.modThread p t fun th =>
        { th with digest := act.foldl (fun d i => foldElem d (k.vec.lane v.vd i) (k.vec.poisoned v.vd i)) th.digest }
      if c.cur.checker || l.ph == .absent then w.done p t
      else
        let pages := (w.sslot x.sslot).pagesOf (!x.half)
        let w := act.foldl (fun w i => w.writeHalf pages (conv i).1 (conv i).2.1) w
        let w := w.modArm fun m => { m with slots := tabMod SSlot.init m.slots x.sslot fun s =>
          { s with written := act.foldl (fun t i => tabSet false t (off + i) true) s.written } }
        let bad := act.any fun i => k.vec.poisoned v.vd i
        let li := if dOpc c.e.desc = 1 then row else 0
        let w := if bad then w.modExec c.cur.ring c.cur.seq fun e =>
            { e with lanes := setNth e.lanes li { l with poisoned := true } } else w
        w.done p t

/-- VRNG. An active lane whose element lies past the stream's state fails the step (R204). -/
def vrngOp (p t : Nat) (c : Ctx) (word _len : Nat) (w : Work) : Res :=
  let v := vmemFields word
  let th := w.thread p t
  let a := (th.reg v.rs1).toNat
  match c.stateRow a with
  | none => .access
  | some row =>
    loadLanes p t v (fun i =>
      if c.m.elems ≤ bitsOf a 0 21 + i then .error 0x1039
      else .ok (w32 (randomWord c.m.seed (c.stepIdx row) th.layer.toNat v.site 1
        (c.laneOf row).stream (bitsOf a 0 21 + i)), false)) w

/-- VLD (R197). -/
def execVld (core thread : Nat) (s : State) : Host.Outcome State Fault Refusal :=
  run (instr .vld core thread (vldOp core thread)) s
/-- VST (R197). -/
def execVst (core thread : Nat) (s : State) : Host.Outcome State Fault Refusal :=
  run (instr .vst core thread (vstOp core thread)) s
/-- PRD (R200). -/
def execPrd (core thread : Nat) (s : State) : Host.Outcome State Fault Refusal :=
  run (instr .prd core thread (prdOp core thread)) s
/-- PWR (R200). -/
def execPwr (core thread : Nat) (s : State) : Host.Outcome State Fault Refusal :=
  run (instr .pwr core thread (pwrOp core thread)) s
/-- VLDS (R197). -/
def execVlds (core thread : Nat) (s : State) : Host.Outcome State Fault Refusal :=
  run (instr .vlds core thread (vldsOp core thread)) s
/-- VSTS (R197). -/
def execVsts (core thread : Nat) (s : State) : Host.Outcome State Fault Refusal :=
  run (instr .vsts core thread (vstsOp core thread)) s
/-- VRNG (R209). -/
def execVrng (core thread : Nat) (s : State) : Host.Outcome State Fault Refusal :=
  run (instr .vrng core thread (vrngOp core thread)) s
/-- VLDB (R197). -/
def execVldb (core thread : Nat) (s : State) : Host.Outcome State Fault Refusal :=
  run (instr .vldb core thread (vldbOp core thread)) s

end Sys2Proof.Machine
end

