-- ==== Sys2Proof/Machine/Array.lean ====
section
/-! DEFINITION. The matrix array (03 R105 to R140, 02 R79 to R88) and the statistic unit (R142 to R153): queueing commands,
accumulating, draining, tallying, merging, reading out. -/

-- Declarations are elaborated one after another: side by side, each would hold a thread and its stack.
set_option Elab.async false

namespace Sys2Proof.Machine

-- The MMA command (R111, R117, R768) -----------------------------------------------------------------------------------------

/-- Row-operand lines per position (R108). -/
def Mma.rowLines (m : Mma) : Nat := if 6 ≤ m.pair then 2 else 1
/-- Weight lines of the whole command (R108). -/
def Mma.weightLines (m : Mma) : Nat := if 6 ≤ m.pair then 2 * m.klen else if m.pair = 1 then ceilDiv m.klen 2 else m.klen
/-- Compute beats (R110, R125). -/
def Mma.beats (m : Mma) : Nat :=
  (m.nrow + 1) * (if 6 ≤ m.pair then 4 * m.klen else if m.pair = 1 then ceilDiv m.klen 2 else m.klen)

/-- The command in 16 bytes; none where its encoding is undefined (R768). `vrows` is the count of valid rows. -/
def mmaOf (thread : Nat) (b : List Byte) : Option Mma :=
  let w0 := word32 b 0
  let w1 := word32 b 4
  let w2 := word32 b 8
  let w3 := word32 b 12
  if bitsOf w0 28 4 ≠ 1 || bitsOf w0 16 2 ≠ 0 || bitsOf w0 0 6 ≠ 0 || bitsOf w1 24 8 ≠ 0 || bitsOf w2 13 19 ≠ 0 ||
      bitsOf w3 15 17 ≠ 0 || bitsOf w1 0 24 = 0 then none
  else some { thread := thread, wsr := bitOf w0 27, isExact := bitOf w0 26, pair := bitsOf w0 23 3, nrow := bitsOf w0 21 2,
              first := bitOf w0 20, isFinal := bitOf w0 19, wsrc := bitOf w0 18, slot := bitsOf w0 12 4,
              vrows := bitsOf w0 6 6 + 1, klen := bitsOf w1 0 24, abase := bitsOf w2 0 13, wbase := bitsOf w3 0 15,
              lines := [] }

/-- R117. -/
def Mma.formatOk (m : Mma) : Bool :=
  (!m.isExact || m.pair ≤ 2 || m.pair == 6) && (!m.wsrc || m.wsr) && (!m.wsr || m.nrow == 0) &&
    decide (m.slot + m.nrow < m.fmt.slots)

/-- R116: the operands lie within the memories, the row operand within the declared lines. -/
def Mma.rangeOk (m : Mma) (img : SlotImg) : Bool :=
  let n := (m.nrow + 1) * m.klen * m.rowLines
  decide (m.abase + n ≤ 8192) && (m.wsrc || decide (m.wbase + m.weightLines ≤ 20480)) && img.declared m.abase n

/-- The command an XMMA has read (R111, R117, R116); while the queue is full it waits with the thread (R167, R212). -/
def xmmaCmd (p t : Nat) (c : Ctx) (b : List Byte) (w : Work) : Res :=
  match mmaOf t b with
  | none => .illegal
  | some m =>
    if !m.formatOk then .fail 0x1035 0
    else if !m.rangeOk c.img then .fail 0x1037 0
    else if 4 ≤ (w.core p).queue.length then .sleep (.queue b)
    else (w.modCore p fun k => { k with queue := k.queue ++ [m] }).done p t

/-- XMMA (R211, R212): the command is read as it issues. x[rs2] and rd, which R211 marks with a dash, are not looked at (log entry
103). -/
def xmmaOp (p t : Nat) (c : Ctx) (word _len : Nat) (w : Work) : Res :=
  let a := ((w.thread p t).reg (xFields word).rs1).toNat
  match (if a % 16 = 0 then dmem c.img (w.core p).scratch a 16 else none) with
  | none => .access
  | some b => xmmaCmd p t c b w

-- Operands (R108, R112, R130, R405) --------------------------------------------------------------------------------------------

/-- A line with its poison: as read from a core's memory. -/
def Work.line (w : Work) (p mem l : Nat) : List Byte × Bool := (w.mreadN p mem (64 * l) 64, w.mpoisonN p mem (64 * l) 64)

/-- Is row i of an activation-store line marked in a row-poison mask (R405)? -/
def rowMasked (img : SlotImg) (k : Core) (l i : Nat) : Bool :=
  img.regions.zipIdx.any fun (r, n) =>
    r.valid && r.mem == 0 && decide (r.base ≤ l) && decide (l < r.base + r.len) && decide (4 ≤ r.len) &&
      (tabGet 0 k.land.masks (4 * n + (l - r.base) / (r.len / 4))).getLsbD i

/-- Row operand element (row i of row tile r, position k): its byte offset and width. -/
def Mma.rowAt (m : Mma) (r i k : Nat) : Nat × Nat :=
  let l := m.abase + (r * m.klen + k) * m.rowLines
  if 6 ≤ m.pair then (64 * (l + i / 32) + 2 * (i % 32), 2) else (64 * l + i, 1)

/-- Weight operand bits of column j at position k from the command's weight lines. -/
def Mma.weightAt (m : Mma) (line : Nat → List Byte) (k j : Nat) : Nat :=
  if 6 ≤ m.pair then leNat (sliceAt (line (2 * k + j / 32)) (2 * (j % 32)) 2)
  else if m.pair = 1 then bitsOf (nth 0 (line (k / 2)) (32 * (k % 2) + j / 2)).toNat (4 * (j % 2)) 4
  else (nth 0 (line k) j).toNat

/-- Weight and row formats of the float pairs (R111). -/
def Mma.wFmt (m : Mma) : FFmt :=
  if m.pair = 6 then fmtFP16 else if m.pair = 7 then fmtBF16 else if m.pair = 2 || m.pair = 3 then fmtE4M3 else fmtE5M2
def Mma.rFmt (m : Mma) : FFmt :=
  if m.pair = 6 then fmtFP16 else if m.pair = 7 then fmtBF16 else if m.pair = 2 || m.pair = 4 then fmtE4M3 else fmtE5M2

-- Accumulation -------------------------------------------------------------------------------------------------------------------

/-- Groups of 16 (R81); structural on the fuel. -/
def groups16 {α : Type} : Nat → List α → List (List α)
  | 0, _ => []
  | n + 1, l => match l with
    | [] => []
    | _ => l.take 16 :: groups16 n (l.drop 16)

def FVal.mag2 : FVal → Int
  | .fin _ m e => (Nat.log2 m : Int) + e
  | _ => 0

/-- The promotion of a float group (R83). -/
def promoteGroup (acc : W32) (ps : List (FVal × FVal)) : W32 × Flags :=
  let prods := ps.map fun x => mulVals x.1 x.2
  let has := fun neg => prods.any fun q => q == some (.inf neg)
  if ps.any fun x => x.1.isNan || x.2.isNan then (nan32, Flags.none)
  else if prods.any (· == none) then (nan32, Flags.nvOnly)
  else if has false && has true then (nan32, Flags.nvOnly)
  else if has false || has true then f32Add acc (inf32 (has true))
  else
    let nz := prods.filterMap fun q => match q with
      | some (.fin s m e) => if m = 0 then none else some (s, m, e)
      | _ => none
    match nz with
    | [] => (acc, Flags.none)
    | x :: xs =>
      let top := fun (y : Bool × Nat × Int) => (Nat.log2 y.2.1 : Int) + y.2.2
      let emax := xs.foldl (fun m y => max m (top y)) (top x)
      let q := fun (y : Bool × Nat × Int) =>
        let z := Dy.floor ⟨(y.2.1 : Int), y.2.2 + 14 - emax⟩
        if y.1 then -z else z
      let s := ((x :: xs).map q).sum
      addVals (f32v acc) (.fin (decide (s < 0)) s.natAbs (emax - 14))

/-- An element of a promoted float accumulation over all groups of a command. -/
def accFloat (acc : W32) (ps : List (FVal × FVal)) : W32 × Flags :=
  (groups16 (ps.length / 16 + 1) ps).foldl (fun a g =>
    let r := promoteGroup a.1 g
    (r.1, Flags.or a.2 r.2)) (acc, Flags.none)

/-- An element of a promoted integer accumulation (R82). -/
def accInt (acc : W32) (ps : List Int) : W32 × Flags :=
  (groups16 (ps.length / 16 + 1) ps).foldl (fun a g =>
    let r := sat32 (a.1.toInt + g.sum)
    (r.1, Flags.or a.2 r.2)) (acc, Flags.none)

/-- The special-value tag products leave (R86). -/
def tagOf (ps : List (FVal × FVal)) : Nat :=
  let prods := ps.map fun x => mulVals x.1 x.2
  let nan := ps.any fun x => x.1.isNan || x.2.isNan
  let bad := (ps.zip prods).any fun x => !(x.1.1.isNan || x.1.2.isNan) && x.2 == none
  b2n nan + 2 * b2n bad + 4 * b2n (prods.any fun q => q == some (.inf false)) +
    8 * b2n (prods.any fun q => q == some (.inf true))

/-- The exact sum of float products in units of the least significant bit (R84). -/
def exactSum (lsb : Int) (ps : List (FVal × FVal)) : Int :=
  (ps.map fun x => match mulVals x.1 x.2 with
    | some (.fin s m e) => let z := Dy.floor ⟨(m : Int), e - lsb⟩; if s then -z else z
    | _ => 0).sum

/-- One element after a command: new stored bits, flags, tag bits it adds. -/
def Mma.element (m : Mma) (old : Nat) (rows : List Nat) (weights : List Nat) : Nat × Flags × Nat :=
  let bytes := m.fmt.bytes
  if m.pair ≤ 1 then
    let ps := List.zipWith (fun a b => signExt 8 a * signExt (if m.pair = 1 then 4 else 8) b) rows weights
    if m.isExact then (toTwos (8 * bytes) (signExt (8 * bytes) old + ps.sum), Flags.none, 0)
    else let r := accInt (w32 old) ps; (r.1.toNat, r.2, 0)
  else
    let ps := List.zipWith (fun a b => (m.wFmt.value b, m.rFmt.value a)) rows weights
    if m.isExact then
      (toTwos (8 * bytes) (signExt (8 * bytes) old + exactSum m.kind.lsb ps), Flags.none, tagOf ps)
    else let r := accFloat (w32 old) ps; (r.1.toNat, r.2, 0)

/-- The whole command: operands read, products accumulated in ascending position order, promotions and poison (R81 to R88,
R113, R130). `isNew` marks slots that were FREE. The flags of its promotions, the last one in the drain included, set here, as the
operands are accumulated (R127; log entry 7). -/
def Work.accumulate (w : Work) (p : Nat) (img : SlotImg) (m : Mma) (isNew : Nat → Bool) : Work :=
  let k := w.core p
  let wlines : List (List Byte × Bool) :=
    if m.wsrc then m.lines else (List.range m.weightLines).map fun i => w.line p 0 (m.wbase + i)
  let wline := fun i => (nth ([], false) wlines i).1
  let wbad := wlines.any fun x => x.2
  let ks := List.range m.klen
  let cols := (List.range 64).map fun j => ks.map fun q => m.weightAt wline q j
  (List.range (m.nrow + 1)).foldl (fun w r =>
    let slot := m.slot + r
    let rows := if r = m.nrow then m.vrows else 64
    let w := if isNew slot then w.openSlot p m.fmt slot else w
    let badRow := fun i => ks.any fun q =>
      let a := m.rowAt r i q
      w.mpoisonN p 1 a.1 a.2 || rowMasked img k (a.1 / 64) i
    let w := (List.range rows).foldl (fun w i =>
      let xs := ks.map fun q => let a := m.rowAt r i q; leNat (w.mreadN p 1 a.1 a.2)
      cols.zipIdx.foldl (fun w (ws, j) =>
        let old := if isNew slot then 0 else w.plElem p m.fmt slot i j
        let res := m.element old xs ws
        let w := w.mwrite p 2 (runFrom (elemOff m.fmt slot i j) (leBytes m.fmt.bytes res.1)) []
        w.modCore p fun k => { (k.recordFlags res.2.1) with
          plinth := (if res.2.2 = 0 then k.plinth else { k.plinth with
            tags := tabMod 0 k.plinth.tags (tagKey slot i j) fun t => t ||| res.2.2 }) }) w) w
    let pz := if wbad then BitVec.allOnes 64 else maskOf fun i => decide (i < rows) && badRow i
    let upd := fun (s : PlinthState) =>
      let sl := s.slot slot
      s.setSlot slot { sl with poison := sl.poison ||| pz }
    let w := w.modCore p fun k => { k with plinth := upd k.plinth }
    if pz = 0 then w else w.poisonPosition p) w

-- Compute start and drain (R139, R769, R115, R124) -------------------------------------------------------------------------------

/-- Weight lines a computing command still needs from the sprue chain (R123). -/
def Mma.need (m : Mma) : Nat := if m.wsrc then m.weightLines - m.lines.length else 0

/-- Is a command computing that still waits for chain lines? -/
def Core.computing (k : Core) : Bool := k.mmas.any fun m => m.need != 0

/-- MMA_COMPUTE_START: the head of the queue meets its slot states; a weight-streaming command with chain weights collects
its lines first. -/
def mmaComputeStart (p : Nat) (w : Work) : Work :=
  let k := w.core p
  match w.ctxOf p, k.queue with
  | some c, m :: rest =>
    if k.computing then w
    else match k.judgeHead m with
      | .waits => w.stallCheck p
      | .fails code => w.failCore p code
      | .begins =>
        let isNew := fun i => (k.plinth.slot i).st == .free
        let begin_ := fun (s : PlinthState) => m.slots.foldl (fun (s : PlinthState) i =>
          let sl := s.slot i
          s.setSlot i { sl with st := .accum, kind := m.kind, len := (if m.first then 0 else sl.len) + m.klen })
          { s with fmt := m.fmt }
        let w := w.modCore p fun k => { k with
          queue := rest, mmas := k.mmas ++ [m],
          perf := { k.perf with mmaBeats := (k.perf.mmaBeats + m.beats) % 2 ^ 64 } , plinth := begin_ k.plinth }
        if m.wsrc then m.slots.foldl (fun w i => if isNew i then w.openSlot p m.fmt i else w) w
        else w.accumulate p c.img m isNew
  | _, _ => w

/-- MMA_DRAIN_DONE: the oldest command's drain ends; FINAL makes its slots DONE. -/
def mmaDrainDone (p : Nat) (w : Work) : Work :=
  match (w.core p).mmas with
  | m :: rest =>
    if m.need != 0 then w
    else
      let fin := fun (s : PlinthState) => m.slots.foldl (fun (s : PlinthState) i =>
        let sl := s.slot i
        if m.isFinal && sl.st == .accum then s.setSlot i { sl with st := .done } else s) s
      (w.modCore p fun k => { k with mmas := rest, plinth := fin k.plinth }).stallCheck p
  | [] => w

-- Statistics (R142 to R152) ---------------------------------------------------------------------------------------------------------

/-- A quotient of integers times a power of two, rounded; the divisor is not zero. -/
def quotInt (num den : Int) (e : Int) : W32 × Flags :=
  rne32Quot (decide (num < 0) != decide (den < 0)) num.natAbs den.natAbs e

/-- A binary32 value over an integer (R145, R148). Over zero the spec states no result: a free value, the same wherever the operand
is (R99; log entry 28). -/
def f32DivInt (x : W32) (n : Int) : W32 × Flags :=
  match f32v x with
  | .nan => (nan32, Flags.none)
  | .inf s => if n = 0 then (Config.valueOverZero x, Flags.none) else (inf32 (s != decide (n < 0)), Flags.none)
  | .fin s m e =>
    if n = 0 then (Config.valueOverZero x, Flags.none)
    else if m = 0 then (if s != decide (n < 0) then 0x80000000 else 0, Flags.none)
    else quotInt (if s then -(m : Int) else m) n e

/-- A sequence of rounded operations with the flags of all. -/
def step2 (r : W32 × Flags) (f : Flags) : W32 × Flags := (r.1, Flags.or f r.2)

/-- The record of one tile row (R145). -/
def tallyRow (xs : List (W32 × Flags)) (pois : Bool) : StatRow × Flags :=
  let r := xs.foldl (fun (a : W32 × W32 × Flags) x =>
    let s := f32Add a.1 x.1
    let q := f32Fma false x.1 x.1 a.2.1
    (s.1, q.1, Flags.or (Flags.or a.2.2 x.2) (Flags.or s.2 q.2))) (0, 0, Flags.none)
  let mean := f32DivInt r.1 xs.length
  let m2 := f32Fma false (f32Neg r.1) mean.1 r.2.1
  (⟨xs.length, mean.1, (if f32Cmp true false m2.1 0 then 0 else m2.1), pois⟩,
    Flags.or r.2.2 (Flags.or mean.2 m2.2))

/-- Two rows merged (R146); a.n * r is rounded once. Where the counts sum to zero the spec states no quotient: a free value, a
function of the operands (log entry 28). -/
def mergeRow (a b : StatRow) : StatRow × Flags :=
  let n := a.n + b.n
  let r := if n = 0 then (Config.ratioOverZero b.n, Flags.none) else quotInt b.n n 0
  let d := f32Sub b.mean a.mean
  let mean := f32Fma false d.1 r.1 a.mean
  let w := match mulVals (.fin (decide (a.n < 0)) a.n.natAbs 0) (f32v r.1) with
    | none => (nan32, Flags.nvOnly)
    | some p => roundVal p
  let t := f32Mul d.1 d.1
  let sm := f32Add a.m2 b.m2
  let m2 := f32Fma false t.1 w.1 sm.1
  (⟨n, mean.1, m2.1, a.poison || b.poison⟩,
    [r.2, d.2, mean.2, w.2, t.2, sm.2, m2.2].foldl Flags.or Flags.none)

/-- Fields of XTALLY (R211). -/
structure TallyF where
  hold : Bool
  vcols : Nat
  ord : Nat
  chain : Nat
  slot : Nat
  deriving DecidableEq, Repr

def tallyFields (v : W32) : Option TallyF :=
  if fld v 25 7 ≠ 0 || fld v 22 2 ≠ 0 || fld v 6 2 ≠ 0 then none
  else some ⟨bit v 24, fld v 16 6 + 1, fld v 8 8, fld v 4 2, fld v 0 4⟩

/-- May an ordinal be offered to a chain now (R149)? -/
def Chain.takes (c : Chain) (ord : Nat) : Bool := c.isOpen && decide (ord < c.total) && !(c.offered.any (· == ord))

/-- Computes the tile record of a DONE slot and offers it (R145, R147). -/
def Work.tally (w : Work) (p : Nat) (f : TallyF) : Work :=
  let k := w.core p
  let sl := k.plinth.slot f.slot
  let rows := (List.range 64).map fun i =>
    tallyRow ((List.range f.vcols).map fun j => w.plReadF p f.slot i j) (sl.poison.getLsbD i)
  let recd := rows.map Prod.fst
  let fl := rows.foldl (fun a r => Flags.or a r.2) Flags.none
  let upd := fun (s : PlinthState) =>
    let ch := s.chain f.chain
    let s := s.setChain f.chain { ch with
      waiting := ch.waiting ++ [⟨f.ord, recd⟩], held := (if f.hold then ch.held ++ [f.slot] else ch.held) }
    s.setSlot f.slot { sl with record := recd, st := (if f.hold then .held else .done) }
  w.modCore p fun k => { (k.recordFlags fl) with plinth := upd k.plinth }

/-- XTALLY (R139, R143, R149): the chain is judged and the ordinal taken at issue; an accumulating slot is waited for. A slot that
only another format has fails the step while any slot is in use (R135), after the chain is judged (log entry 106). -/
def xtallyOp (p t : Nat) (_c : Ctx) (word _len : Nat) (w : Work) : Res :=
  match tallyFields ((w.thread p t).reg (xFields word).rs1) with
  | none => .illegal
  | some f =>
    let s := (w.core p).plinth
    let offer := fun (s : PlinthState) =>
      let ch := s.chain f.chain
      s.setChain f.chain { ch with offered := ch.offered ++ [f.ord] }
    if !(s.chain f.chain).takes f.ord then .fail 0x1034 0
    else if s.fmt.slots ≤ f.slot && !s.allFree then .fail 0x1035 0
    else match (s.slot f.slot).st with
      | .done => ((w.modCore p fun k => { k with plinth := offer k.plinth }).tally p f).done p t
      | .accum =>
        .go ((w.modCore p fun k => { k with plinth := offer k.plinth }).modThread p t fun th =>
          { th with st := .sleeping (.tally f.slot) }) (w.thread p t).pc
      | _ => .fail 0x1034 0

/-- A thread that waits in XTALLY and whose slot has changed state goes on: DONE is tallied, any other state fails. -/
def Work.resumeTally (w : Work) (p t : Nat) : Work :=
  match w.ctxOf p with
  | none => w
  | some c =>
    match fetchAt c.img (w.thread p t).pc with
    | none => w
    | some (word, _) =>
      match tallyFields ((w.thread p t).reg (xFields word).rs1) with
      | none => w
      | some f =>
        if ((w.core p).plinth.slot f.slot).st == .done then
          ((w.tally p f).modThread p t fun th => { th with pc := th.pc + 4, st := .running }).stallCheck p
        else w.failCore p 0x1034

/-- Threads that sleep in a TALLY of a slot. -/
def Work.tallying (w : Work) (p slot : Nat) : List Nat :=
  (List.range 8).filter fun t => (w.thread p t).st == .sleeping (.tally slot)

/-- TALLY_COMPUTE. Of threads that wait on one slot the lowest goes first (DESIGN CHOICE, log entry 106). -/
def tallyCompute (p slot : Nat) (w : Work) : Work :=
  match w.tallying p slot with
  | [] => w
  | t :: _ => if slotChanged (w.core p) slot then w.resumeTally p t else w

/-- CHAIN_MERGE: the record whose predecessors have all merged (R146, R148, R150). -/
def chainMerge (p chain : Nat) (w : Work) : Work :=
  let ch := (w.core p).plinth.chain chain
  match ch.waiting.find? fun o => o.ordinal == ch.merged with
  | none => w
  | some o =>
    if !ch.isOpen then w
    else
      let merged := if ch.merged = 0 then o.rows.map fun r => (r, Flags.none)
        else (ch.acc.zip o.rows).map fun ab => mergeRow ab.1 ab.2
      let last := ch.merged + 1 == ch.total
      let fl := merged.foldl (fun a r => Flags.or a r.2) Flags.none
      let upd := fun (s : PlinthState) =>
        let s := s.setChain chain { ch with
          merged := ch.merged + 1, isOpen := !last, acc := merged.map Prod.fst,
          waiting := ch.waiting.filter (fun x => x.ordinal != o.ordinal), held := (if last then [] else ch.held) }
        if last then ch.held.foldl (fun (s : PlinthState) i =>
          let sl := s.slot i
          if sl.st == .held then s.setSlot i { sl with st := .done } else s) s
        else s
      (w.modCore p fun k => { (k.recordFlags fl) with plinth := upd k.plinth }).stallCheck p

/-- XCHAIN (R143). -/
def xchainOp (p t : Nat) (_c : Ctx) (word _len : Nat) (w : Work) : Res :=
  let x := xFields word
  let th := w.thread p t
  let a := th.reg x.rs1
  let b := (th.reg x.rs2).toNat
  if 4 ≤ a.toNat || b = 0 || 256 < b then .illegal
  else
    let ch := (w.core p).plinth.chain a.toNat
    if ch.isOpen then .fail 0x1034 0
    else (w.modCore p fun k => { k with
      plinth := k.plinth.setChain a.toNat ⟨b, 0, true, [], [], [], []⟩ }).done p t

/-- XREL: RELEASE of a slot (R139). The registers R211 marks with a dash are not looked at (log entry 103). -/
def xrelOp (p t : Nat) (_c : Ctx) (word _len : Nat) (w : Work) : Res :=
  let a := ((w.thread p t).reg (xFields word).rs1).toNat
  if 16 ≤ a then .illegal
  else match ((w.core p).plinth.slot a).st with
    | .accum => .fail 0x1034 0
    | .held => .fail 0x1034 0
    | .free => w.done p t
    | _ => (w.modCore p fun k => { k with plinth := { k.plinth.setSlot a TileSlot.init with
        tags := tabKeep (fun key => key / 4096 != a) k.plinth.tags } }).done p t

/-- A tile record as three PSUM32 tile rows (R152): (offset, bytes), and the poisoned offsets. -/
def recordWords (r : List StatRow) : List (Nat × Byte) × List Nat :=
  let put := fun (o : Nat) (f : StatRow → Nat) => r.zipIdx.flatMap fun (x, i) => runFrom (o + 4 * i) (leBytes 4 (f x))
  (put 0 (fun x => toTwos 32 x.n) ++ put 256 (fun x => x.mean.toNat) ++ put 512 (fun x => x.m2.toNat),
   r.zipIdx.flatMap fun (x, i) => if x.poison then [4 * i, 256 + 4 * i, 512 + 4 * i] else [])

/-- XSTOUT: waits for a TALLY of the slot in progress (R152). The record is looked for before the lines are judged (DESIGN CHOICE,
log entry 106). -/
def xstoutOp (p t : Nat) (c : Ctx) (word _len : Nat) (w : Work) : Res :=
  let x := xFields word
  let th := w.thread p t
  let a := (th.reg x.rs1).toNat
  let l := (th.reg x.rs2).toNat
  if 16 ≤ a || 8192 ≤ l then .illegal
  else if !(w.tallying p a).isEmpty then .sleep (.slot a)
  else match ((w.core p).plinth.slot a).record with
    | [] => .fail 0x1034 0
    | r =>
      if 8192 < l + 12 || !c.img.declared l 12 then .access
      else
        let o := recordWords r
        (w.mwrite p 1 (o.1.map fun b => (64 * l + b.1, b.2)) (o.2.map fun b => 64 * l + b)).done p t

/-- XSTIN (R143, R149, R152). -/
def xstinOp (p t : Nat) (c : Ctx) (word _len : Nat) (w : Work) : Res :=
  let x := xFields word
  let th := w.thread p t
  let l := (th.reg x.rs1).toNat
  let b := th.reg x.rs2
  let chain := fld b 0 2
  let ord := fld b 8 8
  if 8192 ≤ l || fld b 16 16 ≠ 0 || fld b 2 6 ≠ 0 then .illegal
  else if !((w.core p).plinth.chain chain).takes ord then .fail 0x1034 0
  else if 8192 < l + 12 || !c.img.declared l 12 then .access
  else
    let rd := fun o => leNat (w.mreadN p 1 (64 * l + o) 4)
    let pz := fun o => w.mpoisonN p 1 (64 * l + o) 4
    let rows := (List.range 64).map fun i =>
      (⟨signExt 32 (rd (4 * i)), w32 (rd (256 + 4 * i)), w32 (rd (512 + 4 * i)),
        pz (4 * i) || pz (256 + 4 * i) || pz (512 + 4 * i)⟩ : StatRow)
    let upd := fun (s : PlinthState) =>
      let ch := s.chain chain
      s.setChain chain { ch with offered := ch.offered ++ [ord], waiting := ch.waiting ++ [⟨ord, rows⟩] }
    (w.modCore p fun k => { k with plinth := upd k.plinth }).done p t

/-- XSTRD (R148, R211): mean to vd and variance to vd + 1, all 64 lanes; a NaN mean is delivered canonical (R61). -/
def xstrdOp (p t : Nat) (_c : Ctx) (word _len : Nat) (w : Work) : Res :=
  let x := xFields word
  let a := ((w.thread p t).reg x.rs1).toNat
  if 4 ≤ a || x.rd % 2 ≠ 0 then .illegal
  else
    let ch := (w.core p).plinth.chain a
    if ch.total = 0 then .fail 0x1034 0
    else if ch.isOpen then .sleep (.chain a)
    else
      let rows := ch.acc.map fun r => (if (f32v r.mean).isNan then { r with mean := nan32 } else r, f32DivInt r.m2 r.n)
      let fl := rows.foldl (fun f r => Flags.or f r.2.2) Flags.none
      (w.modCore p fun k => { (k.recordFlags fl) with
        vec := rows.zipIdx.foldl (fun (v : VecState) (r, i) =>
          (v.setLane x.rd i r.1.mean r.1.poison).setLane (x.rd + 1) i r.2.1 r.1.poison) k.vec }).done p t

/-- XMMA (R211). -/
def execXmma (core thread : Nat) (s : State) : Host.Outcome State Fault Refusal :=
  run (instr .xmma core thread (xmmaOp core thread)) s
/-- XREL (R211). -/
def execXrel (core thread : Nat) (s : State) : Host.Outcome State Fault Refusal :=
  run (instr .xrel core thread (xrelOp core thread)) s
/-- XCHAIN (R211). -/
def execXchain (core thread : Nat) (s : State) : Host.Outcome State Fault Refusal :=
  run (instr .xchain core thread (xchainOp core thread)) s
/-- XTALLY (R211). -/
def execXtally (core thread : Nat) (s : State) : Host.Outcome State Fault Refusal :=
  run (instr .xtally core thread (xtallyOp core thread)) s
/-- XSTOUT (R211). -/
def execXstout (core thread : Nat) (s : State) : Host.Outcome State Fault Refusal :=
  run (instr .xstout core thread (xstoutOp core thread)) s
/-- XSTIN (R211). -/
def execXstin (core thread : Nat) (s : State) : Host.Outcome State Fault Refusal :=
  run (instr .xstin core thread (xstinOp core thread)) s
/-- XSTRD (R211). -/
def execXstrd (core thread : Nat) (s : State) : Host.Outcome State Fault Refusal :=
  run (instr .xstrd core thread (xstrdOp core thread)) s
/-- MMA_COMPUTE_START (R769). -/
def execMmaComputeStart (core : Nat) (s : State) : Host.Outcome State Fault Refusal := run (mmaComputeStart core) s
/-- MMA_DRAIN_DONE (R124). -/
def execMmaDrainDone (core : Nat) (s : State) : Host.Outcome State Fault Refusal := run (mmaDrainDone core) s
/-- TALLY_COMPUTE (R145). -/
def execTallyCompute (core slot : Nat) (s : State) : Host.Outcome State Fault Refusal := run (tallyCompute core slot) s
/-- CHAIN_MERGE (R146). -/
def execChainMerge (core chain : Nat) (s : State) : Host.Outcome State Fault Refusal := run (chainMerge core chain) s

end Sys2Proof.Machine
end

