-- ==== Sys2Proof/Machine/Threads.lean ====
section
/-! DEFINITION. Thread, counter and fence instructions (R213, R174 to R177, R770), waking, and the end of a step on a core
(R175, R141). -/

-- Declarations are elaborated one after another: side by side, each would hold a thread and its stack.
set_option Elab.async false

namespace Sys2Proof.Machine

/-- XSETVL. -/
def xsetvlOp (p t : Nat) (_c : Ctx) (word _len : Nat) (w : Work) : Res :=
  let x := xFields word
  let n := min ((w.thread p t).reg x.rs1).toNat 64
  (w.modThread p t fun th => { th with vl := n }.setReg x.rd (w32 n)).done p t

/-- The arrival counters of a core (R352). -/
def Core.counter (k : Core) (c : Nat) : W32 := tabGet 0 k.land.ctrs c
def Core.setCounter (k : Core) (c : Nat) (v : W32) : Core :=
  { k with land := { k.land with ctrs := tabSet 0 k.land.ctrs c v } }

/-- XWAIT. -/
def xwaitOp (p t : Nat) (_c : Ctx) (word _len : Nat) (w : Work) : Res :=
  let x := xFields word
  let th := w.thread p t
  let c := fld (th.reg x.rs1) 0 5
  let target := (th.reg x.rs2).toNat
  if target ≤ ((w.core p).counter c).toNat then w.done p t else .sleep (.counter c target)

/-- XCNT. -/
def xcntOp (p t : Nat) (_c : Ctx) (word _len : Nat) (w : Work) : Res :=
  let x := xFields word
  let c := fld ((w.thread p t).reg x.rs1) 0 5
  (w.modThread p t fun th => th.setReg x.rd ((w.core p).counter c)).done p t

/-- XSTART (R174): an ended thread starts with its registers and CSRs as R173 gives; its timebase latch, which R173 does not name,
stays. -/
def xstartOp (p t : Nat) (_c : Ctx) (word _len : Nat) (w : Work) : Res :=
  let x := xFields word
  let th := w.thread p t
  let n := fld (th.reg x.rs1) 0 3
  let pc := (th.reg x.rs2).toNat
  if (w.thread p n).st != .ended then .fail 0x103B 0
  else (w.modThread p n fun th => { Thread.init with pc := pc, st := .running, digest := th.digest, tbHi := th.tbHi }).done p t

/-- XEND. -/
def xendOp (p t : Nat) (_c : Ctx) (_word _len : Nat) (w : Work) : Res :=
  (w.modThread p t fun th => { th with st := .ended }).done p t

/-- XJOIN. -/
def xjoinOp (p t : Nat) (_c : Ctx) (word _len : Nat) (w : Work) : Res :=
  let mask := fld ((w.thread p t).reg (xFields word).rs1) 0 8
  if w.awake p t (.threads mask) then w.done p t else .sleep (.threads mask)

/-- XFENCE: the gather buffer drains (R343); the thread waits for what it issued (R770). -/
def xfenceOp (p t : Nat) (_c : Ctx) (_word _len : Nat) (w : Work) : Res :=
  let w' := w.modCore p fun k => { k with gather := [] }
  if w.fenceClear p t then w'.done p t
  else .go (w'.modThread p t fun th => { th with st := .sleeping .fence }) (w.thread p t).pc

/-- XCSET. -/
def xcsetOp (p t : Nat) (_c : Ctx) (word _len : Nat) (w : Work) : Res :=
  let x := xFields word
  let th := w.thread p t
  (w.modCore p fun k => k.setCounter (fld (th.reg x.rs1) 0 5) (th.reg x.rs2)).done p t

/-- XWAIT_LIMIT (R177). -/
def xwaitLimit (p t : Nat) (w : Work) : Work :=
  match w.stillWaits p t with
  | some (.counter _ _) => w.failCore p 0x103A
  | _ => w

/-- Has every command of a core's threads completed (R175)? -/
def Work.coreQuiet (w : Work) (p : Nat) : Bool :=
  let k := w.core p
  k.queue.isEmpty && k.mmas.isEmpty && (List.range 8).all fun t => w.fenceClear p t

/-- CORE_STEP_END (R175, R141, R119, R357): the plinth's slots return to FREE, chains are discarded, windows close, the
gather buffer drains, a pending trim applies (R42, R465); the core stays with its step until the step ends. -/
def coreStepEnd (p : Nat) (w : Work) : Work :=
  match w.ctxOf p with
  | none => w
  | some c =>
    if c.e.ph != .run || !c.cur.begun || c.cur.ended || !(w.liveThreads p).isEmpty || !w.coreQuiet p then w
    else
      let s := (w.core p).plinth
      if s.chains.any (fun kv => kv.2.isOpen) || s.slots.any (fun kv => kv.2.st == .accum) then w.failCore p 0x1034
      else (w.modCore p fun k => { k with
        gather := [], plinth := { k.plinth with slots := [], tags := [], chains := [] },
        land := { k.land with opens := [] }, cur := some { c.cur with ended := true } }).applyTrim p

/-- GATHER_DRAIN (R343): an entry drains; its bytes stand in the store already (R345). -/
def gatherDrain (p line : Nat) (w : Work) : Work :=
  w.modCore p fun k => { k with gather := k.gather.filter fun e => e.line != line }

/-- XSETVL (R213). -/
def execXsetvl (core thread : Nat) (s : State) : Host.Outcome State Fault Refusal :=
  run (instr .xsetvl core thread (xsetvlOp core thread)) s
/-- XWAIT (R213). -/
def execXwait (core thread : Nat) (s : State) : Host.Outcome State Fault Refusal :=
  run (instr .xwait core thread (xwaitOp core thread)) s
/-- XCNT (R213). -/
def execXcnt (core thread : Nat) (s : State) : Host.Outcome State Fault Refusal :=
  run (instr .xcnt core thread (xcntOp core thread)) s
/-- XSTART (R213). -/
def execXstart (core thread : Nat) (s : State) : Host.Outcome State Fault Refusal :=
  run (instr .xstart core thread (xstartOp core thread)) s
/-- XEND (R213). -/
def execXend (core thread : Nat) (s : State) : Host.Outcome State Fault Refusal :=
  run (instr .xend core thread (xendOp core thread)) s
/-- XJOIN (R213). -/
def execXjoin (core thread : Nat) (s : State) : Host.Outcome State Fault Refusal :=
  run (instr .xjoin core thread (xjoinOp core thread)) s
/-- XFENCE (R213). -/
def execXfence (core thread : Nat) (s : State) : Host.Outcome State Fault Refusal :=
  run (instr .xfence core thread (xfenceOp core thread)) s
/-- XCSET (R213). -/
def execXcset (core thread : Nat) (s : State) : Host.Outcome State Fault Refusal :=
  run (instr .xcset core thread (xcsetOp core thread)) s
/-- XWAIT_LIMIT (R177). -/
def execXwaitLimit (core thread : Nat) (s : State) : Host.Outcome State Fault Refusal := run (xwaitLimit core thread) s
/-- CORE_STEP_END (R175). -/
def execCoreStepEnd (core : Nat) (s : State) : Host.Outcome State Fault Refusal := run (coreStepEnd core) s
/-- GATHER_DRAIN (R343). -/
def execGatherDrain (core line : Nat) (s : State) : Host.Outcome State Fault Refusal := run (gatherDrain core line) s

end Sys2Proof.Machine
end

