-- ==== Sys2Proof/Machine/Pointing.lean ====
section
/-! DEFINITION. Pointing commands (09 R388 to R414): their form, the streams they open, request formation, the lines a stream lands;
the core-local commands RFREE, WOPEN, WCLOSE (R350, R357); waking (R163). Compressed records and landing: Inputs. -/

-- Declarations are elaborated one after another: side by side, each would hold a thread and its stack.
set_option Elab.async false

namespace Sys2Proof.Machine

-- The commands (R390 to R394) ----------------------------------------------------------------------------------------------

/-- Only the bits of the masks, word by word, are set. -/
def onlyFields (b : List Byte) (masks : List Nat) : Bool :=
  masks.zipIdx.all fun (m, i) => word32 b (4 * i) &&& (0xFFFFFFFF - m) == 0

/-- The OP of a pointing command (R391). -/
def ptOpc (b : List Byte) : Nat := bitsOf (word32 b 0) 28 4
def ptPort (b : List Byte) : Nat := bitsOf (word32 b 0) 25 3

def fetchMasks : List Nat :=
  [0xFFFFFFC0, 0x00FFFFFF, 0xFFFFFFFF, 0xFFFFFFFF, 0x00FFFFFF, 0xFFFFFFFF, 0xFFFF01FF, 0]
def storeMasks : List Nat := [0xFF8003C0, 0x00FFFFFF, 0xFFFFFFFF, 0xFFFFFFFF, 0x00FFFFFF, 0x0000FFFF, 0x1FFF, 0]
def stageMasks : List Nat := [0xF0000000, 0x1FFF, 0x7FFF, 0x3FFF, 0, 0, 0, 0]
def rfreeMasks : List Nat := [0xF000F000, 0x3FFF, 0, 0, 0, 0, 0, 0]
def windowMasks : List Nat := [0xF000001F, 0, 0, 0, 0, 0, 0, 0]

/-- The fields of a FETCH or STORE (R392, R393). -/
def ptCmdOf (isStore : Bool) (b : List Byte) : PtCmd :=
  let w0 := word32 b 0
  { isStore := isStore, isrc := bitsOf w0 23 2, lay := bitOf w0 22, cmp := bitsOf w0 20 2, cache := bitOf w0 19,
    ew := bitsOf w0 16 3, reg := bitsOf w0 12 4, dest := bitsOf w0 10 2, ibuf := bitsOf w0 8 2, dbuf := bitsOf w0 6 2,
    nrec := bitsOf (word32 b 4) 0 24, ioff := word32 b 8, doff := word32 b 12, stride := bitsOf (word32 b 16) 0 24,
    clen := bitsOf (word32 b 20) 16 16, rlen := bitsOf (word32 b 20) 0 16, cbeats := bitsOf (word32 b 24) 16 16,
    tsz := bitsOf (word32 b 24) 0 9, sline := bitsOf (word32 b 24) 0 13 }

def PtCmd.width (x : PtCmd) : Nat := fmtWidth x.ew
/-- Lines of a record in linear layout (R401) and of a position in operand layout (R402, R108). -/
def PtCmd.lpr (x : PtCmd) : Nat := ceilDiv x.rlen 64
def PtCmd.lpp (x : PtCmd) : Nat := if x.width = 2 then 2 else 1
/-- TLINES (R401, R402). -/
def PtCmd.tlines (x : PtCmd) : Nat := x.tsz * (if x.lay then x.lpp else x.lpr)
def PtCmd.rowTiles (x : PtCmd) : Nat := ceilDiv x.nrec 64
/-- P of R406. -/
def PtCmd.passBytes (x : PtCmd) : Nat := if x.rowTiles ≤ 1 then 256 else if x.rowTiles = 2 then 128 else 64
def PtCmd.positions (x : PtCmd) : Nat := x.rlen / x.width
def PtCmd.passCount (x : PtCmd) : Nat := ceilDiv x.rlen x.passBytes
/-- Lines the stream lands. -/
def PtCmd.total (x : PtCmd) : Nat := if x.lay then x.positions * x.rowTiles * x.lpp else x.nrec * x.lpr
/-- Items fed to request formation: records, or records pass by pass. -/
def PtCmd.items (x : PtCmd) : Nat := if x.lay then x.nrec * x.passCount else x.nrec

def Region.init : Region := ⟨0, false, 0, 0, 0⟩
def SlotImg.region (img : SlotImg) (r : Nat) : Region := nth Region.init img.regions r

/-- R403. -/
def PtCmd.regionOk (x : PtCmd) (img : SlotImg) : Bool :=
  let r := img.region x.reg
  r.valid && r.len == 4 * x.tlines && (!x.lay || r.mem == 0)

/-- The positions of every tile lie in at most two passes (R394, R406). -/
def PtCmd.tilesOk (x : PtCmd) : Bool :=
  x.rowTiles < 2 || (List.range (x.positions / x.tsz)).all fun g =>
    decide ((((g + 1) * x.tsz - 1) * x.width) / x.passBytes ≤ (g * x.tsz * x.width) / x.passBytes + 1)

/-- R394 for a FETCH. -/
def fetchFormatOk (c : Ctx) (b : List Byte) (x : PtCmd) : Bool :=
  onlyFields b fetchMasks && x.cmp != 3 && x.dest != 3 && decide (x.ew ≤ 4) && decide (x.tsz ≤ 256) && x.tsz != 0 &&
  x.nrec != 0 && x.rlen != 0 &&
  (x.cmp == 0 || (!x.lay && x.dest == 0)) && (!x.lay || (x.dest != 2 && decide (x.nrec ≤ 256))) &&
  (!x.lay || (x.rlen % x.width == 0 && x.positions % x.tsz == 0)) &&
  (x.isrc != 2 || dOpc c.e.desc == 1) && (!x.cache || (x.cmp != 0 && c.img.cacheOk)) &&
  (if x.cmp = 0 then x.clen == 0 else x.clen != 0) &&
  (if x.dest = 2 then true else if x.dest = 1 then c.m.slots.all x.regionOk else x.regionOk c.img) &&
  (!x.lay || x.tilesOk)

/-- R394 for a STORE. -/
def storeFormatOk (c : Ctx) (b : List Byte) (x : PtCmd) : Bool :=
  onlyFields b storeMasks && x.nrec != 0 && x.rlen != 0 && (x.isrc != 2 || dOpc c.e.desc == 1)

/-- R396: the index range, a STORE's source lines, and no use of an unused buffer reference (R504). -/
def PtCmd.rangeOk (x : PtCmd) (desc : List Byte) : Bool :=
  (dBuf desc x.dbuf).2 != 0 &&
  (if x.isrc = 0 then decide (x.ioff + 4 * x.nrec ≤ (dBuf desc x.ibuf).2)
   else if x.isrc = 1 then decide (x.ioff + 4 * x.nrec ≤ 524288) else true) &&
  (!x.isStore || decide (x.sline + x.nrec * x.lpr ≤ 8192))

/-- R351 for index reads and STORE source lines. -/
def PtCmd.declaredOk (x : PtCmd) (img : SlotImg) : Bool :=
  (x.isrc != 1 || img.declared (x.ioff / 64) ((x.ioff + 4 * x.nrec - 1) / 64 - x.ioff / 64 + 1)) &&
  (!x.isStore || img.declared x.sline (x.nrec * x.lpr))

-- Streams ----------------------------------------------------------------------------------------------------------------------

/-- Index words known as the command issues: those of the activation store (R397), or the lanes' stream ids. -/
def Work.indexWords (w : Work) (p : Nat) (c : Ctx) (x : PtCmd) : List (Nat × Bool) :=
  if x.isrc = 1 then (List.range x.nrec).map fun r =>
    (leNat (w.mreadN p 1 (x.ioff + 4 * r) 4), w.mpoisonN p 1 (x.ioff + 4 * r) 4)
  else if x.isrc = 2 then c.e.lanes.map fun l => (l.stream, false)
  else []

/-- Poisoned offsets in a run of bytes of a core memory. -/
def Work.poisonOffs (w : Work) (p mem off n : Nat) : List Nat := (List.range n).filter fun i => w.mpoison p mem (off + i)

/-- The records a STORE reads (R412). -/
def Work.storeRecords (w : Work) (p : Nat) (x : PtCmd) : List (List Byte × List Nat) :=
  (List.range x.nrec).map fun r =>
    let off := 64 * (x.sline + r * x.lpr)
    (w.mreadN p 1 off x.rlen, w.poisonOffs p 1 off x.rlen)

/-- The lowest free stream slot of an engine (R388, R395). -/
def Work.freeStream (w : Work) (port : Nat) : Option Nat :=
  lowest 256 fun k => !(w.d.pt.streams.any fun s => s.port == port && s.slot == k)

/-- Opens a stream in a slot; the slot's epoch increments as the slot is reused (R425). -/
def Work.openStream (w : Work) (p t : Nat) (c : Ctx) (port slot : Nat) (x : PtCmd) (idxs : List (Nat × Bool))
    (src : List (List Byte × List Nat)) : Work :=
  let key := 256 * port + slot
  let ep := tabGet 0 w.d.pt.epochs key
  let s : PtStream :=
    { port := port, slot := slot, epoch := ep, order := w.d.pt.order, core := p, thread := t, ring := c.cur.ring,
      seq := c.cur.seq, lslot := c.cur.slot, checker := c.cur.checker, cmd := x, idxs := idxs, idxReq := 0, fed := 0,
      lineQ := [], got := [], landed := 0, passes := 0, bad := [], dec := none, paid := false, src := src, carry := [] }
  w.mod fun d => { d with pt := { d.pt with
    streams := d.pt.streams ++ [s], order := d.pt.order + 1, epochs := tabSet 0 d.pt.epochs key ((ep + 1) % 16) } }

/-- The bytes and poison a STORE carries, folded as 32-bit words each followed by its poison (R597). -/
def foldStore (d : Nat) (src : List (List Byte × List Nat)) : Nat :=
  src.foldl (fun d r => (List.range (ceilDiv r.1.length 4)).foldl (fun d i =>
    foldElem d (w32 (word32 r.1 (4 * i))) (r.2.any fun o => o / 4 == i)) d) d

/-- FETCH. One for the sprue chain also waits for room at the injection point (R418; log entry 107). -/
def fetchOp (p t : Nat) (c : Ctx) (b : List Byte) (w : Work) : Res :=
  let x := ptCmdOf false b
  if ptOpc b ≠ 2 || !fetchFormatOk c b x then .fail 0x1064 0
  else if !x.rangeOk c.e.desc then .fail 0x1065 0
  else if !x.declaredOk c.img then .access
  else if x.dest ≠ 0 && !w.chainRoom then .sleep (.engine (ptPort b) b)
  else match w.freeStream (ptPort b) with
    | none => .sleep (.engine (ptPort b) b)
    | some k => (w.openStream p t c (ptPort b) k x (w.indexWords p c x) []).done p t

/-- STORE; the checker copy only folds (R596, R597). -/
def storeOp' (p t : Nat) (c : Ctx) (b : List Byte) (w : Work) : Res :=
  let x := ptCmdOf true b
  if !storeFormatOk c b x then .fail 0x1064 0
  else if !x.rangeOk c.e.desc then .fail 0x1065 0
  else if !x.declaredOk c.img then .access
  else
    let src := w.storeRecords p x
    let fold := fun (w : Work) => w.modThread p t fun th => { th with digest := foldStore th.digest src }
    if c.cur.checker then (fold w).done p t
    else match w.freeStream (ptPort b) with
      | none => .sleep (.engine (ptPort b) b)
      | some k => (fold (w.openStream p t c (ptPort b) k x (w.indexWords p c x) src)).done p t

/-- STAGE (R414): lines of the activation store and their poison into the weight store. -/
def stageOp (p t : Nat) (c : Ctx) (b : List Byte) (w : Work) : Res :=
  let s := bitsOf (word32 b 4) 0 13
  let d := bitsOf (word32 b 8) 0 15
  let n := bitsOf (word32 b 12) 0 14
  if !onlyFields b stageMasks || n = 0 || 8192 < n then .fail 0x1064 0
  else if 8192 < s + n || 20480 < d + n then .fail 0x1065 0
  else if !c.img.declared s n then .access
  else
    let bytes := w.mreadN p 1 (64 * s) (64 * n)
    let pois := (w.poisonOffs p 1 (64 * s) (64 * n)).map (64 * d + ·)
    (w.mwrite p 0 (runFrom (64 * d) bytes) pois).done p t

/-- RFREE (R350). -/
def rfreeOp (p t : Nat) (c : Ctx) (b : List Byte) (w : Work) : Res :=
  let r := bitsOf (word32 b 0) 12 4
  let n := bitsOf (word32 b 4) 0 14
  let k := w.core p
  let tail := tabGet 0 k.land.tails r + n
  if !onlyFields b rfreeMasks then .fail 0x1064 0
  else if !(c.img.region r).valid || tabGet 0 k.land.heads r < tail then .fail 0x103E 0
  else (w.modCore p fun k => { k with land := { k.land with tails := tabSet 0 k.land.tails r tail } }).done p t

/-- WOPEN and WCLOSE (R357). -/
def windowOp (isOpen : Bool) (p t : Nat) (c : Ctx) (b : List Byte) (w : Work) : Res :=
  let n := bitsOf (word32 b 0) 0 5
  if !onlyFields b windowMasks then .fail 0x1064 0
  else if !(nth Window.init c.img.windows n).valid then .fail 0x103C 0
  else (w.modCore p fun k => { k with land := { k.land with opens := tabSet false k.land.opens n isOpen } }).done p t

/-- The pointing command an XPT at a thread's pc names: none where it is no XPT; no bytes where they cannot be read (R390). -/
def Work.xptBytes (w : Work) (p t : Nat) : Option (Option (List Byte)) :=
  match w.current p t with
  | some (c, some (word, 4)) =>
    if rowOf word = .xpt then
      let a := ((w.thread p t).reg (xFields word).rs1).toNat
      some (if a % 32 = 0 then dmem c.img (w.core p).scratch a 32 else none)
    else none
  | _ => none

/-- Runs the XPT at a thread's pc if its OP is one of the row's. -/
def xptInstr (sel : Option Nat → Bool) (p t : Nat) (f : Ctx → List Byte → Work → Res) (w : Work) : Work :=
  match w.xptBytes p t with
  | some b =>
    if sel (b.map ptOpc) then
      instr .xpt p t (fun c _ _ w => match b with
        | none => .access
        | some b => f c b w) w
    else w
  | none => w

/-- FETCH takes the commands that name no other row: an unreadable one and a reserved OP (R390, R391, R394). -/
def isFetchOp : Option Nat → Bool
  | none => true
  | some o => !([3, 4, 6, 7, 8].any (· == o))

/-- THREAD_WAKE (R163): what a thread waits for has come about. XWAIT, XJOIN and XFENCE are then complete; a TALLY goes on;
an XMMA or XPT issues the command it read before (R212, R390); any other instruction is executed again. -/
def threadWake (p t : Nat) (w : Work) : Work :=
  match w.ctxOf p, (w.thread p t).st with
  | some c, .sleeping why =>
    if c.e.ph != .run || !w.awake p t why then w
    else
      let next := w.modThread p t fun th => { th with pc := th.pc + 4, st := .running }
      match why with
      | .tally _ => w.resumeTally p t
      | .counter _ _ => next
      | .threads _ => next
      | .fence => next
      | .queue b => let w := w.modThread p t fun th => { th with st := .running }; w.apply p t (xmmaCmd p t c b w)
      | .engine _ b =>
        let w := w.modThread p t fun th => { th with st := .running }
        w.apply p t (if ptOpc b = 3 then storeOp' p t c b w else fetchOp p t c b w)
      | _ => w.modThread p t fun th => { th with st := .running }
  | _, _ => w

-- Indexes and records (R397 to R399) -------------------------------------------------------------------------------------------

/-- Lines received are filed under a tag and their host line number. -/
def gotKey (tag line : Nat) : Nat := tag * 2 ^ 42 + line
/-- The tag of index lines. -/
def idxTag : Nat := 2 ^ 24
def PtStream.lineOf (x : PtStream) (tag l : Nat) : Option (List Byte × Bool) :=
  match tabGet ([], false) x.got (gotKey tag l) with
  | ([], _) => none
  | r => some r

/-- Bytes at host address `a` from the lines filed under a tag, with the poison of each; none while a line is missing. -/
def PtStream.bytesAt (x : PtStream) (tag a n : Nat) : Option (List Byte × List Nat) :=
  if n = 0 then some ([], [])
  else
    let ls := (List.range ((a + n - 1) / 64 - a / 64 + 1)).map fun i => x.lineOf tag (a / 64 + i)
    if ls.any Option.isNone then none
    else
      let at_ := fun i => (nth none ls ((a + i) / 64 - a / 64)).getD ([], false)
      some ((List.range n).map fun i => nth 0 (at_ i).1 ((a + i) % 64), (List.range n).filter fun i => (at_ i).2)

/-- Index r of a stream and its poison, once known (R397). -/
def PtStream.index (x : PtStream) (desc : List Byte) (r : Nat) : Option (Nat × Bool) :=
  if x.cmd.isrc = 0 then
    (x.bytesAt idxTag ((dBuf desc x.cmd.ibuf).1 + x.cmd.ioff + 4 * r) 4).map fun b => (leNat b.1, !b.2.isEmpty)
  else if x.cmd.isrc = 1 then x.idxs[r]?
  else if x.cmd.isrc = 2 then x.idxs[r % max 1 x.idxs.length]?
  else some (r, false)

/-- Where a record stands. -/
inductive RecAt where
  | unknown | poisoned | outside | addr (a : Nat)
  deriving DecidableEq, Repr

def PtStream.record (x : PtStream) (desc : List Byte) (r : Nat) : RecAt :=
  match x.index desc r with
  | none => .unknown
  | some (_, true) => .poisoned
  | some (i, false) =>
    let buf := dBuf desc x.cmd.dbuf
    let off := x.cmd.doff + i * x.cmd.stride
    let n := if x.cmd.cmp = 0 then x.cmd.rlen else x.cmd.clen * 64
    if off + n ≤ buf.2 then .addr (buf.1 + off) else .outside

-- Receivers and turns (R349, R403, R404, R416 to R418) ----------------------------------------------------------------------------

/-- The cores and region entries a FETCH lands in. -/
def PtStream.receivers (x : PtStream) (e : Exec) (m : Model) : List (Nat × Region) :=
  if x.cmd.dest = 0 then [(x.core, (nth SlotImg.init m.slots x.lslot).region x.cmd.reg)]
  else if x.cmd.dest = 1 then
    m.slots.zipIdx.map fun (img, s) => (nth 0 (if x.checker then e.checker else e.cores) s, img.region x.cmd.reg)
  else []

/-- Must stream y land before x may (R349, R418)? -/
def PtStream.before (y x : PtStream) : Bool :=
  !y.cmd.isStore && decide (y.order < x.order) &&
  ((y.cmd.dest != 0 && x.cmd.dest != 0) ||
   (y.ring == x.ring && y.seq == x.seq && y.checker == x.checker && y.cmd.dest != 2 && x.cmd.dest != 2 &&
     y.cmd.reg == x.cmd.reg && (y.cmd.dest == 1 || x.cmd.dest == 1 || y.core == x.core)))

def Work.ptTurn (w : Work) (x : PtStream) : Bool := !(w.d.pt.streams.any fun y => y.before x)

/-- The last line that pass q supplies bytes for (R406). -/
def PtCmd.lastLineOf (x : PtCmd) (q : Nat) : Nat :=
  let pos := min x.positions ((q + 1) * x.passBytes / x.width) - 1
  ((pos / x.tsz * x.rowTiles + (x.rowTiles - 1)) * x.tsz + pos % x.tsz) * x.lpp + x.lpp - 1

/-- Does the tile that pass q ends in need the next pass as well before it can be emitted whole (R406)? -/
def PtCmd.spans (x : PtCmd) (q : Nat) : Bool :=
  let pos := (q + 1) * x.passBytes / x.width
  decide (1 < x.rowTiles) && decide (pos < x.positions) && pos % x.tsz != 0

/-- Pass buffers a stream holds: passes asked for and not emitted to their last line (R406). -/
def PtStream.passesHeld (x : PtStream) : Nat :=
  countOf (ceilDiv x.fed x.cmd.nrec) fun q => !decide (x.cmd.lastLineOf q < x.landed)

/-- Of the two pass buffers of an engine, those a stream holds and the one it will need for the tile it is in (R406). -/
def PtStream.passClaim (x : PtStream) : Nat :=
  let n := x.passesHeld
  if !x.cmd.lay || n = 0 then 0 else min 2 (n + b2n (x.cmd.spans (ceilDiv x.fed x.cmd.nrec - 1)))

/-- May a stream ask for its next pass: is a buffer free that no other stream of the engine needs to end its tile (R406)? -/
def Work.passFree (w : Work) (x : PtStream) : Bool :=
  let others := w.d.pt.streams.filter fun y => y.port == x.port && y.slot != x.slot
  let n := x.passesHeld + 1
  decide (n ≤ 2) &&
    decide ((others.map PtStream.passClaim).sum + min 2 (n + b2n (x.cmd.spans (x.fed / x.cmd.nrec))) ≤ 2)

/-- Has the step of a stream begun on a core (R365)? -/
def Work.onStep (w : Work) (x : PtStream) (p : Nat) : Bool :=
  (w.core p).cur.any fun c => c.begun && c.ring == x.ring && c.seq == x.seq

/-- May the next item of a stream be fed to request formation (R36, R404, R406, R417)? -/
def Work.mayFeed (w : Work) (e : Exec) (m : Model) (x : PtStream) : Bool :=
  let c := x.cmd
  if c.isStore then true
  else if !w.ptTurn x then false
  else if c.lay then x.fed % c.nrec != 0 || w.passFree x
  else if c.dest = 2 then decide (x.fed * c.lpr / c.tlines < x.landed / c.tlines + 4)
  else (c.cmp == 0 || x.fed * c.lpr == x.landed) && (x.receivers e m).all fun (p, r) =>
    let l := (w.core p).land
    w.onStep x p &&
      decide ((x.fed + 1) * c.lpr - x.landed + tabGet 0 l.heads c.reg ≤ r.len + tabGet 0 l.tails c.reg)

/-- Host lines a byte range touches. -/
def linesOf (a n : Nat) : List Nat :=
  if n = 0 then [] else (List.range ((a + n - 1) / 64 - a / 64 + 1)).map (a / 64 + ·)

/-- A line that the request issued last has fetched or is fetching is filed under another record's tag too (R407). -/
def Work.shareLine (w : Work) (x : PtStream) (tag l : Nat) : Work × PtStream :=
  match x.carry.find? fun k => k.2 == l with
  | none => (w, { x with lineQ := x.lineQ ++ [(tag, l)] })
  | some (t, _) =>
    match tabGet ([], false) x.got (gotKey t l) with
    | ([], _) =>
      let add := fun (q : PortReq) =>
        if q.user = .stream x.port x.slot x.epoch && q.ents.any (· == gotKey t l) then { q with ents := q.ents ++ [gotKey tag l] }
        else q
      (w.mod fun d => { d with ports := { d.ports with cands := d.ports.cands.map add, out := d.ports.out.map add } }, x)
    | v => (w, { x with got := tabSet ([], false) x.got (gotKey tag l) v })

/-- Lines of a record enter request formation: those that the request issued last covers are shared with it, the rest are asked for
(R407). -/
def Work.addLines (w : Work) (x : PtStream) (tag : Nat) (ls : List Nat) : Work × PtStream :=
  let waiting := x.lineQ.any fun k => k.1 != idxTag
  let covered := fun (l : Nat) => !waiting && match x.carry.head?, x.carry.getLast? with
    | some a, some b => decide (a.2 ≤ l) && decide (l ≤ b.2)
    | _, _ => false
  let old := ls.takeWhile covered
  let new := ls.drop old.length
  let r := old.foldl (fun (a : Work × PtStream) l => a.1.shareLine a.2 tag l) (w, x)
  (r.1, { r.2 with lineQ := r.2.lineQ ++ new.map fun l => (tag, l), carry := if new.isEmpty then r.2.carry else [] })

/-- Feeds one more item of a stream, or the next index line its record needs (R397, R399, R413, R421). -/
def Work.feedOne (w : Work) (e : Exec) (x : PtStream) : Option (Work × PtStream) :=
  let c := x.cmd
  let r := if c.lay then x.fed % c.nrec else x.fed
  let q := if c.lay then x.fed / c.nrec else 0
  let next := { x with fed := x.fed + 1 }
  let lost : PtStream := if c.isStore || q ≠ 0 then next else { next with bad := x.bad ++ [(r, 0)] }
  match x.record e.desc r with
  | .unknown =>
    let a := (dBuf e.desc c.ibuf).1 + c.ioff
    if a / 64 + x.idxReq ≤ (a + 4 * r + 3) / 64 then
      some (w, { x with idxReq := x.idxReq + 1, lineQ := x.lineQ ++ [(idxTag, a / 64 + x.idxReq)] })
    else none
  | .poisoned => some (if c.isStore then w.raise [(0x3130, 0)] (some e.who) else w, lost)
  | .outside => some (if q = 0 then w.raise [(0x1066, 0)] (some e.who) else w, lost)
  | .addr a =>
    let range := if c.lay then linesOf (a + q * c.passBytes) (min c.passBytes (c.rlen - q * c.passBytes))
      else if c.cmp ≠ 0 then linesOf a (if c.cache then 32 else c.clen * 64)
      else linesOf a c.rlen
    let tag := if c.lay then q * 256 + r else r
    some (w.addLines { next with paid := c.cmp != 0 && !c.cache, dec := none } tag range)

/-- The first request of a queue of lines (R407): its entries, its first and last line, and what is left; `same` tells the tags that
may share it. -/
def growReq (same : Nat → Bool) (first : Nat) : Nat → List (Nat × Nat) → List (Nat × Nat) × Nat × List (Nat × Nat)
  | last, [] => ([], last, [])
  | last, (t, l) :: rest =>
    if l / 4 = first / 4 && decide (first ≤ l) && decide (l ≤ last + 1) && same t then
      let r := growReq same first (max last l) rest
      ((t, l) :: r.1, r.2)
    else ([], last, (t, l) :: rest)

/-- The first request of a stream's queue of lines; in operand layout one request serves one record (R406). -/
def splitReq (lay : Bool) : List (Nat × Nat) → Option (List (Nat × Nat) × Nat × Nat × List (Nat × Nat))
  | [] => none
  | (t, l) :: rest =>
    let r := growReq (fun u => if t = idxTag || lay then u == t else u != idxTag) l l rest
    some ((t, l) :: r.1, l, r.2.1, r.2.2)

/-- Feeds a stream until a request is complete or no more can be fed (R407, R408). -/
def Work.feed (e : Exec) (m : Model) : Nat → Work → PtStream → Work × PtStream
  | 0, w, x => (w, x)
  | n + 1, w, x =>
    let whole := match splitReq x.cmd.lay x.lineQ with
      | some (_, _, _, _ :: _) => true
      | _ => false
    if whole || x.cmd.items ≤ x.fed || !w.mayFeed e m x then (w, x)
    else match w.feedOne e x with
      | none => (w, x)
      | some (w, x) => Work.feed e m n w x

def Work.setStream (w : Work) (x : PtStream) : Work :=
  w.mod fun d => { d with pt := { d.pt with
    streams := d.pt.streams.map fun y => if y.port = x.port && y.slot = x.slot then x else y } }
def Work.dropStream (w : Work) (x : PtStream) : Work :=
  w.mod fun d => { d with pt := { d.pt with streams := d.pt.streams.filter fun y => !(y.port == x.port && y.slot == x.slot) } }
def Work.stream? (w : Work) (port slot : Nat) : Option PtStream :=
  w.d.pt.streams.find? fun x => x.port == port && x.slot == slot

/-- The step a stream works for: the running one, but of a STORE in a BIWIN the one whose window is done (R286). -/
def Work.stepOf (w : Work) (x : PtStream) : Option (Exec × Model) :=
  match w.exec? x.ring x.seq with
  | some e =>
    let now := if x.cmd.isStore && dOpc e.desc = 3 then e.ph == .commit || e.ph == .effects else e.ph == .run
    if now then (w.model? (dModel e.desc)).map fun m => (e, m) else none
  | none => none

/-- Feeds the stream in a slot. -/
def Work.feedStream (w : Work) (x : PtStream) : Work :=
  match w.stepOf x with
  | some (e, m) => let r := Work.feed e m (2 * x.cmd.items + 2) w x; r.1.setStream r.2
  | none => w

/-- A STORE's stream slot frees once its last write is accepted (R395). -/
def Work.storeDone (w : Work) (x : PtStream) : Work :=
  if x.cmd.isStore && decide (x.cmd.nrec ≤ x.fed) && x.lineQ.isEmpty && !w.pendingUser (.stream x.port x.slot x.epoch) then
    (w.dropStream x).settle x.ring x.seq
  else w

/-- The strobed bytes of a STORE's request (R412): a later record wins where records overlap. -/
def PtStream.strobes (x : PtStream) (desc : List Byte) (first : Nat) (ents : List (Nat × Nat)) :
    List (Nat × Byte) × List Nat :=
  ents.foldl (fun acc (r, l) =>
    match x.record desc r with
    | .addr a =>
      let src := nth ([], []) x.src r
      (List.range src.1.length).foldl (fun acc i =>
        if (a + i) / 64 = l then
          let o := a + i - 64 * first
          ((acc.1.filter fun b => b.1 != o) ++ [(o, nth 0 src.1 i)],
           (acc.2.filter fun q => q != o) ++ (if src.2.any (· == i) then [o] else []))
        else acc) acc
    | _ => acc) ([], [])

/-- Complete tiles landed and not freed, or runs received and not wholly accepted (R410). The stream's own lines in a region begin
where its head stood when the first landed (R349). -/
def Work.ptTiles (w : Work) (e : Exec) (m : Model) (x : PtStream) : Nat :=
  let tl := max 1 x.cmd.tlines
  if x.cmd.dest = 2 then
    countOf 4 fun k => (List.range tl).all fun i =>
      let j := (x.landed / tl + k) * tl + i
      let r := j / x.cmd.lpr
      decide (j < x.landed) || match x.record e.desc r with
      | .addr a => (x.bytesAt r (a + 64 * (j % x.cmd.lpr)) (min 64 (x.cmd.rlen - 64 * (j % x.cmd.lpr)))).isSome
      | .unknown => false
      | _ => decide (r < x.fed)
  else
    let ls := (x.receivers e m).map fun (p, _) =>
      let l := (w.core p).land
      x.landed / tl - (tabGet 0 l.tails x.cmd.reg + x.landed - tabGet 0 l.heads x.cmd.reg) / tl
    match ls with
    | [] => 0
    | a :: as => as.foldl min a

/-- The time to dry of a FETCH, in nanoseconds from now (R410); none to wait for where a step goes on past its deadline (R424). -/
def Work.toDry (w : Work) (x : PtStream) (e : Exec) (tiles : Nat) : Nat :=
  if tiles = 0 || x.cmd.cbeats = 0 || e.missed || e.passed w.tb then 0
  else tiles * x.cmd.cbeats * 1000000 / max 1 (w.d.brate x.core).toNat

/-- The next request of a stream, with what is left in its queue (R407, R410). -/
def Work.streamReq (w : Work) (x : PtStream) : Option (PortReq × PtStream) :=
  match w.stepOf x, splitReq x.cmd.lay x.lineQ with
  | some (e, _), some (ents, first, last, rest) =>
    let isIdx := ents.any fun k => k.1 == idxTag
    let write := x.cmd.isStore && !isIdx
    let st := if write then x.strobes e.desc first ents else ([], [])
    let q : PortReq := { PortReq.base with
      user := .stream x.port x.slot x.epoch, port := x.port, isWrite := write, addr := 64 * first,
      beats := last - first + 1, data := st.1, poison := st.2,
      ents := if write then [] else ents.map fun k => gotKey k.1 k.2, dl := dDl e.desc,
      cl := if x.cmd.isStore then 5 else if x.cmd.dest = 0 then 3 else 4, q := x.slot }
    let last := !x.cmd.isStore && !x.cmd.lay && rest.all fun k => k.1 == idxTag
    some (q, { x with lineQ := rest, carry := if isIdx then x.carry else if last then ents else [] })
  | _, _ => none

-- Landing (R400 to R406) -------------------------------------------------------------------------------------------------------

def PtStream.isBad (x : PtStream) (r : Nat) : Bool := x.bad.any fun b => b.1 == r

/-- A line of a linear stream with its poisoned offsets; none while it is not there (R401, R404, R420). -/
def PtStream.linearLine (x : PtStream) (desc : List Byte) (j : Nat) : Option (List Byte × List Nat) :=
  let r := j / x.cmd.lpr
  let o := 64 * (j % x.cmd.lpr)
  let n := min 64 (x.cmd.rlen - o)
  if x.fed ≤ r then none
  else if x.isBad r then some (List.replicate 64 0, List.range n)
  else if x.cmd.cmp ≠ 0 then
    match x.dec with
    | some (r', d) => if r' = r then some (sliceAt d.bytes o 64, (List.range n).filter fun i => d.poison.any (· == o + i)) else none
    | none => none
  else match x.record desc r with
    | .addr a => (x.bytesAt r (a + o) n).map fun b => (sliceAt b.1 0 64, b.2)
    | _ => none

/-- Is every line of pass q there (R406)? -/
def PtStream.passReady (x : PtStream) (desc : List Byte) (q : Nat) : Bool :=
  let c := x.cmd
  decide ((q + 1) * c.nrec ≤ x.fed) && (List.range c.nrec).all fun r =>
    match x.record desc r with
    | .addr a => (x.bytesAt (q * 256 + r) (a + q * c.passBytes) (min c.passBytes (c.rlen - q * c.passBytes))).isSome
    | _ => true

/-- An operand line's place: tile, row tile, position, sub-line (R402, R406). -/
structure OpLine where
  tile : Nat
  rt   : Nat
  pos  : Nat
  half : Nat
  pass : Nat
  deriving DecidableEq, Repr

def PtCmd.opLine (c : PtCmd) (j : Nat) : OpLine :=
  let k := j / c.tlines
  let i := j % c.tlines
  let pos := k / c.rowTiles * c.tsz + i / c.lpp
  ⟨k, k % c.rowTiles, pos, i % c.lpp, pos * c.width / c.passBytes⟩

/-- The bytes of an operand line: one element of each row (R108, R402, R404). -/
def PtStream.operandLine (x : PtStream) (desc : List Byte) (j : Nat) : Option (List Byte) :=
  let c := x.cmd
  let o := c.opLine j
  if x.passes ≤ o.pass then none
  else
    let rows := 64 / c.width
    some ((List.range rows).flatMap fun i =>
      let r := 64 * o.rt + rows * o.half + i
      match (if c.nrec ≤ r then RecAt.outside else x.record desc r) with
      | .addr a => ((x.bytesAt (o.pass * 256 + r) (a + o.pos * c.width) c.width).map Prod.fst).getD (List.replicate c.width 0)
      | _ => List.replicate c.width 0)

/-- The bits an operand line sets in its tile's row-poison mask (R405): on the tile's first line every record known bad, on a
later one those that became known with its pass. -/
def PtStream.maskBits (x : PtStream) (j : Nat) : BitVec 64 :=
  let o := x.cmd.opLine j
  maskOf fun i => x.bad.any fun b => b.1 == 64 * o.rt + i && (j % x.cmd.tlines == 0 || b.2 == o.pass)

/-- One line lands in one receiver: memory, head, counter, row-poison mask (R349, R353, R404, R405). -/
def Work.landLine (w : Work) (x : PtStream) (p : Nat) (r : Region) (bytes : List Byte) (pois : List Nat) : Work :=
  let c := x.cmd
  let l := (w.core p).land
  let head := tabGet 0 l.heads c.reg
  let base := 64 * (r.base + head % max 1 r.len)
  let w := w.mwrite p (if r.mem = 0 then 1 else 0) (runFrom base bytes) (pois.map (base + ·))
  let key := 4 * c.reg + head % max 1 r.len / max 1 c.tlines
  let mask := if !c.lay then 0
    else if x.landed % c.tlines = 0 then x.maskBits x.landed else tabGet 0 l.masks key ||| x.maskBits x.landed
  w.modCore p fun k =>
    let k := k.setCounter r.ctr (k.counter r.ctr + 1)
    { k with land := { k.land with
        heads := tabSet 0 k.land.heads c.reg (head + 1), masks := tabSet 0 k.land.masks key mask } }

/-- A line has landed or was accepted: lines no longer needed leave the engine; the slot frees with the last (R395). -/
def Work.lineLanded (w : Work) (x : PtStream) : Work :=
  let n := x.landed + 1
  let c := x.cmd
  if c.total ≤ n then w.dropStream x
  else
    let keep := fun key =>
      let tag := key / 2 ^ 42
      tag == idxTag || (x.carry.any fun k => gotKey k.1 k.2 == key) || (if c.lay then decide (n ≤ c.lastLineOf (tag / 256)) else decide (n / c.lpr ≤ tag))
    let done := !c.lay && n % c.lpr == 0
    w.setStream { x with landed := n, got := tabKeep keep x.got, dec := if done then none else x.dec }

/-- FETCH (R392). -/
def execFetch (core thread : Nat) (s : State) : Host.Outcome State Fault Refusal :=
  run (xptInstr isFetchOp core thread (fetchOp core thread)) s
/-- STORE (R412). -/
def execStore (core thread : Nat) (s : State) : Host.Outcome State Fault Refusal :=
  run (xptInstr (· == some 3) core thread (storeOp' core thread)) s
/-- STAGE (R414). -/
def execStage (core thread : Nat) (s : State) : Host.Outcome State Fault Refusal :=
  run (xptInstr (· == some 4) core thread (stageOp core thread)) s
/-- RFREE (R350). -/
def execRfree (core thread : Nat) (s : State) : Host.Outcome State Fault Refusal :=
  run (xptInstr (· == some 6) core thread (rfreeOp core thread)) s
/-- WOPEN (R357). -/
def execWopen (core thread : Nat) (s : State) : Host.Outcome State Fault Refusal :=
  run (xptInstr (· == some 7) core thread (windowOp true core thread)) s
/-- WCLOSE (R357). -/
def execWclose (core thread : Nat) (s : State) : Host.Outcome State Fault Refusal :=
  run (xptInstr (· == some 8) core thread (windowOp false core thread)) s
/-- THREAD_WAKE (R163). -/
def execThreadWake (core thread : Nat) (s : State) : Host.Outcome State Fault Refusal := run (threadWake core thread) s

end Sys2Proof.Machine
end

