-- ==== Sys2Proof/Machine/Inputs.lean ====
section
/-! DEFINITION. What a read response brings a fetch stream (R420), compressed records (09 R428 to R436), the decoded-chunk
cache (R437 to R442), landing (R404, R406) and the sprue chain (R416 to R419). -/

-- Declarations are elaborated one after another: side by side, each would hold a thread and its stack.
set_option Elab.async false

namespace Sys2Proof.Machine

-- Headers (R429, R430) ---------------------------------------------------------------------------------------------------

/-- Elements a header claims. -/
def inDims (h : List Byte) : List Nat :=
  [bitsOf (word32 h 4) 0 16, bitsOf (word32 h 4) 16 16, bitsOf (word32 h 8) 0 16, bitsOf (word32 h 8) 16 16]
def inNdim (h : List Byte) : Nat := bitsOf (word32 h 0) 0 3
def inElems (h : List Byte) : Nat := ((inDims h).take (inNdim h)).foldl (· * ·) 1
def inPlen (h : List Byte) : Nat := word32 h 12
def inSeq (h : List Byte) : Nat := word32 h 16

/-- Check 2 of R430. -/
def inFormatOk (c : PtCmd) (h : List Byte) : Bool :=
  let w0 := word32 h 0
  bitsOf w0 24 8 == (if c.cmp = 1 then 0x52 else 0x42) && bitsOf w0 20 4 == 1 && bitsOf w0 16 3 == c.ew &&
  bitsOf w0 19 1 == 0 && bitsOf w0 3 13 == 0 && decide (1 ≤ inNdim h) && decide (inNdim h ≤ 4) &&
  ((inDims h).take (inNdim h)).all (· != 0) && ((inDims h).drop (inNdim h)).all (· == 0) && zeroRange h 0x14 0x20

/-- Checks 2 and 3 of R430: 0000h or the code the step fails with. -/
def inCheck (c : PtCmd) (h : List Byte) : W16 :=
  if !inFormatOk c h then 0x1063 else if c.rlen < inElems h * c.width then 0x1060 else 0

-- Decoding (R431 to R435) --------------------------------------------------------------------------------------------------

/-- RLZ: decodes up to `total` elements; answers bytes, elements produced, whether anything was left over. -/
def rlz (wd total : Nat) : Nat → List Byte → List Byte → Nat → List Byte × Nat × Bool
  | 0, p, acc, n => (acc, n, !p.isEmpty && n == total)
  | fuel + 1, p, acc, n =>
    if n = total then (acc, n, !p.isEmpty)
    else match p with
      | [] => (acc, n, false)
      | t :: ps =>
        let k := t.toNat % 128 + 1
        let m := min k (total - n)
        if 128 ≤ t.toNat then
          (if m < k then (acc ++ List.replicate (m * wd) 0, total, true)
           else rlz wd total fuel ps (acc ++ List.replicate (k * wd) 0) (n + k))
        else
          let have_ := min m (ps.length / wd)
          if have_ < m then (acc ++ ps.take (have_ * wd), n + have_, false)
          else if m < k then (acc ++ ps.take (m * wd), total, true)
          else rlz wd total fuel (ps.drop (k * wd)) (acc ++ ps.take (k * wd)) (n + k)

/-- The elements one BMS bitmap describes: bytes, elements produced, the payload left or none where it ended. -/
def bmsElems (wd : Nat) : List Bool → List Byte → List Byte × Nat × Option (List Byte)
  | [], p => ([], 0, some p)
  | b :: bs, p =>
    if b && decide (p.length < wd) then ([], 0, none)
    else
      let r := bmsElems wd bs (if b then p.drop wd else p)
      ((if b then p.take wd else List.replicate wd 0) ++ r.1, r.2.1 + 1, r.2.2)

/-- BMS, block by block. -/
def bms (wd total : Nat) : Nat → List Byte → List Byte → Nat → List Byte × Nat × Bool
  | 0, p, acc, n => (acc, n, !p.isEmpty && n == total)
  | fuel + 1, p, acc, n =>
    if n = total then (acc, n, !p.isEmpty)
    else if p.length < 8 then (acc, n, false)
    else
      let map := leNat (p.take 8)
      let k := min 64 (total - n)
      let r := bmsElems wd ((List.range k).map (bitOf map)) (p.drop 8)
      match r.2.2 with
      | none => (acc ++ r.1, n + r.2.1, false)
      | some rest =>
        if bitsOf map k (64 - k) ≠ 0 then (acc ++ r.1, n + k, true)
        else bms wd total fuel rest (acc ++ r.1) (n + k)

def decodeWith (c : PtCmd) (total : Nat) (p : List Byte) : List Byte × Nat × Bool :=
  if c.cmp = 1 then rlz c.width total (p.length + 1) p [] 0 else bms c.width total (p.length + 1) p [] 0

/-- A record decoded from its payload; `clean` is how many of the payload's bytes come before the first poisoned one. -/
def decodeRecord (c : PtCmd) (h payload : List Byte) (clean : Nat) : Decoded :=
  let total := inElems h
  let r := decodeWith c total payload
  let n := if clean < payload.length then min r.2.1 (decodeWith c total (payload.take clean)).2.1 else r.2.1
  let from_ := n * c.width / 16 * 16
  { bytes := sliceAt r.1 0 c.rlen
    poison := if n < total then (List.range c.rlen).filter fun o => decide (from_ ≤ o) else []
    code := if r.2.1 < total then 0x1061 else if r.2.2 then 0x1062 else 0 }

-- The cache (R437 to R442) ---------------------------------------------------------------------------------------------------

def CacheTag.matches (t : CacheTag) (a : Nat) (h : List Byte) (c : PtCmd) : Bool :=
  t.addr == a && t.seq == inSeq h && t.plen == inPlen h && t.clen == c.clen && t.rlen == c.rlen && t.cmp == c.cmp

/-- Lines a tag holds, by position in the cache area. -/
def CacheTag.places (t : CacheTag) (klen : Nat) : List Nat := (List.range t.lines).map fun i => (t.line + i) % max 1 klen

/-- The record a tag holds (R442). -/
def Work.cached (w : Work) (p : Nat) (img : SlotImg) (t : CacheTag) : Decoded :=
  let offs := (t.places img.klen).map fun l => 64 * (img.kbase + l)
  { bytes := (offs.flatMap fun o => w.mreadN p 1 o 64).take t.rlen
    poison := (offs.zipIdx.flatMap fun (o, i) => (w.poisonOffs p 1 o 64).map (64 * i + ·)).filter fun o => decide (o < t.rlen)
    code := t.code }

/-- Writes a decoded record to the cache area and allocates its tag (R440). -/
def Work.allocTag (w : Work) (p : Nat) (img : SlotImg) (c : PtCmd) (a : Nat) (h : List Byte) (d : Decoded) : Work :=
  if img.klen < c.lpr then w
  else
    let k := w.core p
    let t : CacheTag := ⟨a, inSeq h, inPlen h, c.clen, c.rlen, c.cmp, k.cacheNext % img.klen, c.lpr, d.code, true⟩
    let mine := t.places img.klen
    let w := mine.zipIdx.foldl (fun w (l, i) =>
      let base := 64 * (img.kbase + l)
      w.mwrite p 1 (runFrom base (sliceAt d.bytes (64 * i) 64))
        ((d.poison.filter fun o => o / 64 == i).map fun o => base + o % 64)) w
    let kept := k.cache.filter fun u => !((u.places img.klen).any fun l => mine.any (· == l))
    let kept := if kept.length < 16 then kept else kept.drop 1
    w.modCore p fun k => { k with cache := kept ++ [t], cacheNext := (t.line + c.lpr) % img.klen }

/-- The report of record r (R433, R434): INPUT_SHORT also goes to the error record queue; INPUT_LONG is kept for the lane of the
record's number (R507; log entry 100). -/
def Work.inputReport (w : Work) (e : Exec) (r : Nat) (code : W16) : Work :=
  if code = 0 then w
  else
    let w := if code = 0x1061 then w.raise [(code, 0)] (some e.who) else w
    w.modExec e.ring e.seq fun e => { e with
      inrep := if e.inrep = 0 then code else e.inrep
      inlong := if code = 0x1062 then e.inlong ||| BitVec.ofNat 64 (2 ^ (r % 64)) else e.inlong }

def Work.countCache (w : Work) (hit : Bool) : Work :=
  w.mod fun d => { d with pt := { d.pt with
    hit := if hit then satAdd 65535 d.pt.hit 1 else d.pt.hit, miss := if hit then d.pt.miss else satAdd 65535 d.pt.miss 1 } }

/-- Decodes a record whose lines are all there; a clean one may enter the cache (R440). -/
def Work.decodePaid (w : Work) (x : PtStream) (e : Exec) (img : SlotImg) (r a need : Nat) (h : List Byte) : Work :=
  match x.bytesAt r a need with
  | none => w
  | some (bytes, pois) =>
    let d := decodeRecord x.cmd h ((bytes.drop 32).take (inPlen h)) (pois.foldl min need - 32)
    let w := (w.setStream { x with dec := some (r, d) }).inputReport e r d.code
    if x.cmd.cache && pois.isEmpty then w.allocTag x.core img x.cmd a h d else w

/-- What the lines of a compressed record allow: its header is judged, a tag found, the payload asked for, the record
decoded (R430, R439, R440). -/
def Work.decodeNext (w : Work) (x : PtStream) : Work :=
  match w.stepOf x with
  | none => w
  | some (e, m) =>
    let c := x.cmd
    let r := x.fed - 1
    let img := nth SlotImg.init m.slots x.lslot
    if c.cmp = 0 || x.fed = 0 || x.dec.isSome || x.isBad r then w
    else match x.record e.desc r with
      | .addr a =>
        match x.bytesAt r a 32 with
        | none => w
        | some (h, bad) =>
          let need := if c.cache then 32 + min (inPlen h) (c.clen * 64 - 32) else c.clen * 64
          if !bad.isEmpty then
            (if x.paid && (x.bytesAt r a need).isNone then w else w.setStream { x with bad := x.bad ++ [(r, 0)] })
          else if inCheck c h ≠ 0 then w.failStep x.ring x.seq (inCheck c h) 0
          else if x.paid then w.decodePaid x e img r a need h
          else match (w.core x.core).cache.find? fun t => t.matches a h c with
            | some t =>
              let d := w.cached x.core img t
              ((w.countCache true).setStream { x with dec := some (r, d) }).inputReport e r d.code
            | none =>
              let q := (w.countCache false).addLines { x with paid := true } r
                ((linesOf a need).filter fun l => (x.lineOf r l).isNone)
              (q.1.setStream q.2).decodePaid q.2 e img r a need h
      | _ => w

/-- Feeds a stream and decodes a record whose lines are there already. -/
def Work.feedOn (w : Work) (x : PtStream) : Work :=
  let w := w.feedStream x
  match w.stream? x.port x.slot with
  | some x => w.decodeNext x
  | none => w

-- Responses (R420) ---------------------------------------------------------------------------------------------------------------

/-- The lines of a final read response reach the stream that asked for them; `bad` marks a poisoned response or a failure. -/
def Work.streamData (w : Work) (q : PortReq) (port slot epoch : Nat) (data : List Byte) (bad : Bool) (cause : List (W16 × W32)) :
    Work :=
  match w.stream? port slot with
  | none => w
  | some x =>
    if x.epoch ≠ epoch then w
    else
      let who := (w.exec? x.ring x.seq).map Exec.who
      let w := if bad then w.raise ((0x3130, 0) :: cause) who else w
      let first := q.addr / 64
      let got := q.ents.foldl (fun g key =>
        tabSet ([], false) g key (sliceAt data (64 * (key % 2 ^ 42 - first)) 64, bad)) x.got
      let dirty := if bad then (q.ents.map (· / 2 ^ 42)).eraseDups.filter (· != idxTag) else []
      let marks := if x.cmd.lay then dirty.map fun t => (t % 256, t / 256) else []
      let x := { x with got := got, bad := x.bad ++ marks }
      (w.setStream x).decodeNext x

-- Landing and the sprue chain (R404, R406, R417, R418) --------------------------------------------------------------------------

/-- FETCH_LINE_LAND (R404): the next line of the stream lands in every receiver, once the four-tile distance allows. -/
def fetchLineLand (port slot : Nat) (w : Work) : Work :=
  match w.stream? port slot with
  | none => w
  | some x =>
    if x.cmd.isStore || x.cmd.dest = 2 then w
    else
      let w := w.feedOn x
      match w.stream? port slot with
      | none => w
      | some x =>
        match w.stepOf x with
        | none => w
        | some (e, m) =>
          let rs := x.receivers e m
          let room := rs.all fun (p, r) =>
            w.onStep x p &&
              decide (tabGet 0 (w.core p).land.heads x.cmd.reg < r.len + tabGet 0 (w.core p).land.tails x.cmd.reg)
          let line := if x.cmd.lay then (x.operandLine e.desc x.landed).map fun b => (b, []) else x.linearLine e.desc x.landed
          match line with
          | none => w
          | some (bytes, pois) =>
            if !w.ptTurn x || !room then w
            else if x.cmd.lay && x.landed = 0 &&
                (rs.any fun (p, _) => tabGet 0 (w.core p).land.heads x.cmd.reg % x.cmd.tlines != 0) then
              w.failStep x.ring x.seq 0x1064 0
            else (rs.foldl (fun w (p, r) => w.landLine x p r bytes pois) w).lineLanded x

/-- FETCH_PASS_COMPLETE (R406): the next pass buffer is filled. -/
def fetchPassComplete (port slot : Nat) (w : Work) : Work :=
  match w.stream? port slot with
  | none => w
  | some x =>
    match w.stepOf x with
    | some (e, _) =>
      if x.cmd.lay && decide (x.passes < x.cmd.passCount) && x.passReady e.desc x.passes then
        w.setStream { x with passes := x.passes + 1 }
      else w
    | none => w

/-- The chain command whose lines are being injected (R418). -/
def Work.chainHead (w : Work) : Option PtStream :=
  (w.d.pt.streams.filter fun x => !x.cmd.isStore && x.cmd.dest != 0).foldl (fun a x =>
    match a with
    | none => some x
    | some y => if x.order < y.order then some x else a) none

/-- SPRUE_LINE_ACCEPT (R417, R123): the core takes the line offered for the command its array is computing; with the last
line the command's operands are complete. -/
def sprueLineAccept (p : Nat) (w : Work) : Work :=
  match w.chainHead with
  | none => w
  | some x =>
    match (w.feedOn x).chainHead with
    | none => w
    | some x' =>
      let w := w.feedOn x
      match w.stepOf x' with
      | none => w
      | some (e, m) =>
        let slot := (x'.landed / max 1 x'.cmd.tlines) % max 1 m.slots.length
        let target := nth 0 (if x'.checker then e.checker else e.cores) slot
        match (w.core p).mmas.find? (fun c => c.need != 0), x'.linearLine e.desc x'.landed with
        | some c, some (bytes, pois) =>
          if x'.cmd.dest ≠ 2 || p ≠ target then w
          else
            let c' : Mma := { c with lines := c.lines ++ [(bytes, !pois.isEmpty)] }
            let w := w.modCore p fun k => { k with mmas := modFirst (fun c => c.need != 0) (fun _ => c') k.mmas }
            let w := if c'.need = 0 then w.accumulate p (nth SlotImg.init m.slots slot) c' (fun _ => false) else w
            w.lineLanded x'
        | _, _ => w

/-- FETCH_PASS_COMPLETE (R406). -/
def execFetchPassComplete (port slot : Nat) (s : State) : Host.Outcome State Fault Refusal :=
  run (fetchPassComplete port slot) s
/-- FETCH_LINE_LAND (R404). -/
def execFetchLineLand (port slot : Nat) (s : State) : Host.Outcome State Fault Refusal := run (fetchLineLand port slot) s
/-- SPRUE_LINE_ACCEPT (R417). -/
def execSprueLineAccept (core : Nat) (s : State) : Host.Outcome State Fault Refusal := run (sprueLineAccept core) s

end Sys2Proof.Machine
end

