-- ==== Sys2Proof/Machine/Mesh.lean ====
section
/-! DEFINITION. Remote stores and the mesh (08 R360 to R368, 13 R599, R600). -/

-- Declarations are elaborated one after another: side by side, each would hold a thread and its stack.
set_option Elab.async false

namespace Sys2Proof.Machine

-- Remote stores (R360 to R364) -------------------------------------------------------------------------------------------

/-- What the owner decides about a store (R360): it lands in a window, or is dropped with a code. -/
def storeVerdict (k : Core) (s : RStore) : Except W16 Window :=
  match s.target with
  | none => .error 0x103C
  | some x =>
    let here := match k.cur with
      | some cur => cur.ring == s.ring && cur.seq == s.seq && cur.checker == s.checker && cur.begun && !cur.ended
      | none => false
    if s.lines.any fun l => k.lineLocked (if x.mem = 0 then 1 else if x.mem = 1 then 0 else 2) (x.base + l) then .error 0x7111
    else if !here then .error 0x2107
    else if !tabGet false k.land.opens s.win then .error 0x2107
    else if !x.wr then .error 0x103D
    else if x.len * 64 < s.hi then .error 0x103C
    else .ok x

/-- The DETAIL of LATE_WINDOW (R364). -/
def lateDetail (slot win core : Nat) : W32 := w32 (slot % 32 * 2 ^ 24 + win % 32 * 2 ^ 19 + core % 32 * 2 ^ 8)

/-- The descriptor a store belongs to, as error entries name it. -/
def Work.whoIs (w : Work) (r s : Nat) : Option (Nat × Nat × W16) := (w.exec? r s).map Exec.who

/-- Lands a store: its bytes through the gather buffer, its window's counter by its lines (R353, R361). -/
def Work.landStore (w : Work) (p : Nat) (x : Window) (bytes : List (Nat × Byte)) (pois : List Nat) (lines : Nat) : Work :=
  let base := 64 * x.base
  let w := w.asWrite p true (bytes.map fun b => (base + b.1, b.2)) (pois.map (base + ·))
  w.modCore p fun k =>
    let k := k.setCounter x.ctr (k.counter x.ctr + w32 lines)
    { k with perf := { k.perf with landed := (k.perf.landed + 1) % 2 ^ 64 } }

/-- Does a store wait in the owner's early queue: has the owner been granted to the step and not begun it (R365)? -/
def Core.holdsBack (k : Core) (s : RStore) : Bool :=
  k.cur.any fun c => c.ring == s.ring && c.seq == s.seq && c.checker == s.checker && !c.begun

/-- The owner judges a store: it lands whole or is dropped; its acknowledgement leaves (R360, R362, R364). -/
def Work.judgeStore (w : Work) (q : Nat) (s : RStore) : Work :=
  let reply := fun (w : Work) (code : W16) (detail : W32) => w.mod fun d => { d with mesh := { d.mesh with
    acks := d.mesh.acks ++ [⟨q, s.fromCore, s.thread, s.ring, s.seq, code, detail⟩] } }
  match storeVerdict (w.core q) s with
  | .ok x => reply (w.landStore q x s.bytes s.poison s.lines.length) 0 0
  | .error code =>
    if code = 0x2107 then
      let d := lateDetail s.slot s.win q
      let w := w.modCore q fun k => { k with late := satAdd 65535 k.late 1 }
      reply (w.raise [(code, d)] (w.whoIs s.ring s.seq)) code d
    else reply w code 0

/-- Lines in a core's early queue (R365). -/
def Work.earlyLines (w : Work) (q : Nat) : Nat :=
  ((w.d.mesh.early.filter fun s => s.toCore == q).map fun s => s.lines.length).sum

/-- REMOTE_STORE_ARRIVAL: the oldest store in the early queue whose wait is over, else the oldest on its way to the core, is judged.
One for a step that the core has not begun enters the early queue, or stays behind in the mesh while the queue has no room for its
lines (R365). -/
def remoteStoreArrival (q : Nat) (w : Work) : Work :=
  let due := fun (s : RStore) => s.toCore == q && !(w.core q).holdsBack s
  match w.d.mesh.early.find? due with
  | some s => (w.mod fun d => { d with mesh := { d.mesh with early := dropFirst due d.mesh.early } }).judgeStore q s
  | none =>
    match w.d.mesh.stores.find? fun s => s.toCore == q with
    | none => w
    | some s =>
      let out := fun (m : Mesh) => { m with stores := dropFirst (fun s => s.toCore == q) m.stores }
      if !(w.core q).holdsBack s then (w.mod fun d => { d with mesh := out d.mesh }).judgeStore q s
      else if w.earlyLines q + s.lines.length ≤ 8 then
        w.mod fun d => { d with mesh := { out d.mesh with early := d.mesh.early ++ [{ s with queued := 0 }] } }
      else w

/-- A core begins a step: the stores in its early queue land in order (R365). -/
def Work.landEarly (w : Work) (q : Nat) : Work :=
  let mine := w.d.mesh.early.filter fun s => s.toCore == q && !(w.core q).holdsBack s
  let w := w.mod fun d => { d with mesh := { d.mesh with
    early := d.mesh.early.filter fun s => !(s.toCore == q && !(w.core q).holdsBack s) } }
  mine.foldl (fun w s => w.judgeStore q s) w

/-- REMOTE_STORE_ACK: the oldest acknowledgement for the core completes its store or fails the sending step (R362, R363). -/
def remoteStoreAck (p : Nat) (w : Work) : Work :=
  match w.d.mesh.acks.find? fun a => a.core == p with
  | none => w
  | some a =>
    let w := w.mod fun d => { d with mesh := { d.mesh with acks := dropFirst (fun a => a.core == p) d.mesh.acks } }
    if a.code = 0 then w else w.failStep a.ring a.seq a.code a.detail

-- Flits (R599, R600, R367) --------------------------------------------------------------------------------------------------

/-- Are x and y consecutive on the way from lo to hi, in that direction? -/
def onWay (lo hi x y : Nat) : Bool :=
  (decide (lo ≤ x) && decide (x < hi) && y == x + 1) || (decide (hi < x) && decide (x ≤ lo) && y + 1 == x)

/-- Does a flit from p to q cross the link from a to b (R28, R367)? -/
def onRoute (p q a b : Nat) : Bool :=
  (a / 8 == p / 8 && b / 8 == p / 8 && onWay (p % 8) (q % 8) (a % 8) (b % 8)) ||
  (a % 8 == q % 8 && b % 8 == q % 8 && onWay (p / 8) (q / 8) (a / 8) (b / 8))

/-- Do two cores share a mesh link (R30)? -/
def meshLink (a b : Nat) : Bool :=
  decide (a < 32) && decide (b < 32) &&
    ((a / 8 == b / 8 && (a % 8 + 1 == b % 8 || b % 8 + 1 == a % 8)) || (a % 8 == b % 8 && (a / 8 + 1 == b / 8 || b / 8 + 1 == a / 8)))

/-- Is a flit of an access on a link of its way: a store and an acknowledgement from source to destination, a load on its way there
or back (R367)? -/
def flitOnWay (kind src dst a b : Nat) : Bool := onRoute src dst a b || (kind == 1 && onRoute dst src a b)

/-- The step whose access a flit carries: the oldest store or acknowledgement on its way from one core to the other, the load of the
step on the reading core; none where there is no such access. -/
def Work.flitOwner (w : Work) (kind src dst : Nat) : Option (Nat × Nat) :=
  match kind with
  | 0 => (w.d.mesh.stores.find? fun s => s.fromCore == src && s.toCore == dst).map fun s => (s.ring, s.seq)
  | 1 => ((w.core src).cur.filter fun c => c.begun && !c.ended).map fun c => (c.ring, c.seq)
  | _ => (w.d.mesh.acks.find? fun x => x.fromCore == src && x.core == dst).map fun x => (x.ring, x.seq)

/-- A store's flit leaves the mesh port of its core: one line fewer is queued there (R368). -/
def injectLine (src dst : Nat) (m : Mesh) : Mesh :=
  let waiting := fun (s : RStore) => s.fromCore == src && s.toCore == dst && s.queued != 0
  { m with stores := modFirst waiting (fun s => { s with queued := s.queued - 1 }) m.stores }

/-- MESH_FLIT_ARRIVAL: a good flit of a store on the first link of its way has left its port. One that fails its check and its replay
raises MESH_FLIT and fails its access and the access's step (R599); a second such fault of a link within 1 s is ROUTER_FAIL
(R600). -/
def meshFlitArrival (a b : Nat) (ok replayOk : Bool) (kind src dst : Nat) (w : Work) : Work :=
  match w.flitOwner kind src dst with
  | none => w
  | some (r, s) =>
    if !meshLink a b || !flitOnWay kind src dst a b then w
    else
      let inj := (w.takeArmed 5 a).isSome
      let w := match w.takeArmed 5 a with
        | some (_, w) => w
        | none => w
      if !inj && (ok || replayOk) then
        (if kind = 0 && a = src then w.mod fun d => { d with mesh := injectLine src dst d.mesh } else w)
      else
        let d := w32 (0x08 * 65536 + a * 256 + b)
        let link := (min a b, max a b)
        let again := w.d.mesh.flitErrs.any fun e => (e.1, e.2.1) == link && decide (w.now < e.2.2 + 1000000000)
        let w := { w with ev := .chain [(0x8101, d)] (w.whoIs r s) inj [] :: w.ev }
        let lost := fun (m : Mesh) => match kind with
          | 0 => { m with stores := dropFirst (fun s => s.fromCore == src && s.toCore == dst) m.stores }
          | 1 => m
          | _ => { m with acks := dropFirst (fun x => x.fromCore == src && x.core == dst) m.acks }
        let w := w.mod fun dv => { dv with mesh := { lost dv.mesh with
          flitErrs := (link.1, link.2, w.now) :: dv.mesh.flitErrs.filter fun e => decide (w.now < e.2.2 + 1000000000) } }
        let w := w.failStep r s 0x8101 d
        if again then { w with ev := .chain [(0xF105, d)] none inj [] :: w.ev } else w

/-- REMOTE_STORE_ARRIVAL (R360). -/
def execRemoteStoreArrival (core : Nat) (s : State) : Host.Outcome State Fault Refusal := run (remoteStoreArrival core) s
/-- REMOTE_STORE_ACK (R362). -/
def execRemoteStoreAck (core : Nat) (s : State) : Host.Outcome State Fault Refusal := run (remoteStoreAck core) s
/-- MESH_FLIT_ARRIVAL (R599). -/
def execMeshFlitArrival (fromCore toCore : Nat) (ok replayOk : Bool) (s : State) (kind src dst : Nat := 0) :
    Host.Outcome State Fault Refusal := run (meshFlitArrival fromCore toCore ok replayOk kind src dst) s

end Sys2Proof.Machine
end

