-- ==== Sys2Proof/Machine/LedgerOps.lean ====
section
/-! DEFINITION. The ledger's entries and their order (14 R644 to R648, R690): what a privileged action waits for. -/

-- Declarations are elaborated one after another: side by side, each would hold a thread and its stack.
set_option Elab.async false

namespace Sys2Proof.Machine

def Work.modLed (w : Work) (f : Ledger → Ledger) : Work := w.mod fun d => { d with led := f d.led }
def Work.modSec (w : Work) (f : Sec → Sec) : Work := w.mod fun d => { d with sec := f d.sec }

def Work.ledgerLog2 (w : Work) : Nat := fld (w.cfg 0x618) 0 5
/-- Is a ledger configured (R645, R669)? -/
def Work.ledgerOn (w : Work) : Bool := decide (6 ≤ w.ledgerLog2) && decide (w.ledgerLog2 ≤ 16)

/-- An entry (R646). -/
def ledgerBytes (seq time : Nat) (it : LedItem) (prev : List Byte) : List Byte :=
  leBytes 8 seq ++ leBytes 8 time ++
  leBytes 4 (it.action * 65536 + it.role * 2 ^ 14 + it.cred * 2 ^ 10 + it.csCred * 2 ^ 6 + it.ring) ++
  leBytes 4 (it.job * 65536) ++ leBytes 8 it.arg.toNat ++ prev

/-- One more failed AUTH in a row: from the fourth on CHALLENGE is locked out (R637). -/
def Work.authFailed (w : Work) : Work :=
  w.modSec fun s => { s with fails := min 4 (s.fails + 1), lockout := s.lockout || decide (3 ≤ s.fails) }

/-- An event entry. -/
def LedItem.ofEvent (action arg : Nat) : LedItem := ⟨action, 0, 15, 15, 0, 0, BitVec.ofNat 64 arg, .event⟩

def Work.loseEvent (w : Work) : Work := w.modLed fun l => { l with lost := satAdd 65535 l.lost 1 }

/-- A KILL whose entry cannot be written is no longer in progress; a KILL of the job that waited for it completes with it, with the
same code (R538, R645; log entry 108). -/
def Work.dropKill (w : Work) (r s : Nat) : Work :=
  let mine := w.d.rings.kills.filter fun k => k.2 == (r, s)
  let w := w.mod fun d => { d with rings := { d.rings with kills := d.rings.kills.filter fun k => k.2 != (r, s) } }
  mine.foldl (fun w k => (w.d.rings.execs.filter fun e =>
      dOpc e.desc == 0x31 && e.begun && e.ph == .wait && bitsOf (dW e.desc 0x10) 0 16 == k.1).foldl
    (fun w e => w.finishCode e.ring e.seq 0x7109) w) w

/-- An event that an action's failure gives rise to: the next entry to write, or lost where there is no ledger (R648). -/
def Work.addEvent (w : Work) (it : LedItem) : Work :=
  if w.ledgerOn then w.modLed fun l => { l with items := l.items ++ [it] } else w.loseEvent

/-- An item that cannot be written: an event is counted as lost (R648), an action does not take place (R645). An AUTH has then
failed (R636), which is an event of its own; a COUNTERSIGN withdraws its proposal (R641), whose id stands in `result`; a KILL is
over. -/
def Work.failItem (w : Work) (cause : W16) (detail : W32) (it : LedItem) : Work :=
  match it.next with
  | .event => w.loseEvent
  | .action r s =>
    let acting := w.exec? r s
    let w := if it.action = 2 then w.authFailed.addEvent { it with
        action := 3, role := (acting.map Exec.role).getD 0, cred := (acting.map Exec.cred).getD 15,
        arg := BitVec.ofNat 64 it.cred, next := .event } else w
    let w := if it.action = 0x12 then w.dropKill r s else w
    let w :=
      if it.action ≠ 0x21 then w
      else w.addEvent (LedItem.ofEvent 0x22 (((acting.map Exec.result).getD 0).toNat * 2 ^ 32))
    w.finish r s ⟨0x7109, cause, detail⟩ 0 0

/-- The first entry of a start (R690). -/
def Work.firstEntry (w : Work) : LedItem :=
  ⟨0x0001, 0, 15, 15, 0, 0, BitVec.ofNat 64 (leNat (w.d.boot.meas.take 8)), .event⟩

/-- Issues the next entry if none is on its way: into its slot (R644), with TIME, SEQ and PREV (R646). -/
def Work.ledgerPump (w : Work) : Work :=
  let l := w.d.led
  match l.entry, l.items with
  | none, it :: rest =>
    if !w.ledgerOn then (it :: rest).foldl (fun w i => w.failItem 0 0 i) (w.modLed fun l => { l with items := [] })
    else
      let items := if l.seq = 0 && it.action ≠ 1 then w.firstEntry :: it :: rest else it :: rest
      match items with
      | [] => w
      | it :: _ =>
        let bytes := ledgerBytes l.seq w.now it l.head
        let w := w.modLed fun l => { l with items := items, entry := some bytes, accepted := false }
        w.writeHost .ledger (w.cfgAddr 0x610 + 64 * (l.seq % 2 ^ w.ledgerLog2)) bytes (some 0) (2 ^ 64 - 1) 7
  | _, _ => w

def Work.ledgerPut (w : Work) (it : LedItem) : Work := (w.modLed fun l => { l with items := l.items ++ [it] }).ledgerPump

/-- An event entry: nothing waits for it. -/
def Work.ledgerEvent (w : Work) (action : Nat) (arg : Nat) : Work :=
  w.ledgerPut (LedItem.ofEvent action arg)

/-- An event a descriptor gives rise to. -/
def Work.ledgerEventOf (w : Work) (e : Exec) (action arg : Nat) : Work :=
  w.ledgerPut ⟨action, e.role, e.cred, 15, e.ring, dJob e.desc, BitVec.ofNat 64 arg, .event⟩

/-- The entry of a descriptor's privileged action, which follows its acceptance (R645). -/
def Work.ledgerAction (w : Work) (e : Exec) (action arg : Nat) : Work :=
  w.ledgerPut ⟨action, e.role, e.cred, 15, e.ring, dJob e.desc, BitVec.ofNat 64 arg, .action e.ring e.seq⟩

/-- The write of the entry on its way has failed (R645, R648): the entry after a failed first entry cannot go out either. -/
def Work.ledgerFailed (w : Work) (cause : W16) (detail : W32) : Work :=
  match w.d.led.items with
  | [] => w
  | it :: rest =>
    let w := w.modLed fun l => { l with entry := none, accepted := false, items := rest }
    let w := w.failItem cause detail it
    match it.action, w.d.led.items with
    | 1, it2 :: rest2 => ((w.modLed fun l => { l with items := rest2 }).failItem cause detail it2).ledgerPump
    | _, _ => w.ledgerPump

/-- The entry on its way has been accepted: the chain advances (R644, R647). -/
def Work.ledgerAdvance (w : Work) : Work :=
  match w.d.led.entry with
  | none => w
  | some bytes => w.modLed fun l => { l with
      seq := l.seq + 1, head := sha256 bytes, items := l.items.drop 1, entry := none, accepted := false,
      last := (l.last ++ [bytes]).drop ((l.last.length + 1) - 64) }

end Sys2Proof.Machine
end

