-- ==== Sys2Proof/Machine/RingOps.lean ====
section
/-! DEFINITION. Rings: which descriptor may begin, roles (R510, R628 to R630, R772), and what follows a completed one: fences
(R531, R532), kills (R534 to R538), interrupts (R539). -/

-- Declarations are elaborated one after another: side by side, each would hold a thread and its stack.
set_option Elab.async false

namespace Sys2Proof.Machine

def Work.modRings (w : Work) (f : Rings → Rings) : Work := w.mod fun d => { d with rings := f d.rings }

-- Roles -----------------------------------------------------------------------------------------------------------------------

def Work.session (w : Work) (r : Nat) : Option Session := w.d.sec.sessions.find? fun s => s.ring == r

/-- The listed functions (R516, R772). -/
def knownFunc (f : Nat) : Bool :=
  [1, 2, 3, 4, 0x100, 0x101, 0x102, 0x103, 0x104, 0x105, 0x106, 0x107, 0x200, 0x201, 0x202].any (· == f)

/-- The role an opcode or function asks for (R510, R516, R772): 1 operator, 2 installer, 3 maker. -/
def roleNeeded (d : List Byte) : Nat :=
  match dOpc d with
  | 0x20 => 2
  | 0x21 => if bitsOf (dW d 4) 0 4 < 4 then 3 else 2
  | 0x22 => 2
  | 0x40 =>
    let f := dFunc d
    if f = 2 || f = 3 then 2 else if 0x200 ≤ f then 3 else 1
  | _ => 1

/-- The ROLE_RIGHTS bit of a descriptor's class (R630). -/
def rightsBit (d : List Byte) : Option Nat :=
  match dOpc d with
  | 0x01 => some 0
  | 0x02 => some 0
  | 0x03 => some 0
  | 0x10 => some 1
  | 0x11 => some 1
  | 0x12 => some 2
  | 0x13 => some 2
  | 0x31 => some 3
  | 0x20 => some 4
  | 0x21 => if bitsOf (dW d 4) 0 4 < 4 then some 7 else some 5
  | 0x22 => some 5
  | 0x40 =>
    let f := dFunc d
    if f = 2 || f = 3 then some 6 else if f = 0x103 then some 8 else if f = 0x107 then some 9 else none
  | _ => none

/-- The code a descriptor completes with where its ring's session does not allow it, else 0000h. -/
def Work.roleCheck (w : Work) (r : Nat) (d : List Byte) : W16 :=
  let free := dOpc d = 0x3F || (dOpc d = 0x40 && (dFunc d = 0x100 || dFunc d = 0x101))
  match w.session r with
  | none => if free then 0 else 0x7100
  | some s =>
    if free then 0
    else if s.role < roleNeeded d then (if dOpc d = 0x21 && roleNeeded d = 3 then 0x7110 else 0x7100)
    else match rightsBit d with
      | some b => if bit (w.cfg (0x604 + 4 * (s.role - 1))) b then 0 else 0x7100
      | none => 0

-- Begin (R520 to R523, R526, R531) ----------------------------------------------------------------------------------------

def dTjob (d : List Byte) : Nat := bitsOf (dW d 0x10) 0 16
def dUnload (d : List Byte) : Bool := bitOf (dW d 0x10) 31

/-- Is a KILL of a job in progress, its effect still waiting for its ledger entry (R645)? The job's descriptors are held meanwhile:
none begins, commits or completes what R535 ends (DEDUCED, log entry 108). -/
def Work.killHeld (w : Work) (job : Nat) : Bool :=
  w.d.rings.kills.any fun k => k.1 == job && (w.exec? k.2.1 k.2.2).any fun e => e.stage == 0
/-- Is a KILL of a job in progress that has taken effect? -/
def Work.killActive (w : Work) (job : Nat) : Bool :=
  w.d.rings.kills.any fun k => k.1 == job && (w.exec? k.2.1 k.2.2).any fun e => e.stage != 0

def isFence (e : Exec) : Bool := dOpc e.desc == 0x30 && e.ph == .wait

/-- The descriptor of a ring that may begin now. -/
def Work.mayBegin (w : Work) (r : Nat) : Option QDesc :=
  match (w.sq r).queue with
  | [] => none
  | q :: _ =>
    let step := isStepOpc (dOpc q.desc)
    if w.d.boot.state = 6 && w.d.sec.quiesce.isNone && !(step && w.d.rings.halted) &&
        !w.killHeld (dJob q.desc) && !(w.d.rings.execs.any fun e => e.ring == r && isFence e) && (dOpc q.desc != 1 || q.batch.isSome) &&
        decide (0 < w.cqFree (w.cqOf r)) then some q
    else none

/-- Does a model run redundantly (R595)? The register as it stands: a descriptor samples it at its begin (R22). -/
def Work.redundant (w : Work) (h : Nat) : Bool := bit (w.cfg (0x340 + 4 * (h / 32))) (h % 32)

def Work.popQueue (w : Work) (r : Nat) : Work := w.modSq r fun s => { s with queue := s.queue.drop 1 }

/-- Begins a descriptor: a completion entry is reserved, B fields are sampled (R22), deadline test 1 is made (R526); `f` drops
a step under the drop policy. A deadline that passed before the begin names a wait for completion-ring capacity, the one kind
of R530 before a begin; the id in its DETAIL is a free value. -/
def Work.beginDesc (w : Work) (r : Nat) (q : QDesc) (f : Exec → Work → Work) : Work :=
  let ses := w.session r
  let e : Exec := { Exec.fresh r q.seq q.desc w.d.rings.nextOrder w.d.rings.fences (fld (w.cfg 0x400) 4 4) with
    redun := w.redundant (dModel q.desc), role := (ses.map Session.role).getD 0, cred := (ses.map Session.cred).getD 15 }
  let w := w.popQueue r
  let w := w.modRings fun g => { g with execs := g.execs ++ [e], nextOrder := g.nextOrder + 1 }
  let w := w.modCq (w.cqOf r) fun c => { c with reserved := c.reserved + 1 }
  if e.passed w.tb then
    let (n, w) := w.fresh
    f e (w.miss r q.seq (some (w32 (4 * 2 ^ 28 + (Config.freeValue n).toNat % 65536))))
  else f e w

/-- A row of descriptors: the ring's next descriptor begins if it is one of the row's; `pre` gives the code of one that never
begins (R502, R509). -/
def beginRow (sel : List Byte → Bool) (pre : QDesc → Work → W16) (f : Exec → Work → Work) (r : Nat) (w : Work) : Work :=
  match w.mayBegin r with
  | none => w
  | some q =>
    if !sel q.desc then w
    else
      let c := w.roleCheck r q.desc
      let c := if c = 0 then pre q w else c
      if c ≠ 0 then (w.popQueue r).unbegun r q.seq q.desc c false else w.beginDesc r q f

def noPre (_ : QDesc) (_ : Work) : W16 := 0

-- Fences ------------------------------------------------------------------------------------------------------------------------

def fenceTen (e : Exec) : Bool := bitOf (dW e.desc 0x10) 31
def fenceRing (e : Exec) : Nat := bitsOf (dW e.desc 0x10) 0 6
def fenceSeq (e : Exec) : Nat := dW e.desc 0x14
/-- Serial order modulo 2^32 (R531): a is b or earlier. -/
def serialLe (a b : Nat) : Bool := decide ((b + 2 ^ 32 - a % 2 ^ 32) % 2 ^ 32 < 2 ^ 31)

/-- The number after a key's, in the same epoch: numbers wrap at 2^32 (R493). -/
def nextKey (k : Nat) : Nat := k / 2 ^ 32 * 2 ^ 32 + (k + 1) % 2 ^ 32
/-- Is a key's number at or before number `n` of an epoch? -/
def upTo (epoch n k : Nat) : Bool :=
  decide (k / 2 ^ 32 < epoch) || (k / 2 ^ 32 == epoch && serialLe (k % 2 ^ 32) n)

/-- Has the target ring fetched the sequence number? -/
def Work.fenceFetched (w : Work) (e : Exec) : Bool :=
  let q := w.sq (fenceRing e)
  e.stage == 1 || (q.fetchedAny && serialLe (fenceSeq e) ((q.seq + 2 ^ 32 - 1) % 2 ^ 32))

/-- A FENCE whose number has been fetched keeps the epoch of that number. -/
def Work.markFence (w : Work) (e : Exec) : Work :=
  if e.stage = 0 && fenceTen e && w.fenceFetched e then
    w.modExec e.ring e.seq fun x => { x with stage := 1, bankEp := (w.sq (fenceRing e)).seq / 2 ^ 32 }
  else w

/-- R531: every earlier descriptor of the ring has completed, and every one of the target ring up to the number. A FENCE of a job that
a KILL is about to end does not complete. -/
def Work.fenceDone (w : Work) (e : Exec) : Bool :=
  let late := fun (k : Nat) => upTo e.bankEp (fenceSeq e) k
  !w.killHeld (dJob e.desc) &&
  !(w.d.rings.execs.any fun x => x.ring == e.ring && x.seq != e.seq && upTo (e.seq / 2 ^ 32) (e.seq % 2 ^ 32) x.seq) &&
  (!fenceTen e || (e.stage == 1 &&
    !(w.d.rings.execs.any fun x => x.ring == fenceRing e && late x.seq) &&
    !((w.sq (fenceRing e)).queue.any fun q => late q.seq)))

/-- FENCEs that wait for a number a ring has not fetched complete with FENCE_ORPHAN as the ring is disabled or enabled again
(R532). -/
def Work.orphanFences (w : Work) (r : Nat) : Work :=
  (w.d.rings.execs.filter fun e => isFence e && fenceTen e && fenceRing e == r && !w.fenceFetched e).foldl
    (fun w e => w.finishCode e.ring e.seq 0x1008) w

-- Fetching (R389, R500) -----------------------------------------------------------------------------------------------------------

/-- Issues the reads of a ring up to its STAIL, at most four entries a request, while fewer than 256 descriptors have begun
and not completed. Structural on the fuel. -/
def Work.fetchRing (r : Nat) : Nat → Work → Work
  | 0, w => w
  | fuel + 1, w =>
    let q := w.sq r
    let n := w.sqSize r
    if !w.sqOn r || w.d.sec.quiesce.isSome || q.issued = q.stail || 256 ≤ (w.d.rings.execs.filter Exec.begun).length then w
    else
      let a := w.cfgAddr (sqBase r) + 64 * q.issued
      let upto := if q.issued < q.stail then q.stail else n
      let k := min (upto - q.issued) (4 - a / 64 % 4)
      let w := w.readHost (.descs r q.issued k) a (64 * k) (some (r % 8)) 0 1
      Work.fetchRing r fuel (w.modSq r fun q => { q with issued := (q.issued + k) % n })

/-- Issues what every ring may read. -/
def Work.fetchAll (w : Work) : Work := (List.range 64).foldl (fun w r => Work.fetchRing r 4096 w) w

-- Unloading (R537, R664) ------------------------------------------------------------------------------------------------------

/-- Does a stream, or a step that has begun and not ended, still use a model? -/
def Work.modelInUse (w : Work) (h : Nat) : Bool :=
  (w.d.arm.ctx.any fun kv => kv.2.model == h && kv.2.st != .free) ||
  (w.d.rings.execs.any fun e => isStepOpc (dOpc e.desc) && e.begun && dModel e.desc == h && e.ph != .record && e.ph != .blocked)

/-- Models that are being unloaded go once nothing uses them; in confidential mode their weight lines are locked as they go (R537,
R664). -/
def Work.dropDead (w : Work) : Work :=
  let gone := w.d.models.filter fun m => m.dead && !w.modelInUse m.handle
  let w := if !w.d.sec.conf then w
    else gone.foldl (fun w m => (m.slots.zip w.d.boot.coreMap).foldl (fun w (img, p) =>
      if img.wlines = 0 || (w.core p).lost then w
      else w.modCore p fun k => { k with locks := { k.locks with wlines := k.locks.wlines ++ [(img.wbase, img.wlines)] } }) w) w
  w.mod fun d => { d with models := d.models.filter fun m => !gone.any fun g => g.handle == m.handle }

/-- Unloads every model of a job (R537): no descriptor finds it any more; its streams are released, those that are BUSY, FILLING or
SPILLING as they leave that state (R305); a step of another job that waits for such a model ends with STREAM_MODEL, one that computes
ends as it would (log entry 109). -/
def Work.unload (w : Work) (job : Nat) : Work :=
  let hs := (w.d.models.filter fun m => m.job == job && !m.dead).map Model.handle
  let w := w.mod fun d => { d with models := d.models.map fun m => if m.job = job then { m with dead := true } else m }
  let w := (w.d.rings.execs.filter fun e => isStepOpc (dOpc e.desc) && hs.any (· == dModel e.desc) &&
      (e.ph == .wait || e.ph == .ready)).foldl (fun w e => w.failStep e.ring e.seq 0x2109 0) w
  let mine := w.d.arm.ctx.filter fun kv => hs.any (· == kv.2.model) && kv.2.st != .free
  let w := mine.foldl (fun w (s, c) =>
    if c.st == .filling || c.st == .spilling || c.st == .busy then w.modArm fun a => { a with dropped := s :: a.dropped }
    else w.releaseStream s) w
  w.dropDead

-- What follows a completion ----------------------------------------------------------------------------------------------------

/-- Later KILLs of a job, which wait for the first one (R538). -/
def Work.waitingKills (w : Work) (job : Nat) : List Exec :=
  w.d.rings.execs.filter fun e => dOpc e.desc == 0x31 && e.begun && e.ph == .wait && dTjob e.desc == job

/-- KILLs whose descriptors have all completed unload the job's models where one of them asks for it, and finish, with them later
KILLs of the job (R536 to R538). `stage` 1 marks a KILL that has taken effect; a begun KILL is not itself waited for. -/
def Work.scanKills (w : Work) : Work :=
  w.d.rings.kills.foldl (fun w (job, r, s) =>
    match w.exec? r s with
    | none => w
    | some k =>
      if k.stage ≠ 1 || (w.d.rings.execs.any fun e => dJob e.desc == job && !(dOpc e.desc == 0x31 && e.begun)) then w
      else
        let all := k :: w.waitingKills job
        let asked := all.any fun e => dUnload e.desc
        let w := if asked then (w.unload job).dropDead else w
        if asked && w.d.models.any fun m => m.job == job then w
        else
          let w := w.modRings fun g => { g with kills := g.kills.filter fun x => x != (job, r, s) }
          let w := w.finish r s Outc.ok k.result 0
          (w.waitingKills job).foldl (fun w e => w.finishCode e.ring e.seq 0) w) w

def Work.scanFences (w : Work) : Work :=
  let w := (w.d.rings.execs.filter isFence).foldl Work.markFence w
  (w.d.rings.execs.filter isFence).foldl (fun w e => if w.fenceDone e then w.finishCode e.ring e.seq 0 else w) w

def Work.rescan (w : Work) : Work := w.scanKills.scanFences

/-- A completion record has been accepted, or its write has failed for good: the descriptor is gone, its interrupt bit sets
(R539), a KILL counts it (R536). -/
def Work.recordGone (w : Work) (r s k : Nat) (ok : Bool) : Work :=
  match w.exec? r s with
  | none => w
  | some e =>
    let w := w.modRings fun g => { g with execs := dropFirst (isExec r s) g.execs }
    let w := w.modArm fun a => { a with noEvict := a.noEvict.filter fun x => !(x.1 == r && x.2.1 == s) }
    let w := if ok && bit (w.cqCtrl k) 8 then
        w.mod fun d => { d with irq := { d.irq with pend := d.irq.pend ||| BitVec.ofNat 64 (2 ^ k) } } else w
    let w := if e.killed && e.out.code = 0x1005 then
        match w.d.rings.kills.find? fun x => x.1 == dJob e.desc with
        | some (_, kr, ks) => w.modExec kr ks fun k => { k with result := k.result + 1 }
        | none => w
      else w
    w.rescan.fetchAll

end Sys2Proof.Machine
end

