-- ==== Sys2Proof/Machine/Span.lean ====
section
/-! DEFINITION. Span stores at their owner (12 R580, R581) and fills from the partner (R577). -/

-- Declarations are elaborated one after another: side by side, each would hold a thread and its stack.
set_option Elab.async false

namespace Sys2Proof.Machine

/-- The pairable step in execution with a job and deadline (R581). -/
def Work.pairedStep (w : Work) (job dl : Nat) : Option Exec :=
  w.d.rings.execs.find? fun e => isStepOpc (dOpc e.desc) && e.ph == .run && e.pairable && dJob e.desc == job && dDl e.desc == dl

/-- Acknowledges a span store, on the link it came by unless that is silent, and records its outcome (R551, R569, R580). -/
def Work.spanReply (w : Work) (link src sid : Nat) (code : W16) : Work :=
  let w := w.modPeer fun p => { p with outcomes := (link, src, sid, code) :: p.outcomes.filter fun o => !(o.1 == link && o.2.1 == src && o.2.2.1 == sid) }
  w.send (w.pickLink src link) src 9 { a := sid, b := code.toNat } []

/-- Checks a span store against its paired step and lands or drops it (R360, R580). -/
def Work.landSpan (w : Work) (e : Exec) (h : SpanHeld) : Work :=
  let slot := bitsOf h.addr 24 5
  let win := bitsOf h.addr 19 5
  let off := bitsOf h.addr 0 19
  match w.model? (dModel e.desc) with
  | none => w
  | some m =>
    let first := off / 64
    let n := h.lines.length
    let bytes := runFrom (64 * first) h.lines.flatten
    let pois := (List.range (64 * n)).filterMap fun i => if bitOf h.poison (i / 16) then some (64 * first + i) else none
    let target := match m.slots[slot]? with
      | some img => let x := nth Window.init img.windows win; if x.valid then some x else none
      | none => none
    let s : RStore := { fromCore := 0, toCore := 0, thread := 0, ring := e.ring, seq := e.seq, checker := false, slot := slot,
                        win := win, off := off, bytes := bytes, poison := pois, hi := 64 * (first + n),
                        lines := (List.range n).map (first + ·), target := target, queued := 0 }
    let q := nth 0 e.cores slot
    match storeVerdict (w.core q) s with
    | .ok x => (w.landStore q x bytes pois n).spanReply h.link h.src h.sid 0
    | .error code =>
      if code = 0x2107 then
        let w := w.modCore q fun k => { k with late := satAdd 65535 k.late 1 }
        (w.raise [(code, lateDetail slot win q)] (some e.who)).spanReply h.link h.src h.sid code
      else w.spanReply h.link h.src h.sid code

/-- Drops a held span store with LATE_WINDOW, counted and logged for the owner core as a drop of R364 is (R366, R580). -/
def Work.dropHeld (w : Work) (h : SpanHeld) : Work :=
  let slot := bitsOf h.addr 24 5
  let q := nth 0 w.d.boot.coreMap slot
  let w := w.modPeer fun p => { p with spanHeld := p.spanHeld.filter (· != h) }
  let w := w.modCore q fun k => { k with late := satAdd 65535 k.late 1 }
  (w.raise [(0x2107, lateDetail slot (bitsOf h.addr 19 5) q)] none).spanReply h.link h.src h.sid 0x2107

/-- Has the paired step begun on the core that owns a window address (R580)? A slot the step does not have is judged at once. -/
def Work.ownerBegun (w : Work) (e : Exec) (addr : Nat) : Bool :=
  match e.cores[bitsOf addr 24 5]? with
  | none => true
  | some q => (w.core q).cur.any fun c => c.begun && c.ring == e.ring && c.seq == e.seq

/-- As a step begins, held stores of earlier-DL steps of its job drop (R580). -/
def Work.dropOlder (w : Work) (e : Exec) : Work :=
  (w.d.peer.spanHeld.filter fun h => h.job == dJob e.desc && decide (h.dl < dDl e.desc)).foldl Work.dropHeld w

/-- Held stores that pair with a step land once it has begun on their owner core (R580, R581). -/
def Work.landHeld (w : Work) (e : Exec) : Work :=
  let due := fun (h : SpanHeld) => e.pairable && h.job == dJob e.desc && h.dl == dDl e.desc && w.ownerBegun e h.addr
  let mine := w.d.peer.spanHeld.filter due
  let w := w.modPeer fun p => { p with spanHeld := p.spanHeld.filter fun h => !due h }
  mine.foldl (fun w h => w.landSpan e h) w

/-- A HELD entry (R551). -/
def heldEntry (s : Nat) (c : CtxEntry) : List Byte :=
  leBytes 4 (c.model * 65536 + s) ++ leBytes 4 c.gen.toNat ++ leBytes 8 c.sidx.toNat

/-- Is a stream partner-held (R576)? -/
def Work.partnerHeld (w : Work) (s : Nat) : Bool := tabGet false w.d.peer.partner s

/-- Starts a fill from the partner (R577): a footprint, FILLING, and FILL_REQ. -/
def Work.startPartnerFill (w : Work) (s ring seq dl : Nat) (m : Model) : Work :=
  let w := (w.allocSlot s m.halfPages).modCtx s fun c => { c with st := .filling }
  let w := w.modArm fun a => { a with jobs := a.jobs ++ [⟨s, true, ring, seq, w.jobOf ring seq, false, dl, true, 0, 0⟩] }
  w.send (w.pickLink w.partnerPos 0) w.partnerPos 7 {} (heldEntry s (w.ctx s))

end Sys2Proof.Machine
end

