-- ==== Sys2Proof/Machine/Steps.lean ====
section
/-! DEFINITION. STEP, CHUNK and BIWIN from begin to commit: checks before begin (R268 to R270, R307, R509, R595, 53), lanes
(R303 to R309), cores (R524), the commit (R38 to R40, R321, R598) and deadlines (R526 to R530). -/

-- Declarations are elaborated one after another: side by side, each would hold a thread and its stack.
set_option Elab.async false

namespace Sys2Proof.Machine

-- Before begin --------------------------------------------------------------------------------------------------------------

/-- The streams a step names, with their expected generations (R505, R507). -/
def QDesc.lanes (q : QDesc) : List (Nat × Bool × Nat) :=
  if dOpc q.desc = 1 then (List.range (dLen q.desc)).map (batchEntry (q.batch.getD []))
  else [(dStream q.desc, dEgv q.desc, dExpgen q.desc)]

/-- Is a descriptor's form wrong for its model (R268 to R270)? 0000h where it is not. -/
def modeCode (m : Model) (d : List Byte) : W16 :=
  let bi := m.layers.any Layer.bi
  if (dOpc d == 3) != bi then 0x1053
  else if dOpc d = 2 && m.layers.any fun l => decide (l.cmax < dLen d) then 0x1051
  else if dOpc d = 3 && (dLen d == 0 || m.layers.any fun l => l.bi && decide (l.w < dLen d)) then 0x1052
  else 0

/-- The code of a step that never begins (R53, R268 to R270, R307, R595); 0000h where it may begin. -/
def stepPre (q : QDesc) (w : Work) : W16 :=
  let h := dModel q.desc
  match w.live? h with
  | none => 0x2109
  | some m =>
    let n := m.slots.length
    if modeCode m q.desc ≠ 0 then modeCode m q.desc
    else if q.lanes.any fun l => (w.ctx l.1).st != .free && (w.ctx l.1).model != h then 0x2109
    else if (w.d.boot.coreMap.take n).any fun p => (w.core p).lost then 0x8104
    else if w.redundant h && decide (w.d.inService.length < 2 * n) then 0x103F
    else 0

-- Lanes (R303 to R309) ----------------------------------------------------------------------------------------------------------

def Lane.init : Lane := ⟨0, false, 0, .wait, 0, false, false, false, 0, 0⟩

/-- Does a descriptor still have to apply its row of R303 to a stream? -/
def Exec.wants (e : Exec) (s : Nat) : Bool :=
  let o := dOpc e.desc
  if isStepOpc o then e.ph == .wait && e.lanes.any fun l => l.stream == s && (l.ph == .wait || l.ph == .fill)
  else if o = 0x40 then e.ph == .wait && e.mgmtStream == some s
  else (o == 0x10 || o == 0x11 || o == 0x12 || o == 0x13) && dStream e.desc == s && (e.ph == .wait || e.ph == .work)

/-- Is it the descriptor's turn on a stream: no descriptor that began earlier still has to apply its row (R304)? -/
def Work.streamTurn (w : Work) (e : Exec) (s : Nat) : Bool :=
  !(w.d.rings.execs.any fun x => decide (x.order < e.order) && x.wants s)

def Work.modLane (w : Work) (r s i : Nat) (f : Lane → Lane) : Work :=
  w.modExec r s fun e => { e with lanes := setNth e.lanes i (f (nth Lane.init e.lanes i)) }

/-- A lane is absent with a code (R306); its step index is the one its context entry holds (R76). -/
def Work.laneAbsent (w : Work) (r s i : Nat) (c : W16) : Work :=
  w.modLane r s i fun l => { l with ph := .absent, code := c, sidx := (w.ctx l.stream).sidx.toNat }

/-- A RESIDENT stream becomes BUSY for a lane, after the checks of R307 and R309; none on a generation mismatch. -/
def Work.laneBusy (w : Work) (e : Exec) (i : Nat) (l : Lane) : Option Work :=
  let c := w.ctx l.stream
  if c.model ≠ dModel e.desc then some (w.laneAbsent e.ring e.seq i 0x2109)
  else if l.egv && c.gen.toNat != l.expgen then none
  else
    let w := w.modCtx l.stream fun c => { c with st := .busy, lastUse := w.useTime }
    some (w.modLane e.ring e.seq i fun l => { l with ph := .busy, sidx := c.sidx.toNat, gen := c.gen.toNat })

/-- A lane waits on the fill of its SPILLED stream, or is absent (R303, R307, R319, R577, R771). -/
def Work.laneFill (w : Work) (e : Exec) (i : Nat) (l : Lane) : Work :=
  let c := w.ctx l.stream
  let filling := fun (w : Work) => w.modLane e.ring e.seq i fun l => { l with ph := .fill }
  match w.live? (dModel e.desc) with
  | none => w.laneAbsent e.ring e.seq i 0x2109
  | some m =>
    if c.model ≠ dModel e.desc then w.laneAbsent e.ring e.seq i 0x2109
    else if !w.partnerHeld l.stream && w.memKey.isNone then w.laneAbsent e.ring e.seq i 0x710D
    else match w.makeRoom e.ring e.seq (dDl e.desc) m.halfPages with
      | (.ok, w) =>
        filling (if w.partnerHeld l.stream then w.startPartnerFill l.stream e.ring e.seq (dDl e.desc) m
          else w.startFill l.stream e.ring e.seq (dDl e.desc) m)
      | (.later, w) => w
      | (.full, w) => w.laneAbsent e.ring e.seq i 0x2104

/-- A lane applies its row of R303 to the state it finds; none on a generation mismatch. -/
def Work.takeLane (w : Work) (r s i : Nat) : Option Work :=
  match w.exec? r s with
  | none => some w
  | some e =>
    let l := nth Lane.init e.lanes i
    if (l.ph != .wait && l.ph != .fill) || !w.streamTurn e l.stream then some w
    else match (w.ctx l.stream).st with
      | .free => some (w.laneAbsent r s i 0x2102)
      | .quarantined => some (w.laneAbsent r s i 0x2103)
      | .spilled => some (w.laneFill e i l)
      | .resident => w.laneBusy e i l
      | _ => some w

def Work.takeLanes (r s : Nat) : List Nat → Work → Option Work
  | [], w => some w
  | i :: is, w =>
    match w.takeLane r s i with
    | none => none
    | some w => Work.takeLanes r s is w

/-- Cancels a whole read: its unissued requests go, its responses are discarded. -/
def Work.cancelJob (w : Work) (k : JobKey) : Work :=
  match w.jobFor k with
  | none => w
  | some j =>
    let mine := fun (q : PortReq) => match q.user with
      | .job n _ => n == j.j
      | _ => false
    (w.mod fun d => { d with ports := { d.ports with
      cands := d.ports.cands.filter fun q => !mine q,
      out := d.ports.out.map fun q => if mine q then { q with cancelled := true } else q } }).dropJob k

/-- GEN_MISMATCH (R309): every stream returns to the state it held; an unverified fill is undone. -/
def Work.genMismatch (w : Work) (r s : Nat) : Work :=
  match w.exec? r s with
  | none => w
  | some e =>
    let w := e.lanes.foldl (fun w l =>
      if l.ph == .fill && (w.ctx l.stream).st == .filling then
        (((w.freeSlot l.stream).modCtx l.stream fun c => { c with st := .spilled }).dropArmJob l.stream).cancelJob (.fill l.stream)
      else w) w
    w.endStepWith r s ⟨0x2101, 0, 0⟩

/-- Drops a step whose deadline has passed (R527, R530). -/
def Work.dropStep (w : Work) (r s : Nat) : Work := (w.miss r s none).endStepWith r s ⟨0x5101, 0, 0⟩

/-- Deadline tests 2 to 4 (R526 to R529): a miss is logged, a step under the drop policy ends, any other goes on. -/
def Work.testDl (w : Work) (r s : Nat) (f : Work → Work) : Work :=
  match w.exec? r s with
  | none => w
  | some e =>
    if !e.passed w.tb then f w
    else if dPol e.desc && isStepOpc (dOpc e.desc) then w.dropStep r s
    else f (w.miss r s none)

/-- A step whose lanes are all BUSY or absent goes on to its cores; a CHUNK or BIWIN with an absent lane computes nothing
(R306). -/
def Work.stepReady (w : Work) (r s : Nat) : Work :=
  match w.exec? r s with
  | none => w
  | some e =>
    if e.ph != .wait || e.lanes.any fun l => l.ph == .wait || l.ph == .fill then w
    else w.testDl r s fun w =>
      match e.lanes.find? fun l => dOpc e.desc != 1 && l.ph == .absent with
      | some l => w.endStepWith r s ⟨l.code, 0, 0⟩
      | none => w.modExec r s fun e => { e with ph := .ready }

/-- Is it a lane's turn on a stream that is in no passing state: does the lane leave a wait (R304)? -/
def Work.laneTurn (w : Work) (e : Exec) (l : Lane) : Bool :=
  let st := (w.ctx l.stream).st
  (l.ph == .wait || l.ph == .fill) && w.streamTurn e l.stream && st != .filling && st != .spilling && st != .busy

/-- A step in phase 3 looks at its lanes again (R304); one that leaves a wait is tested first (R526). -/
def Work.resumeStep (w : Work) (r s : Nat) : Work :=
  match w.exec? r s with
  | none => w
  | some e =>
    let go := fun (w : Work) => match Work.takeLanes r s (List.range e.lanes.length) w with
      | none => w.genMismatch r s
      | some w => w.stepReady r s
    if e.ph != .wait then w
    else if e.lanes.any (w.laneTurn e) then w.testDl r s go
    else go w

/-- Begin of a step: its lanes, whether it is pairable (R581), and the drop of deadline test 1 (R527). -/
def beginStep (q : QDesc) (e : Exec) (w : Work) : Work :=
  let twin := w.d.rings.execs.any fun x => !isExec e.ring e.seq x && isStepOpc (dOpc x.desc) && dJob x.desc == dJob e.desc &&
    dDl x.desc == dDl e.desc && (x.ph == .wait || x.ph == .ready || x.ph == .run || x.ph == .commit)
  let pairable := dDl e.desc != 2 ^ 64 - 1 && !twin
  let lanes := q.lanes.map fun (s, g, n) => { Lane.init with stream := s, egv := g, expgen := n }
  let w := w.modExec e.ring e.seq fun e => { e with ph := .wait, lanes := lanes, stage := b2n pairable }
  if e.passed w.tb && dPol e.desc then w.endStepWith e.ring e.seq ⟨0x5101, 0, 0⟩ else w.resumeStep e.ring e.seq

/-- STEP, CHUNK and BIWIN rows: the ring's next descriptor begins if it has the opcode. -/
def stepRow (opc r : Nat) (w : Work) : Work :=
  match w.mayBegin r with
  | none => w
  | some q => beginRow (fun d => dOpc d == opc) stepPre (beginStep q) r w

-- Cores (R524, R173, R255, R383, R595, R604) --------------------------------------------------------------------------------------

/-- May a step's copy start on a core with a slot image? -/
def Work.coreFree (w : Work) (e : Exec) (p : Nat) (img : SlotImg) : Bool :=
  let k := w.core p
  k.cur.isNone && k.mq.retest.isNone && !k.lost && decide (e.bankEp ≤ k.tables.switches) && !k.lockedFor img

/-- A step that is ready with every core it needs free: its primary and checker cores. -/
def Work.grantable (w : Work) (e : Exec) : Option (List Nat × List Nat) :=
  if e.ph != .ready || !isStepOpc (dOpc e.desc) || w.killHeld (dJob e.desc) then none
  else match w.model? (dModel e.desc) with
    | none => none
    | some m =>
      let n := m.slots.length
      let a := w.d.boot.coreMap.take n
      let b := w.checkerCores e.redun n
      if a.length = n && (!e.redun || b.length == n) &&
          ((a ++ b).zip (m.slots ++ m.slots)).all fun x => w.coreFree e x.1 x.2 then some (a, b)
      else none

/-- Highest PRIO, then earliest DL, then earliest begin (R524). -/
def grantLe (x y : Exec) : Bool :=
  decide (dPrio y.desc < dPrio x.desc) ||
  (dPrio x.desc == dPrio y.desc && (decide (dDl x.desc < dDl y.desc) || (dDl x.desc == dDl y.desc && decide (x.order ≤ y.order))))

/-- The execution state of R173, R349, R352 and R357 on a core; every thread's timebase latch holds the time of the begin (R170). -/
def Core.beginStep (k : Core) (c : Cur) (h : Nat) (img : SlotImg) (now : Nat) : Core :=
  let t := { Thread.init with tbHi := w32 (now / 2 ^ 32) }
  let opens : Tab Bool := (List.range 32).foldl (fun t i =>
    let x := nth Window.init img.windows i
    tabSet false t i (x.valid && x.open0)) []
  { k with threads := { t with pc := img.entry, st := .running } :: List.replicate 7 t, vec := ⟨[], [], []⟩,
           flags := XFlags.init, scratch := [], land := { LandState.init with opens := opens },
           plinth := { k.plinth with slots := [], tags := [], chains := [] }, queue := [], mmas := [], gather := [],
           cache := (if k.lastModel = h then k.cache else []), lastModel := h, lastSlot := c.slot, cur := some { c with begun := true } }

/-- A step begins on a core granted to it; remote and span stores that came early land (R365, R580). -/
def Work.beginCore (w : Work) (p : Nat) : Work :=
  match w.ctxOf p with
  | none => w
  | some c =>
    if c.cur.begun then w
    else ((w.modCore p fun k => k.beginStep c.cur c.m.handle c.img w.now).landEarly p).landHeld c.e

/-- Grants a step its cores: they are its own from now on; written masks are clear; earlier held span stores drop (R580). -/
def Work.startStep (w : Work) (e : Exec) (a b : List Nat) : Work :=
  let take := fun (checker : Bool) (w : Work) (x : Nat × Nat) =>
    w.modCore x.1 fun k => { k with cur := some ⟨e.ring, e.seq, x.2, checker, false, false⟩ }
  let w := a.zipIdx.foldl (take false) w
  let w := b.zipIdx.foldl (take true) w
  let w := e.lanes.foldl (fun w l =>
    if l.ph == .busy then
      w.modArm fun x => { x with slots := tabMod SSlot.init x.slots (w.ctx l.stream).sslot fun s => { s with written := [] } }
    else w) w
  (w.modExec e.ring e.seq fun e => { e with ph := .run, cores := a, checker := b }).dropOlder e

/-- Cores granted to a step that has not begun there, but for those held back (a bit mask). -/
def Work.toBegin (w : Work) (hold : Nat) : List Nat :=
  (List.range 32).filter fun p => !bitOf hold p && (w.core p).cur.any fun c => !c.begun

/-- CORES_GRANTED: the first of the ready steps takes its cores (R524) and begins on all but those in `hold`, where it begins with a
later CORES_GRANTED (R365; log entry 5). -/
def coresGranted (hold : Nat) (w : Work) : Work :=
  match w.toBegin hold with
  | p :: ps => (p :: ps).foldl Work.beginCore w
  | [] =>
    match sortBy grantLe (w.d.rings.execs.filter fun e => (w.grantable e).isSome) with
    | [] => w
    | e :: _ =>
      match w.grantable e with
      | some (a, b) => w.testDl e.ring e.seq fun w =>
        let w := w.startStep e a b
        (w.toBegin hold).foldl Work.beginCore w
      | none => w

-- The commit (R38, R39, R321, R324, R518, R598) -------------------------------------------------------------------------------------

/-- Folds words of 64 bits into a digest (R597). -/
def foldDigests (ds : List Nat) : Nat := ds.foldl (fun d x => (leBytes 8 x).foldl crc64Byte d) 0
/-- The digest of a copy (R597). -/
def Work.copyDigest (w : Work) (cs : List Nat) : Nat :=
  foldDigests (cs.map fun p => foldDigests ((List.range 8).map fun t => (w.thread p t).digest))

/-- Elements the step did not write keep the value of the previous generation (R321). -/
def Work.keepUnwritten (w : Work) (s : Nat) (m : Model) : Work :=
  let c := w.ctx s
  let sl := w.sslot c.sslot
  let from_ := sl.pagesOf c.half
  let dst := sl.pagesOf (!c.half)
  (List.range m.elems).foldl (fun w e =>
    if tabGet false sl.written e then w
    else match elemAt m.layers 0 e with
      | some (fmt, off) => w.writeHalf dst off (w.halfBytes from_ off (fmtWidth fmt))
      | none => w) w

/-- One lane commits (R303, R308, R321) or counts as poisoned (R325); what a poisoned lane's code is stays open where
no input report names it. -/
def Work.commitLane (w : Work) (e : Exec) (m : Model) (i : Nat) : Work :=
  let l := nth Lane.init e.lanes i
  if l.ph != .busy then w
  else if l.poisoned then
    let w := w.countPoison l.stream e.qthr true .resident (some e.who)
    if (w.ctx l.stream).st == .quarantined then w.modLane e.ring e.seq i fun l => { l with code := 0x2103 }
    else if e.inrep ≠ 0 then w.modLane e.ring e.seq i fun l => { l with code := e.inrep }
    else
      let (n, w) := w.fresh
      w.modLane e.ring e.seq i fun l => { l with code := (Config.freeValue n).setWidth 16 }
  else
    let w := w.keepUnwritten l.stream m
    let step := if dOpc e.desc = 1 then 1 else dLen e.desc
    let w := w.modCtx l.stream fun c => { c with
      st := .resident, half := !c.half, gen := c.gen + 1, sidx := c.sidx + BitVec.ofNat 48 step, spillCur := false, prun := 0,
      lastUse := w.useTime }
    let w := w.modArm fun x => { x with
      slots := tabMod SSlot.init x.slots (w.ctx l.stream).sslot (fun s => { s with written := [] }),
      passes := x.passes ++ [w.ctx l.stream |> fun c => ⟨l.stream, c.dlo, c.dhi, c.driftK, c.driftEn⟩] }
    w.modLane e.ring e.seq i fun l => { l with committed := true }

/-- The outcome of a step that committed what it could (R518, R422, R433, R434). -/
def stepOutcome (e : Exec) : Outc :=
  match e.sfail with
  | some o => o
  | none =>
    match e.lanes.zipIdx.find? fun x => !x.1.committed with
    | some (l, i) => ⟨0, l.code, w32 i⟩
    | none => ⟨e.inrep, 0, 0⟩

/-- The commit proper: lanes in ascending order, cores free, statuses, record. The STOREs of a BIWIN window issue their writes from
now on (R286). -/
def Work.commitStep (w : Work) (e : Exec) (m : Model) : Work :=
  let r := e.ring
  let s := e.seq
  let w := (List.range e.lanes.length).foldl (fun w i => w.commitLane e m i) w
  let report := ((e.cores ++ e.checker).map fun p => (w.core p).flags.report).foldl Flags.or e.flags
  let w := (if dOpc e.desc = 3 then w else w.endStreams r s).endCores e false
  let w := w.modExec r s fun e => { e with ph := .commit, flags := report }
  match w.exec? r s with
  | none => w
  | some e =>
    let n := (e.lanes.filter Lane.committed).length
    let result := if dOpc e.desc = 1 then n else if n = 0 then 0 else dLen e.desc
    (w.writeBatch r s).finish r s (stepOutcome e) (w32 result) (w.lanesWord e)

/-- COMMIT_POINT. -/
def commitPoint (r s : Nat) (w : Work) : Work :=
  match w.exec? r s with
  | none => w
  | some e =>
    let ended := (e.cores ++ e.checker).all fun p => match (w.core p).cur with
      | some c => c.ring == r && c.seq == s && c.ended
      | none => false
    let waits := w.killHeld (dJob e.desc) || e.lanes.any fun l => l.ph == .busy && !l.poisoned && w.passDue l.stream
    if !isStepOpc (dOpc e.desc) || e.ph != .run || !ended || waits then w
    else match w.model? (dModel e.desc) with
      | none => w
      | some m => w.testDl r s fun w =>
        if !e.checker.isEmpty && w.copyDigest e.cores != w.copyDigest e.checker then
          let d := w32 (nth 0 e.cores 0 * 256 + m.slots.length)
          (w.raiseSafety 0x8103 d (e.cores ++ e.checker) (some e.who)).endStepWith r s ⟨0x8103, 0, d⟩
        else w.commitStep ((w.exec? r s).getD e) m

/-- DEADLINE_PASSED: a real-time descriptor's deadline passes. One that waits, a TFENCE for its switches too, has missed it and is
tested as it leaves the wait; a step that computes is tested at once (R526 to R530). -/
def deadlinePassed (r s : Nat) (w : Work) : Work :=
  match w.exec? r s with
  | none => w
  | some e =>
    if !e.passed w.tb then w
    else match e.ph with
      | .wait => w.miss r s none
      | .ready => w.miss r s none
      | .run => w.testDl r s id
      | .work => if dOpc e.desc = 0x22 then w.miss r s none else w
      | _ => w

/-- Ends, with a code, every begun step that is not past its commit and maps to a core (R52). -/
def Work.failStepsOn (w : Work) (p : Nat) (c : W16) (detail : W32) : Work :=
  (w.d.rings.execs.filter fun e => isStepOpc (dOpc e.desc) && (e.ph == .wait || e.ph == .ready || e.ph == .run) &&
      (w.coresOf e).any (· == p)).foldl (fun w e => w.failStep e.ring e.seq c detail) w

/-- STEP (R276). -/
def execStep (ring : Nat) (s : State) : Host.Outcome State Fault Refusal := run (stepRow 1 ring) s
/-- CHUNK (R278). -/
def execChunk (ring : Nat) (s : State) : Host.Outcome State Fault Refusal := run (stepRow 2 ring) s
/-- BIWIN (R283). -/
def execBiwin (ring : Nat) (s : State) : Host.Outcome State Fault Refusal := run (stepRow 3 ring) s
/-- CORES_GRANTED (R524). -/
def execCoresGranted (s : State) (hold : Nat := 0) : Host.Outcome State Fault Refusal := run (coresGranted hold) s
/-- COMMIT_POINT (R38). -/
def execCommitPoint (ring seq : Nat) (s : State) : Host.Outcome State Fault Refusal := run (commitPoint ring seq) s
/-- DEADLINE_PASSED (R526). -/
def execDeadlinePassed (ring seq : Nat) (s : State) : Host.Outcome State Fault Refusal := run (deadlinePassed ring seq) s

end Sys2Proof.Machine
end

