-- ==== Sys2Proof/Machine/Rings.lean ====
section
/-! DEFINITION. The doorbell poller and ring fetcher (R495 to R503, R508, R509), and the FENCE and NOP descriptors. -/

-- Declarations are elaborated one after another: side by side, each would hold a thread and its stack.
set_option Elab.async false

namespace Sys2Proof.Machine

-- The poller (R495 to R499) -----------------------------------------------------------------------------------------------------

def Work.anySqOn (w : Work) : Bool := (List.range 64).any w.sqOn
/-- Is a doorbell read in progress? -/
def Work.polling (w : Work) : Bool := (w.jobFor .doorbell).isSome
/-- Issues a read of the doorbell page: two 256-byte requests on port 0 (R389, R496). -/
def Work.poll (w : Work) : Work := w.readHost .doorbell (w.cfgAddr 0x500) 512 (some 0) 0 0

/-- DOORBELL_POLL_TIMER (R497). -/
def doorbellPollTimer (w : Work) : Work := if w.anySqOn && w.d.sec.quiesce.isNone then w.poll else w

/-- NUDGE (R498). -/
def nudge (w : Work) : Work :=
  if !w.anySqOn || w.d.sec.quiesce.isSome then w
  else if w.polling then w.modRings fun g => { g with again := true }
  else w.poll

/-- Takes STAIL of a ring (R499). -/
def Work.takeTail (w : Work) (r v : Nat) : Work :=
  if !w.sqOn r then w
  else if v < w.sqSize r then w.modSq r fun q => { q with stail := v }
  else if (w.sq r).badTail.any (· == v) then w
  else (w.modSq r fun q => { q with badTail := v :: q.badTail }).logCode 0x1007 0

/-- Takes CHEAD of a completion ring; completions that waited for an entry write their records (R499, R520). -/
def Work.takeHead (w : Work) (k v : Nat) : Work :=
  if !w.cqOn k then w
  else if v < w.cqSize k then
    let w := w.modCq k fun c => { c with chead := v }
    (w.d.rings.execs.filter fun e => e.ph == .blocked && w.cqOf e.ring == k).foldl (fun w e => w.settle e.ring e.seq) w
  else if (w.cq k).badHead.any (· == v) then w
  else (w.modCq k fun c => { c with badHead := v :: c.badHead }).logCode 0x1007 0

/-- DOORBELL_PAGE_READ: a failed or poisoned read takes nothing; a nudge that came during it asks for one more while a submission
ring is enabled (R497, R498). -/
def doorbellPageRead (w : Work) : Work :=
  match w.takeJob .doorbell with
  | none => w
  | some (bytes, w) =>
    let w := match bytes with
      | none => w
      | some b => (List.range 64).foldl (fun w r =>
          let x := word64 b (8 * r)
          (w.takeTail r (bitsOf x 0 16)).takeHead r (bitsOf x 32 16)) w
    let w :=
      if !w.d.rings.again || w.polling then w
      else
        let w := w.modRings fun g => { g with again := false }
        if w.anySqOn && w.d.sec.quiesce.isNone then w.poll else w
    w.fetchAll

-- The fetcher (R500 to R503, R509, R535) -------------------------------------------------------------------------------------------

/-- The code a fetched descriptor completes with at once, and whether a KILL that has taken effect ends it (R535); 0000h to queue
it, as while a KILL of its job waits for its ledger entry. -/
def Work.fetchCode (w : Work) (d : List Byte) : W16 × Bool :=
  if !descCrcOk d then (0x1001, false)
  else if !knownOpc (dOpc d) then (0x1003, false)
  else if !formatOk d || (dOpc d = 0x40 && !knownFunc (dFunc d)) then (0x1002, false)
  else if w.killActive (dJob d) then (0x1005, true)
  else (0, false)

/-- The ring once one more descriptor is fetched from it (R493). -/
def Work.fetchedRing (w : Work) (r : Nat) : SqRing :=
  let q := w.sq r
  { q with head := (q.head + 1) % w.sqSize r, seq := nextKey q.seq, fetchedAny := true }

/-- One descriptor fetched: numbered, checked, queued; a STEP's batch list is read (R493, R502, R503, R509). An armed CRC
failure is one of its CRC (R623). -/
def Work.fetched (w : Work) (r : Nat) (d : List Byte) : Work :=
  let q := w.sq r
  let next := w.fetchedRing r
  let armed := w.takeArmedArg 8 r
  let w := armed.getD w
  let c := if armed.isSome then (0x1001, false) else w.fetchCode d
  if c.1 ≠ 0 then (w.modSq r fun _ => next).unbegun r q.seq d c.1 c.2
  else
    let w := w.modSq r fun _ => { next with queue := q.queue ++ [⟨q.seq, d, none⟩] }
    if dOpc d = 1 then w.readHost (.batch r q.seq) (dBlist d) (16 * dLen d) (some (r % 8)) 0 1 else w

/-- A descriptor whose read failed completes with DESC_READ; what OPC, JOB and DL read as stays open. -/
def Work.fetchedBad (w : Work) (r : Nat) (cause : W16) (detail : W32) : Work :=
  let q := w.sq r
  let w := w.modSq r fun _ => w.fetchedRing r
  let (n, w) := w.fresh
  w.unbegunWith r q.seq (leBytes 4 (Config.freeValue n).toNat ++ List.replicate 60 0) ⟨0x3105, cause, detail⟩ false

/-- DESCRIPTOR_FETCH: the oldest read of the ring has returned; its descriptors are taken in ring order. -/
def descriptorFetch (r : Nat) (w : Work) : Work :=
  let mine := fun (j : ReadJob) => match j.key with
    | .descs a _ _ => a == r
    | _ => false
  match w.d.ports.jobs.find? mine with
  | none => w
  | some j =>
    match w.takeJob j.key with
    | none => w
    | some (bytes, w) =>
      let n := j.len / 64
      let w := match bytes with
        | none => (List.range n).foldl (fun (w : Work) _ => w.fetchedBad r j.cause j.detail) w
        | some b => (List.range n).foldl (fun w i => w.fetched r (sliceAt b (64 * i) 64)) w
      w.rescan.fetchAll

/-- Takes a descriptor that has not begun out of its queue. -/
def Work.unqueue (w : Work) (r s : Nat) : Work := w.modSq r fun q => { q with queue := q.queue.filter fun x => x.seq != s }

/-- BATCH_LIST_READ (R508, R509). -/
def batchListRead (r s : Nat) (w : Work) : Work :=
  match w.jobFor (.batch r s), w.takeJob (.batch r s) with
  | some j, some (bytes, w) =>
    match (w.sq r).queue.find? fun q => q.seq == s with
    | none => w
    | some q =>
      match bytes with
      | none => (w.unqueue r s).unbegunWith r s q.desc ⟨0x3105, j.cause, j.detail⟩ false
      | some b =>
        let ids := (List.range (dLen q.desc)).map fun i => (batchEntry b i).1
        if ids.eraseDups.length < ids.length then (w.unqueue r s).unbegun r s q.desc 0x210A false
        else w.modSq r fun x => { x with queue := x.queue.map fun y => if y.seq = s then { y with batch := some b } else y }
  | _, _ => w

-- FENCE and NOP (R531, R505) ------------------------------------------------------------------------------------------------------

/-- FENCE. -/
def fenceRow (r : Nat) (w : Work) : Work :=
  beginRow (fun d => dOpc d == 0x30) noPre
    (fun e w => (w.modExec e.ring e.seq fun e => { e with ph := .wait }).rescan) r w

/-- NOP. -/
def nopRow (r : Nat) (w : Work) : Work :=
  beginRow (fun d => dOpc d == 0x3F) noPre (fun e w => w.finishCode e.ring e.seq 0) r w

/-- DOORBELL_POLL_TIMER (R497). -/
def execDoorbellPollTimer (s : State) : Host.Outcome State Fault Refusal := run doorbellPollTimer s
/-- NUDGE (R498). -/
def execNudge (s : State) : Host.Outcome State Fault Refusal := run nudge s
/-- DOORBELL_PAGE_READ (R499). -/
def execDoorbellPageRead (s : State) : Host.Outcome State Fault Refusal := run doorbellPageRead s
/-- DESCRIPTOR_FETCH (R500). -/
def execDescriptorFetch (ring : Nat) (s : State) : Host.Outcome State Fault Refusal := run (descriptorFetch ring) s
/-- BATCH_LIST_READ (R509). -/
def execBatchListRead (ring seq : Nat) (s : State) : Host.Outcome State Fault Refusal := run (batchListRead ring seq) s
/-- FENCE (R531). -/
def execFence (ring : Nat) (s : State) : Host.Outcome State Fault Refusal := run (fenceRow ring) s
/-- NOP (R505). -/
def execNop (ring : Nat) (s : State) : Host.Outcome State Fault Refusal := run (nopRow ring) s

end Sys2Proof.Machine
end

