-- ==== Sys2Proof/Machine/Digests.lean ====
section
/-! DEFINITION. The pendant's digest exchange (12 R564 to R567). -/

-- Declarations are elaborated one after another: side by side, each would hold a thread and its stack.
set_option Elab.async false

namespace Sys2Proof.Machine

/-- Counts an entry beyond the 8,192 and raises DIGEST_OVERFLOW at most once per ms, which the heartbeat timers count off (R567,
R569; log entry 82). -/
def Work.digestOverflow (w : Work) : Work :=
  let w := w.modPeer fun p => { p with ovf := satAdd 65535 p.ovf 1 }
  if w.d.peer.ovfLeft = 0 then (w.modPeer fun p => { p with ovfLeft := 100 }).logCode 0x6109 0 else w

def Work.digestRoom (w : Work) : Bool := decide (w.d.peer.digOwn.length + w.d.peer.digRx.length < 8192)

def DigEntry.same (a b : DigEntry) : Bool := a.stream == b.stream && a.gen == b.gen

/-- Compares a held own entry with a received one (R566): both go; a second copy of the received one is ignored (R564). -/
def Work.digestCompare (w : Work) (own rx : DigEntry) : Work :=
  let w := w.modPeer fun p => { p with
    digOwn := p.digOwn.filter (· != own)
    digRx := p.digRx.filter (· != rx)
    digDone := rx :: p.digDone.filter fun x => !rx.same x }
  if own.digest = rx.digest then w
  else
    let w := w.modPeer fun p => { p with mismatch := satAdd 65535 p.mismatch 1 }
    w.raiseSafety 0x8110 (w32 own.stream) [] none

/-- Sends up to 64 queued entries on both links (R564). -/
def Work.sendDigests (w : Work) : Work :=
  let es := w.d.peer.digQ.take 64
  if es.isEmpty then w
  else
    let w := w.modPeer fun p => { p with digQ := p.digQ.drop 64 }
    w.sendBoth w.partnerPos 4 { a := es.length }
      (es.flatMap fun e => leBytes 4 e.stream ++ leBytes 4 e.gen.toNat ++ leBytes 8 e.digest.toNat)

/-- A commit's digest is queued, and held where the stream is in sync (R564, R565). -/
def Work.ownDigest (w : Work) (e : DigEntry) : Work :=
  if w.peerMode ≠ 1 || !w.paired w.partnerPos then w
  else
    let w := w.modPeer fun p => { p with
      digQ := p.digQ ++ [e]
      digDone := p.digDone.filter fun x => !e.same x }
    let w := if w.d.peer.digQ.length < 64 then w else w.sendDigests
    if !tabGet false w.d.peer.sync e.stream then w
    else match w.d.peer.digRx.find? e.same with
      | some x => w.digestCompare e x
      | none => if w.digestRoom then w.modPeer fun p => { p with digOwn := p.digOwn ++ [e] } else w.digestOverflow

/-- A received entry (R564 to R567). -/
def Work.rxDigest (w : Work) (e : DigEntry) : Work :=
  if !tabGet false w.d.peer.sync e.stream || (w.d.peer.digRx ++ w.d.peer.digDone).any (· == e) then w
  else match w.d.peer.digOwn.find? e.same with
    | some x => w.digestCompare x e
    | none => if w.digestRoom then w.modPeer fun p => { p with digRx := p.digRx ++ [e] } else w.digestOverflow

/-- DIGEST_SEND_TIMER (R564). -/
def execDigestSendTimer (s : State) : Host.Outcome State Fault Refusal := run Work.sendDigests s

end Sys2Proof.Machine
end

