-- ==== Sys2Proof/Machine/ArmatureRows.lean ====
section
/-! DEFINITION. BIND, RELEASE, FILL and SPILL, and what the Armature's traffic brings (07 R303 to R330, R506). -/

-- Declarations are elaborated one after another: side by side, each would hold a thread and its stack.
set_option Elab.async false

namespace Sys2Proof.Machine

/-- A descriptor on one stream completes; LANES is the stream's generation, zero for a RELEASE (R517). -/
def Work.finishStream (w : Work) (e : Exec) (o : Outc) : Work :=
  w.finish e.ring e.seq o 0 (if dOpc e.desc = 0x11 then 0 else w.lanesWord e)
def Work.finishStreamCode (w : Work) (e : Exec) (c : W16) : Work := w.finishStream e ⟨c, 0, 0⟩

/-- A descriptor waits, or applies its row of R303 once it is its turn (R304); a missed deadline is logged as it leaves the
wait (R526). -/
def Work.onStream (w : Work) (r s : Nat) (f : Exec → CtxEntry → Work → Work) : Work :=
  match w.exec? r s with
  | none => w
  | some e =>
    let c := w.ctx (dStream e.desc)
    let busy := c.st == .filling || c.st == .spilling || c.st == .busy
    if e.ph != .wait || e.stage ≠ 0 || busy || !w.streamTurn e (dStream e.desc) then w
    else f e c (if e.passed w.tb then w.miss r s none else w)

-- BIND (R303, R307, R506) --------------------------------------------------------------------------------------------------------

def dInit (d : List Byte) : Nat := bitsOf (dW d 4) 0 2
def dIdx (d : List Byte) : BitVec 48 := BitVec.ofNat 48 (dW d 0x18 + bitsOf (dW d 0x1C) 0 16 * 2 ^ 32)

/-- The context entry a BIND writes. -/
def bindEntry (d : List Byte) (st : StreamSt) (slot : Nat) : CtxEntry :=
  { CtxEntry.init with model := dModel d, gen := w32 (dW d 0x14), sidx := dIdx d, spill := word64 d 0x20 / 512, st := st,
                       spillCur := st == .spilled, sslot := slot }

/-- The stream is bound: its entry is written and its sync bit sets (R565). -/
def Work.bound (w : Work) (e : Exec) (st : StreamSt) : Work :=
  let s := dStream e.desc
  let slot := (w.ctx s).sslot
  let w := w.modCtx s fun _ => bindEntry e.desc st slot
  let w := w.modPeer fun p => { p with sync := tabSet false p.sync s true }
  w.finishStreamCode e 0

/-- BIND applies to the stream it finds: a quarantined one gives STREAM_QUAR, any other that is not FREE STREAM_STATE (R303). -/
def Work.bindNow (e : Exec) (c : CtxEntry) (w : Work) : Work :=
  let s := dStream e.desc
  if c.st = .quarantined then w.finishStreamCode e 0x2103
  else if c.st != .free then w.finishStreamCode e 0x2102
  else match w.live? (dModel e.desc) with
    | none => w.finishStreamCode e 0x2109
    | some m =>
      if dInit e.desc = 2 then
        (if word64 e.desc 0x20 = 0 then w.finishStreamCode e 0x2108 else w.bound e .spilled)
      else match w.makeRoom e.ring e.seq (dDl e.desc) m.halfPages with
        | (.later, w) => w
        | (.full, w) => w.finishStreamCode e 0x2104
        | (.ok, w) =>
          let w := w.allocSlot s m.halfPages
          if dInit e.desc = 0 then w.bound e .resident
          else
            let w := w.modExec e.ring e.seq fun e => { e with ph := .work, stage := 1 }
            w.readHost (.desc e.ring e.seq) (word64 e.desc 0x28) (2048 * m.halfPages) none (dDl e.desc) 2

/-- The plain initial state has been read (R307). A model unloaded or an entry quarantined meanwhile ends the BIND with its code. -/
def Work.bindData (w : Work) (e : Exec) (bytes : Option (List Byte)) (cause : W16) (detail : W32) : Work :=
  let s := dStream e.desc
  if (w.live? (dModel e.desc)).isNone then (w.freeSlot s).finishStreamCode e 0x2109
  else if (w.ctx s).st != .free then (w.freeSlot s).finishStreamCode e 0x2103
  else match bytes with
    | some b => (w.writeHalf ((w.sslot (w.ctx s).sslot).pagesOf false) 0 b).bound e .resident
    | none => (w.freeSlot s).finishStream e ⟨0x3105, cause, detail⟩

-- RELEASE, FILL, SPILL (R303, R309, R313, R506) -------------------------------------------------------------------------------------

def Work.releaseNow (e : Exec) (c : CtxEntry) (w : Work) : Work :=
  if c.st = .free then w.finishStreamCode e 0x2102 else (w.releaseStream (dStream e.desc)).finishStreamCode e 0

def Work.fillNow (e : Exec) (c : CtxEntry) (w : Work) : Work :=
  let s := dStream e.desc
  let stale := dEgv e.desc && c.gen.toNat != dExpgen e.desc
  match c.st with
  | .free => w.finishStreamCode e 0x2102
  | .quarantined => w.finishStreamCode e 0x2103
  | .resident => w.finishStreamCode e (if stale then 0x2101 else 0)
  | _ =>
    if stale then w.finishStreamCode e 0x2101
    else if !w.partnerHeld s && w.memKey.isNone then w.finishStreamCode e 0x710D
    else match w.live? c.model with
      | none => w.finishStreamCode e 0x2109
      | some m =>
        match w.makeRoom e.ring e.seq (dDl e.desc) m.halfPages with
        | (.later, w) => w
        | (.full, w) => w.finishStreamCode e 0x2104
        | (.ok, w) =>
          let w := w.modExec e.ring e.seq fun e => { e with stage := 1 }
          if w.partnerHeld s then w.startPartnerFill s e.ring e.seq (dDl e.desc) m
          else w.startFill s e.ring e.seq (dDl e.desc) m

def Work.spillNow (e : Exec) (c : CtxEntry) (w : Work) : Work :=
  let s := dStream e.desc
  let setAddr := bitOf (dW e.desc 0x10) 30
  match c.st with
  | .free => w.finishStreamCode e 0x2102
  | .quarantined => w.finishStreamCode e 0x2103
  | .spilled => w.finishStreamCode e (if setAddr then 0x2102 else 0)
  | _ =>
    if w.passDue s then w
    else if dEgv e.desc && c.gen.toNat != dExpgen e.desc then w.finishStreamCode e 0x2101
    else
      let w := if setAddr then w.modCtx s fun c => { c with spill := word64 e.desc 0x18 / 512, spillCur := false } else w
      let c := w.ctx s
      if c.spill = 0 then w.finishStreamCode e 0x2108
      else if c.spillCur then ((w.freeSlot s).modCtx s fun c => { c with st := .spilled }).finishStreamCode e 0
      else if w.memKey.isNone then w.finishStreamCode e 0x710D
      else (w.modExec e.ring e.seq fun e => { e with stage := 1 }).startSpill s e.ring e.seq (dDl e.desc) false

/-- A descriptor on one stream looks at it (again). -/
def Work.resumeStreamOp (w : Work) (r s : Nat) : Work :=
  w.onStream r s fun e c w =>
    match dOpc e.desc with
    | 0x10 => Work.bindNow e c w
    | 0x11 => Work.releaseNow e c w
    | 0x12 => Work.fillNow e c w
    | 0x13 => Work.spillNow e c w
    | _ => w

/-- A row of one of these opcodes. -/
def streamRow (opc r : Nat) (w : Work) : Work :=
  beginRow (fun d => dOpc d == opc) noPre
    (fun e w => (w.modExec e.ring e.seq fun e => { e with ph := .wait }).resumeStreamOp e.ring e.seq) r w

-- Fills (R314 to R316) ----------------------------------------------------------------------------------------------------------------

/-- The earliest step that waits on a stream looks at its lanes, the stream having left FILLING. -/
def Work.wakeStep (w : Work) (s : Nat) : Work :=
  match sortBy (fun a b => decide (a.order ≤ b.order)) (w.d.rings.execs.filter fun e => e.wants s) with
  | [] => w
  | e :: _ => if isStepOpc (dOpc e.desc) then w.resumeStep e.ring e.seq else w

/-- The FILL descriptor a fill serves, if it is one's. -/
def Work.fillOwner (w : Work) (j : ArmJob) : Option Exec :=
  match w.exec? j.ring j.seq with
  | some e => if e.ph == .wait then some e else none
  | none => none

/-- A fill is verified: the payload goes into the inactive half, which HALF then selects (R303, R314). -/
def Work.fillDone (w : Work) (j : ArmJob) (payload : List Byte) : Work :=
  let s := j.stream
  let c := w.ctx s
  let w := w.writeHalf ((w.sslot c.sslot).pagesOf (!c.half)) 0 payload
  let w := w.modCtx s fun c => { c with half := !c.half, st := .resident }
  let w := w.modPeer fun p => { p with partner := tabSet false p.partner s false }
  let w := (w.dropArmJob s).leave s
  let w := match w.fillOwner j with
    | some e =>
      if dOpc e.desc = 0x12 then w.finishStreamCode e 0
      else w.modExec e.ring e.seq fun e => { e with lanes := e.lanes.map fun (l : Lane) =>
        if l.stream = s && l.ph == LanePh.fill then { l with filled := true } else l }
    | none => w
  (w.wakeStep s).rescan

/-- A fill fails (R303, R316, R325, R577): the waiting lane is absent with the code. `poisoned` says whether it counts for PRUN. -/
def Work.fillLost (w : Work) (j : ArmJob) (o : Outc) (poisoned : Bool) : Work :=
  let s := j.stream
  let owner := w.fillOwner j
  let w := if poisoned then
      w.countPoison s ((owner.map Exec.qthr).getD (fld (w.cfg 0x400) 4 4)) false .spilled (owner.map Exec.who)
    else (w.freeSlot s).modCtx s fun c => { c with st := .spilled }
  let w := (w.dropArmJob s).leave s
  let w := match owner with
    | none => w
    | some e =>
      if dOpc e.desc = 0x12 then w.finishStream e o
      else
        let sidx := (w.ctx s).sidx.toNat
        let w := w.modExec e.ring e.seq fun e => { e with lanes := e.lanes.map fun (l : Lane) =>
          if l.stream = s && l.ph == LanePh.fill then { l with ph := .absent, code := o.code, sidx := sidx } else l }
        w.resumeStep e.ring e.seq
  w.rescan

/-- What a fill from host memory has come to: none while it reads, else its payload or why it fails. -/
def Work.fillResult (w : Work) (s : Nat) : Option (Except Outc (List Byte)) :=
  match w.jobFor (.fill s), w.memKey, w.model? (w.ctx s).model with
  | some j, some key, some m =>
    if !j.ready then none
    else if j.bad then some (.error ⟨0x3122, j.cause, j.detail⟩)
    else match openRecord key s (w.ctx s) m j.bytes with
      | some p => some (.ok p)
      | none => some (.error ⟨0x2105, 0, 0⟩)
  | _, _, _ => none

/-- FILL_VERIFIED. -/
def fillVerified (s : Nat) (w : Work) : Work :=
  match w.armJob s, w.fillResult s with
  | some j, some (.ok p) => if j.isFill then (w.dropJob (.fill s)).fillDone j p else w
  | _, _ => w

/-- FILL_FAILED. -/
def fillFailed (s : Nat) (w : Work) : Work :=
  match w.armJob s, w.fillResult s with
  | some j, some (.error o) => if j.isFill then (w.dropJob (.fill s)).fillLost j o true else w
  | _, _ => w

-- Spills (R303, R313, R319) --------------------------------------------------------------------------------------------------------------

/-- The SPILL descriptor a spill serves. -/
def Work.spillOwner (w : Work) (j : ArmJob) : Option Exec :=
  match w.exec? j.ring j.seq with
  | some e => if !j.evict && e.ph == .wait && dOpc e.desc == 0x13 then some e else none
  | none => none

/-- SPILL_WRITES_ACCEPTED. -/
def spillWritesAccepted (s : Nat) (w : Work) : Work :=
  match w.armJob s with
  | none => w
  | some j =>
    if j.isFill || !j.ok || w.pendingUser (.spill s) then w
    else
      let w := (w.freeSlot s).modCtx s fun c => { c with st := .spilled, spillCur := true }
      let w := match w.spillOwner j with
        | some e => w.finishStreamCode e 0
        | none => w
      ((w.dropArmJob s).leave s).rescan

/-- SPILL_FAIL: the stream stays; an eviction that fails is reported under the descriptor that caused it and excluded for it
(R319). -/
def spillFail (s : Nat) (w : Work) : Work :=
  match w.armJob s with
  | none => w
  | some j =>
    if j.isFill || j.ok || w.pendingUser (.spill s) then w
    else
      let w := w.modCtx s fun c => { c with st := .resident, spillCur := false }
      let w := if j.evict then
          (w.raise ((0x3121, w32 s) :: (if j.cause = 0 then [] else [(j.cause, j.detail)])) (if j.ring < 64 then some (j.ring, j.seq, j.job) else none)).modArm fun a =>
            { a with noEvict := (j.ring, j.seq, s) :: a.noEvict }
        else w
      let w := match w.spillOwner j with
        | some e => w.finishStream e ⟨0x3121, j.cause, j.detail⟩
        | none => w
      ((w.dropArmJob s).leave s).rescan

-- Pages, digest passes, patrol (R302, R320, R323, R327 to R329) ------------------------------------------------------------------------

/-- PAGE_ZEROED: the page holds zeros and is free. -/
def pageZeroed (k : Nat) (w : Work) : Work :=
  if tabGet 0 w.d.arm.pages k = 2 then
    (w.clearRange 0 3 (2048 * k) 2048).modArm fun a => { a with pages := tabSet 0 a.pages k 0 }
  else w

/-- The magnitude of an element as a binary32 word, +infinity for a NaN (R327). -/
def driftMag (v : W32) : W32 :=
  let m := v &&& 0x7FFFFFFF#32
  if 0x7F800000 < m.toNat then 0x7F800000 else m

/-- The drift norm of a state (R327). -/
def driftNorm (m : Model) (st : List Byte) : W32 :=
  (List.range m.elems).foldl (fun a e =>
    match elemAt m.layers 0 e with
    | some (fmt, off) =>
      let v := driftMag (loadElem fmt (sliceAt st off (fmtWidth fmt)))
      if a.toNat < v.toNat then v else a
    | none => a) 0

/-- Is a norm out of band (R328)? Bounds are BF16; a comparison with a NaN bound is false. -/
def outOfBand (norm : W32) (c : Pass) : Bool :=
  let lo := toF32 fmtBF16 c.dlo.toNat
  let hi := toF32 fmtBF16 c.dhi.toNat
  let ordered := fun (v : W32) => decide ((v &&& 0x7FFFFFFF#32).toNat ≤ 0x7F800000)
  let neg := fun (v : W32) => bit v 31 && v &&& 0x7FFFFFFF#32 != 0
  (ordered lo && !neg lo && decide (norm.toNat < (lo &&& 0x7FFFFFFF#32).toNat)) ||
  (ordered hi && (neg hi || decide ((hi &&& 0x7FFFFFFF#32).toNat < norm.toNat)))

/-- The drift monitor at one commit, under the settings that held then (R328 to R330). -/
def CtxEntry.drift (c : CtxEntry) (p : Pass) (norm : W32) : CtxEntry × Bool :=
  if outOfBand norm p then
    let run := if p.en then min 15 (c.run + 1) else c.run
    let fire := p.en && decide (p.k ≤ run) && !c.driftOut
    ({ c with run := run, driftOut := c.driftOut || fire }, fire)
  else ({ c with run := if p.en then 0 else c.run, driftOut := false }, false)

/-- DIGEST_PASS_DONE (R323): digest, drift norm, the pendant's entry. -/
def digestPassDone (s : Nat) (w : Work) : Work :=
  match w.d.arm.passes.find? fun x => x.stream == s with
  | none => w
  | some p =>
    let w := w.modArm fun a => { a with passes := a.passes.filter fun x => x.stream != s }
    match w.model? (w.ctx s).model with
    | none => w
    | some m =>
      let st := w.activeState s m.stateBytes
      let digest := BitVec.ofNat 64 (crc64 st)
      let c := (w.ctx s).drift p (driftNorm m st)
      let w := w.modCtx s fun _ => c.1
      let w := if c.2 then w.raise [(0x2106, w32 s)] none else w
      let w := w.modArm fun a => { a with digests := tabSet 0 a.digests s digest }
      w.ownDigest ⟨s, (w.ctx s).gen, digest⟩

/-- A step's lane on a stream that is lost while BUSY no longer takes part; a CHUNK or BIWIN whose one lane it is computes nothing
more and ends with the lane's code (R306). -/
def Work.loseLanes (w : Work) (s : Nat) (code : W16) : Work :=
  let hit := fun (l : Lane) => l.stream == s && l.ph == .busy && !l.committed
  let stops := w.d.rings.execs.filter fun e =>
    (dOpc e.desc == 2 || dOpc e.desc == 3) && (e.ph == .ready || e.ph == .run) && e.lanes.any hit
  let lose := fun (l : Lane) => if hit l then { l with ph := .absent, code := code } else l
  let w := w.modRings fun g => { g with execs := g.execs.map fun e => { e with lanes := e.lanes.map lose } }
  stops.foldl (fun w e => w.endStepWith e.ring e.seq ⟨code, 0, 0⟩) w

/-- An uncorrectable error in an active half: STATE_ECC is raised for any (R332); a BUSY or RESIDENT stream is quarantined (R303). -/
def Work.stateEcc (w : Work) (s : Nat) : Work :=
  let c := w.ctx s
  let w := if c.resident then w.raise [(0x3120, w32 s)] none else w
  if c.st = .resident || c.st = .busy then
    (((w.modCtx s fun c => { c with st := .quarantined, noslot := false }).loseLanes s 0x3120).leave s).rescan
  else w

/-- An uncorrectable error in a context entry (3123h, 17): the stream is held QUARANTINED until a RELEASE; its fill or spill ends,
and a FILL or SPILL that it serves with STREAM_QUAR. -/
def Work.ctxEcc (w : Work) (s : Nat) : Work :=
  let slot := (w.ctx s).resident
  let w := w.modCtx s fun c => { c with st := .quarantined, noslot := !slot }
  let w := w.modArm fun a => { a with ctxBad := s :: a.ctxBad.filter (· != s) }
  let w := match w.armJob s with
    | some j =>
      let w := if j.isFill then (w.cancelJob (.fill s)).dropArmJob s else w.dropArmJob s
      match (w.fillOwner j).filter fun (e : Exec) => dOpc e.desc == 0x12 || (!j.isFill && !j.evict && dOpc e.desc == 0x13) with
      | some e => w.finishStreamCode e 0x2103
      | none => w
    | none => w
  (((w.raise [(0x3123, w32 s)] none).loseLanes s 0x3123).leave s).rescan

/-- The clamp of R320. -/
def clampUse (now : W32) (c : CtxEntry) : CtxEntry :=
  if c.resident && decide (2 ^ 31 < (now - c.lastUse).toNat) then { c with lastUse := now - 0x80000000#32 } else c

/-- CONTEXT_PATROL (R320), with the uncorrectable findings of the pass. -/
def contextPatrol (ctxBad stateBad : List Nat) (w : Work) : Work :=
  let keys := w.d.arm.ctx.map Prod.fst
  let w := keys.foldl (fun w s => w.modCtx s (clampUse w.useTime)) w
  stateBad.foldl Work.stateEcc (ctxBad.foldl Work.ctxEcc w)

/-- BIND (R303). -/
def execBind (ring : Nat) (s : State) : Host.Outcome State Fault Refusal := run (streamRow 0x10 ring) s
/-- RELEASE (R303). -/
def execRelease (ring : Nat) (s : State) : Host.Outcome State Fault Refusal := run (streamRow 0x11 ring) s
/-- FILL (R314). -/
def execFill (ring : Nat) (s : State) : Host.Outcome State Fault Refusal := run (streamRow 0x12 ring) s
/-- SPILL (R313). -/
def execSpill (ring : Nat) (s : State) : Host.Outcome State Fault Refusal := run (streamRow 0x13 ring) s
/-- FILL_VERIFIED (R314). -/
def execFillVerified (stream : Nat) (s : State) : Host.Outcome State Fault Refusal := run (fillVerified stream) s
/-- FILL_FAILED (R316). -/
def execFillFailed (stream : Nat) (s : State) : Host.Outcome State Fault Refusal := run (fillFailed stream) s
/-- SPILL_WRITES_ACCEPTED (R303). -/
def execSpillWritesAccepted (stream : Nat) (s : State) : Host.Outcome State Fault Refusal := run (spillWritesAccepted stream) s
/-- SPILL_FAIL (R303). -/
def execSpillFail (stream : Nat) (s : State) : Host.Outcome State Fault Refusal := run (spillFail stream) s
/-- PAGE_ZEROED (R302). -/
def execPageZeroed (page : Nat) (s : State) : Host.Outcome State Fault Refusal := run (pageZeroed page) s
/-- DIGEST_PASS_DONE (R323). -/
def execDigestPassDone (stream : Nat) (s : State) : Host.Outcome State Fault Refusal := run (digestPassDone stream) s
/-- CONTEXT_PATROL (R320). -/
def execContextPatrol (ctxBad stateBad : List Nat) (s : State) : Host.Outcome State Fault Refusal :=
  run (contextPatrol ctxBad stateBad) s

end Sys2Proof.Machine
end

