-- ==== Sys2Proof/Machine/Regs.lean ====
section
/-! DEFINITION. The setup register map's writable fields (17 R753, R754), what is sealed (R638, R696), the items of a
proposal (R639), and the host windows (14 R649, R650). -/

-- Declarations are elaborated one after another: side by side, each would hold a thread and its stack.
set_option Elab.async false

namespace Sys2Proof.Machine

-- Writable fields ------------------------------------------------------------------------------------------------------------

def inRun (off base step n : Nat) : Bool := decide (base ≤ off) && decide (off < base + step * n) && (off - base) % step == 0

/-- The bits of the S-class fields of a register (R753, R754). -/
def sMask (off : Nat) : Nat :=
  if off = 0x108 || off = 0x118 || off = 0x610 then 0xFFFFFFC0
  else if off = 0x110 then 0x7FFFF
  else if off = 0x120 || off = 0x380 then 0xFFFFF000
  else if off = 0x200 then 3
  else if off = 0x204 || off = 0x304 then 0xFFFFFF
  else if off = 0x224 then 0xFFFFF
  else if off = 0x330 then 0x3FFFF
  else if off = 0x400 then 0x100
  else if off = 0x500 then 0xFFFFFE00
  else if inRun off 0x604 4 3 then 0x3FF
  else if off = 0x618 then 0x1F
  else if off = 0x680 then 1
  else if inRun off 0x684 24 8 then 0xFFFFF00F
  else if inRun off 0x68C 24 8 then 0xFFFFF000
  else if inRun off 0x694 24 8 then 0xFFFFFFE0
  else if inRun off 0x688 24 8 || inRun off 0x690 24 8 || inRun off 0x698 24 8 then 0xFFFF
  else if off = 0x800 then 0xFF
  else if off = 0x80C then 0x07777FFF
  else if off = 0x810 then 0x03FFFFFF
  else if inRun off 0x840 8 4 || off = 0x868 || off = 0x86C then 0xFFFFFFFF
  else if off = 0x860 then 0xF0001
  else if inRun off 0x880 4 16 then 0xF0FFFFFF
  else if off = 0x10C || off = 0x11C || off = 0x124 || off = 0x128 || off = 0x384 || off = 0x504 || off = 0x614 ||
      inRun off 0x844 8 4 then 0xFFFF
  else if inRun off 0x1000 32 64 then 0xFFFFFFC0
  else if inRun off 0x1004 32 64 || inRun off 0x2004 16 64 then 0xFFFF
  else if inRun off 0x1008 32 64 then 0x3F000F
  else if inRun off 0x2000 16 64 then 0xFFFFFFE0
  else if inRun off 0x2008 16 64 then 0xF
  else 0

/-- The bits of the RW fields of classes L and B. -/
def lMask (off : Nat) : Nat :=
  if off = 0x20C then 0xFFFFFFFF
  else if off = 0x210 then 0x1F
  else if off = 0x308 then 0x0F1FFFFF
  else if off = 0x318 then 7
  else if off = 0x340 then 0xFFFFFFFE
  else if inRun off 0x344 4 7 then 0xFFFFFFFF
  else if off = 0x400 then 0xF0
  else if off = 0x408 || off = 0x808 then 0xFFFF
  else if off = 0x508 then 0x1FFFF
  else if off = 0x518 then 0x7F
  else if inRun off 0x520 16 4 then 0xFFFFFFFC
  else if inRun off 0x524 16 4 then 0xFFFF
  else if inRun off 0x528 16 4 then 0xFFFFFFFF
  else if off = 0x800 then 0xF00
  else if inRun off 0x1008 32 64 then 0x80000000
  else if inRun off 0x2008 16 64 then 0x80000130
  else 0

/-- Registers whose fields R638 and R696 seal. -/
def sealedReg (off : Nat) : Bool :=
  off % 4 == 0 && ((decide (0x118 ≤ off) && decide (off ≤ 0x128)) || (decide (0x604 ≤ off) && decide (off ≤ 0x60C)) ||
    (decide (0x610 ≤ off) && decide (off ≤ 0x618)) || (decide (0x680 ≤ off) && decide (off ≤ 0x740)))

/-- Sets the RW fields of a register. -/
def Dev.setFields (d : Dev) (off : Nat) (v : W32) : Dev :=
  let m := w32 (sMask off ||| lMask off)
  d.setCfgW off ((d.cfgW off &&& ~~~m) ||| (v &&& m))

-- The items of a proposal (R639) ------------------------------------------------------------------------------------------------

/-- The registers an item's value sets, in order. -/
def itemRegs (item : Nat) : List Nat :=
  match item with
  | 1 => [0x604, 0x608, 0x60C]
  | 2 => (List.range 49).map fun i => 0x680 + 4 * i
  | 3 => [0x610, 0x614, 0x618]
  | _ => []

/-- The bytes of an item's value. -/
def itemLen (item : Nat) : Nat :=
  match item with
  | 1 => 12
  | 2 => 196
  | 3 => 12
  | 4 => 65
  | _ => 0

/-- The role that proposes an item. -/
def itemRole (item : Nat) : Nat := if item = 1 || item = 6 then 3 else 2

/-- The present value of an item, in the layout of R639. -/
def Dev.itemValue (d : Dev) (item : Nat) : List Byte := (itemRegs item).flatMap fun o => leBytes 4 (d.cfgW o).toNat

/-- Sets an item's registers; reserved bits are ignored as a register write ignores them (R18). -/
def Dev.setItem (d : Dev) (item : Nat) (v : List Byte) : Dev :=
  (itemRegs item).zipIdx.foldl (fun d x => d.setFields x.1 (w32 (word32 v (4 * x.2)))) d

/-- LEDGER_LEN.LOG2: 0, or 6 to 16 (R669). -/
def log2Ok (n : Nat) : Bool := n == 0 || (decide (6 ≤ n) && decide (n ≤ 16))

-- Host windows (R649, R650) --------------------------------------------------------------------------------------------------------

structure HWin where
  num   : Nat
  plain : Bool
  w     : Bool
  r     : Bool
  en    : Bool
  base  : Nat
  top   : Nat
  tag   : Nat
  deriving DecidableEq, Repr

/-- Window k; `top` is the first byte past its last page. -/
def Dev.hwin (d : Dev) (k : Nat) : HWin :=
  let o := 0x684 + 24 * k
  let v := d.cfgW o
  ⟨k, bit v 3, bit v 2, bit v 1, bit v 0, d.cfgAddr o / 4096 * 4096, d.cfgAddr (o + 8) / 4096 * 4096 + 4096,
   d.cfgAddr (o + 16) / 32 * 32⟩

def Dev.hwins (d : Dev) : List HWin := (List.range 8).map d.hwin
def Dev.hwinOn (d : Dev) : Bool := bit (d.cfgW 0x680) 0

/-- Does a range lie wholly inside an enabled window that allows the access? -/
def HWin.allows (x : HWin) (isWrite : Bool) (a n : Nat) : Bool :=
  x.en && (if isWrite then x.w else x.r) && decide (x.base ≤ a) && decide (a + n ≤ x.top)

/-- A range inside an enabled PLAIN window that allows writing. -/
def Dev.inPlain (d : Dev) (a n : Nat) : Bool := d.hwins.any fun x => x.plain && x.allows true a n

/-- Does the set-up meet R650 for confidential mode: windows in use, and the ledger, the cast region, message addresses and
tag areas in PLAIN windows? -/
def Dev.plainOk (d : Dev) : Bool :=
  let n := fld (d.cfgW 0x618) 0 5
  let mib := fld (d.cfgW 0x128) 0 16
  d.hwinOn && (n == 0 || d.inPlain (d.cfgAddr 0x610) (64 * 2 ^ n)) &&
  (decide (mib < 8) || d.inPlain (d.cfgAddr 0x120) (mib * 2 ^ 20)) &&
  ((List.range 4).all fun k => !bit (d.cfgW 0x518) k || d.inPlain (d.cfgAddr (0x520 + 16 * k)) 4) &&
  (d.hwins.all fun x => !x.en || x.plain || decide (x.top ≤ x.base) || d.inPlain x.tag ((x.top - x.base) / 8))

end Sys2Proof.Machine
end

