-- ==== Sys2Proof/Machine/Der.lean ====
section
/-! DEFINITION. The attestation certificate (14 R651, R652) in DER. -/

-- Declarations are elaborated one after another: side by side, each would hold a thread and its stack.
set_option Elab.async false

namespace Sys2Proof.Machine

def derLen (n : Nat) : List Byte :=
  if n < 128 then [w8 n] else if n < 256 then [0x81, w8 n] else [0x82, w8 (n / 256), w8 n]
def der (tag : Byte) (body : List Byte) : List Byte := tag :: derLen body.length ++ body
def derSeq (parts : List (List Byte)) : List Byte := der 0x30 parts.flatten
/-- A non-negative INTEGER from its big-endian bytes. -/
def derInt (be : List Byte) : List Byte :=
  let b := be.dropWhile (· == 0)
  match b with
  | [] => der 2 [0]
  | h :: _ => der 2 (if h.getLsbD 7 then 0 :: b else b)
def derNat (n : Nat) : List Byte := derInt (beBytes 8 n)
def derOctets (b : List Byte) : List Byte := der 4 b
def derBits (unused : Nat) (b : List Byte) : List Byte := der 3 (w8 unused :: b)

/-- Base-128 digits of an object identifier's arc, most significant first. -/
def oidArc : Nat → Nat → List Byte → List Byte
  | 0, _, acc => acc
  | f + 1, n, acc => if n = 0 then acc else oidArc f (n / 128) (w8 (n % 128 + (if acc.isEmpty then 0 else 128)) :: acc)

def oidEcdsaSha256 : List Byte := der 6 [0x2A, 0x86, 0x48, 0xCE, 0x3D, 4, 3, 2]
def oidEcKey : List Byte := der 6 [0x2A, 0x86, 0x48, 0xCE, 0x3D, 2, 1]
def oidP256 : List Byte := der 6 [0x2A, 0x86, 0x48, 0xCE, 0x3D, 3, 1, 7]
def oidKeyUsage : List Byte := der 6 [0x55, 0x1D, 0x0F]
/-- 2.25.238114975233640285470021391806553816051. -/
def oidMeasure : List Byte := der 6 (0x69 :: oidArc 20 238114975233640285470021391806553816051 [])

/-- One attribute of a name: 3 CN, 10 O, 11 OU, as a UTF8String. -/
def derName (attrs : List (Byte × String)) : List Byte :=
  derSeq (attrs.map fun a => der 0x31 (derSeq [der 6 [0x55, 4, a.1], der 0x0C (ascii a.2)]))

def certIssuer : List Byte :=
  derName [(3, "Strelrid SQ32 class key"), (10, "Ednil Microsystems"), (11, if Config.gradeOne then "grade 01" else "grade 02")]

def certTime : List Byte := derSeq [der 0x17 (ascii "700101000000Z"), der 0x18 (ascii "99991231235959Z")]

/-- The measurement extension's fields, in order (R652). -/
structure Measure where
  nonce  : List Byte
  arv    : W32
  meas   : List Byte
  tables : List Byte
  config : List Byte
  seq    : Nat
  head   : List Byte
  deriving DecidableEq, Repr

def Measure.der (m : Measure) : List Byte :=
  derSeq [derNat 1, derOctets m.nonce, derOctets (beBytes 4 0x6E3A0C91 ++ beBytes 4 0x4F17D25B), derNat 0x03020000,
    derNat m.arv.toNat, derOctets m.meas, derOctets m.tables, derOctets m.config, derNat m.seq, derOctets m.head]

/-- The part of the certificate that is signed. -/
def certBody (serial point : List Byte) (m : Measure) : List Byte :=
  derSeq [der 0xA0 (derNat 2), derInt serial, derSeq [oidEcdsaSha256], certIssuer, certTime,
    derName [(3, "SQ32 attested session")],
    derSeq [derSeq [oidEcKey, oidP256], derBits 0 (4 :: point)],
    der 0xA3 (derSeq [derSeq [oidKeyUsage, der 1 [0xFF], derOctets (derBits 3 [8])],
      derSeq [oidMeasure, derOctets m.der]])]

/-- The certificate: `sig` is r then s. -/
def certOf (body sig : List Byte) : List Byte :=
  derSeq [body, derSeq [oidEcdsaSha256], derBits 0 (derSeq [derInt (sig.take 32), derInt (sig.drop 32)])]

/-- The tables' measurement: slots 0 to 11 of the active bank of the first core in service (R652). -/
def Work.tablesHash (w : Work) : List Byte :=
  match w.d.inService with
  | [] => sha256 []
  | p :: _ => sha256 ((List.range 12).flatMap fun k => ((w.core p).tables.active k).getD (List.replicate 64 0))

/-- The configuration's measurement (R652). -/
def Work.configHash (w : Work) : List Byte :=
  let ms := sortBy (fun (a b : Model) => decide (a.handle ≤ b.handle)) w.d.models
  sha256 (w.d.itemValue 1 ++ w.d.itemValue 2 ++ w.d.itemValue 3 ++ [w8 (b2n w.d.sec.conf)] ++
    ms.flatMap fun m => w8 m.handle :: m.digest)

end Sys2Proof.Machine
end

