-- ==== Sys2Proof/Machine/Tables.lean ====
section
/-! DEFINITION. TLOAD, TFENCE and the table banks (05 R217 to R221, R235, R245 to R261). -/

-- Declarations are elaborated one after another: side by side, each would hold a thread and its stack.
set_option Elab.async false

namespace Sys2Proof.Machine

def CoreTables.shadow (c : CoreTables) : List TabImg := if c.active1 then c.bank0 else c.bank1
def CoreTables.live (c : CoreTables) : List TabImg := if c.active1 then c.bank1 else c.bank0
/-- Writes the shadow bank (R220). -/
def CoreTables.setShadow (c : CoreTables) (b : List TabImg) : CoreTables :=
  if c.active1 then { c with bank0 := b } else { c with bank1 := b }

def Work.modTables (w : Work) (p : Nat) (f : CoreTables → CoreTables) : Work :=
  w.modCore p fun k => { k with tables := f k.tables }

def dTslot (d : List Byte) : Nat := bitsOf (dW d 4) 0 4

/-- A read of an image of `len` bytes for a descriptor, spread over the ports as Atelier traffic (R410); nothing to read is
read at once. -/
def Work.readImage (w : Work) (e : Exec) (addr len : Nat) (nothing : Work → Work) : Work :=
  if len = 0 then nothing w else w.readHost (.desc e.ring e.seq) addr len none (2 ^ 64 - 1) 7

/-- A TLOAD that fails: the shadow slot holds what the active bank holds (R252). A core with a switch or resync outstanding is about
to make its banks alike (R257), and keeps its shadow bank until then. -/
def Work.tloadUndo (w : Work) (e : Exec) : Work :=
  let k := dTslot e.desc
  w.d.inService.foldl (fun w p =>
    if w.bankSettled p then w.modTables p fun t => t.setShadow (setNth t.shadow k (nth .empty t.live k)) else w) w

def Work.tloadFail (w : Work) (e : Exec) (o : Outc) : Work := (w.tloadUndo e).finish e.ring e.seq o 0 0

/-- The larger of two images by their pool records. -/
def TabImg.larger (a b : TabImg) : TabImg :=
  match a, b with
  | .image x, .image y => if (tabHead x).nseg < (tabHead y).nseg then b else a
  | .image _, _ => a
  | _, _ => b

/-- The bank a new image is tested against (R218): the shadow bank with the images of checked TLOADs that still have to be written;
where a slot has both, the one that takes more of the pool. -/
def Work.poolBank (w : Work) : List TabImg :=
  let shadow := match w.d.inService with
    | p :: _ => (w.core p).tables.shadow
    | [] => []
  (w.d.rings.execs.filter fun e => dOpc e.desc == 0x21 && e.ph == .work && (e.stage == 2 || e.stage == 3)).foldl
    (fun b e => setNth b (dTslot e.desc) ((nth .empty b (dTslot e.desc)).larger (.image e.data))) shadow

/-- The image of a TLOAD has been read: it is checked (R235, R246); a good one waits for its ledger entry (R645, R648)
and is written by TLOAD_DONE. -/
def Work.tloadData (w : Work) (e : Exec) (bytes : Option (List Byte)) (cause : W16) (detail : W32) : Work :=
  match bytes with
  | none => w.tloadFail e ⟨0x3105, cause, detail⟩
  | some b =>
    let c := tableCheck (dTslot e.desc) w.poolBank b
    if c ≠ 0 then w.tloadFail e ⟨c, 0, 0⟩
    else (w.modExec e.ring e.seq fun e => { e with ph := .work, stage := 2, data := b }).ledgerAction e 0x11
      (dTslot e.desc + word32 b 0x1C * 2 ^ 32)

/-- The ledger entry of a TLOAD has been accepted: the loader may write (R645). -/
def Work.tloadAllowed (w : Work) (e : Exec) : Work := w.modExec e.ring e.seq fun e => { e with stage := 3 }

/-- Has every in-service core switched and resynced (R258)? -/
def Work.banksSettled (w : Work) : Bool := w.d.inService.all w.bankSettled

/-- A TLOAD starts to read its image once no switch or resync is outstanding. -/
def Work.resumeTload (w : Work) (r s : Nat) : Work :=
  match w.exec? r s with
  | none => w
  | some e =>
    if dOpc e.desc ≠ 0x21 || e.ph != .wait || !w.banksSettled then w
    else
      let w := if e.passed w.tb then w.miss r s none else w
      let w := w.modExec r s fun e => { e with ph := .work, stage := 1 }
      w.readImage e (word64 e.desc 0x10) (dW e.desc 0x18) fun w => w.tloadData e (some []) 0 0

/-- TLOAD. -/
def tloadRow (r : Nat) (w : Work) : Work :=
  beginRow (fun d => dOpc d == 0x21) noPre
    (fun e w => (w.modExec e.ring e.seq fun e => { e with ph := .wait }).resumeTload e.ring e.seq) r w

/-- TLOAD_DONE: the table stands in the shadow bank of every in-service core (R219, R261). It comes after every switch and resync
that a TFENCE processed meanwhile asks for, so that the cores hold the same, and not while a KILL of its job is about to end it
(log entry 108). -/
def tloadDone (r s : Nat) (w : Work) : Work :=
  match w.exec? r s with
  | none => w
  | some e =>
    if dOpc e.desc ≠ 0x21 || e.ph != .work || e.stage ≠ 3 || !w.banksSettled || w.killHeld (dJob e.desc) then w
    else
      let w := w.d.inService.foldl (fun w p =>
        w.modTables p fun t => t.setShadow (setNth t.shadow (dTslot e.desc) (.image e.data))) w
      w.finishCode r s 0

-- TFENCE and the switch (R253 to R260) --------------------------------------------------------------------------------------------

/-- TFENCEs that every in-service core has followed complete (R256). -/
def Work.tfenceScan (w : Work) : Work :=
  (w.d.rings.execs.filter fun e => dOpc e.desc == 0x22 && e.ph == .work && e.stage == 1 &&
      w.d.inService.all fun p => decide (e.bankEp ≤ (w.core p).tables.switches)).foldl
    (fun w e => w.finishCode e.ring e.seq 0) w

/-- Has every TLOAD that began before a TFENCE completed (R259)? -/
def Work.tfenceClear (w : Work) (e : Exec) : Bool :=
  !(w.d.rings.execs.any fun x => dOpc x.desc == 0x21 && decide (x.order < e.order) && (x.ph == .wait || x.ph == .work))

/-- A TFENCE is processed: a switch is pending on every core. -/
def Work.processTfence (w : Work) (r s : Nat) : Work :=
  let n := w.d.rings.fences + 1
  let w := w.modRings fun g => { g with fences := n }
  (w.modExec r s fun e => { e with ph := .work, stage := 1, bankEp := n }).tfenceScan

/-- TFENCE: processed at its begin where no earlier TLOAD is at work. -/
def tfenceRow (r : Nat) (w : Work) : Work :=
  beginRow (fun d => dOpc d == 0x22) noPre
    (fun e w =>
      if w.tfenceClear e then w.processTfence e.ring e.seq
      else w.modExec e.ring e.seq fun e => { e with ph := .wait }) r w

/-- TFENCE_PROCESSED. -/
def tfenceProcessed (r s : Nat) (w : Work) : Work :=
  match w.exec? r s with
  | none => w
  | some e =>
    if dOpc e.desc ≠ 0x22 || e.ph != .wait || !w.tfenceClear e || w.killHeld (dJob e.desc) then w
    else (if e.passed w.tb then w.miss r s none else w).processTfence r s

/-- Does a begun step still have to execute on a core with the bank the core has now? -/
def Work.holdsBank (w : Work) (p : Nat) (e : Exec) : Bool :=
  isStepOpc (dOpc e.desc) && (e.ph == .wait || e.ph == .ready || e.ph == .run) &&
    decide (e.bankEp ≤ (w.core p).tables.switches) && (w.places e).any fun x => x.1 == p

/-- BANK_SWITCH (R254): a core with a switch pending and no earlier step left exchanges its banks; the resync starts. -/
def bankSwitch (p : Nat) (w : Work) : Work :=
  let t := (w.core p).tables
  if w.d.rings.fences ≤ t.switches || t.resync || (w.core p).cur.isSome || (w.d.rings.execs.any (w.holdsBank p)) then w
  else (w.modTables p fun t => { t with active1 := !t.active1, switches := t.switches + 1, resync := true }).tfenceScan

/-- RESYNC_DONE (R257); TLOADs that waited go on (R258). -/
def resyncDone (p : Nat) (w : Work) : Work :=
  if !(w.core p).tables.resync then w
  else
    let w := w.modTables p fun t => { t.setShadow t.live with resync := false }
    (w.d.rings.execs.filter fun e => dOpc e.desc == 0x21 && e.ph == .wait).foldl (fun w e => w.resumeTload e.ring e.seq) w

/-- TLOAD (R235). -/
def execTload (ring : Nat) (s : State) : Host.Outcome State Fault Refusal := run (tloadRow ring) s
/-- TLOAD_DONE (R261). -/
def execTloadDone (ring seq : Nat) (s : State) : Host.Outcome State Fault Refusal := run (tloadDone ring seq) s
/-- TFENCE (R259). -/
def execTfence (ring : Nat) (s : State) : Host.Outcome State Fault Refusal := run (tfenceRow ring) s
/-- TFENCE_PROCESSED (R259). -/
def execTfenceProcessed (ring seq : Nat) (s : State) : Host.Outcome State Fault Refusal := run (tfenceProcessed ring seq) s
/-- BANK_SWITCH (R254). -/
def execBankSwitch (core : Nat) (s : State) : Host.Outcome State Fault Refusal := run (bankSwitch core) s
/-- RESYNC_DONE (R257). -/
def execResyncDone (core : Nat) (s : State) : Host.Outcome State Fault Refusal := run (resyncDone core) s

end Sys2Proof.Machine
end

