-- ==== Sys2Proof/Machine/Wload.lean ====
section
/-! DEFINITION. WLOAD: the checks of a model image and its loading (R158, R159, R264 to R267, R300, R347 to R356, R437, R511 to
R515). -/

-- Declarations are elaborated one after another: side by side, each would hold a thread and its stack.
set_option Elab.async false

namespace Sys2Proof.Machine

-- The image (R511, R512) ----------------------------------------------------------------------------------------------------------

def imgLayers (b : List Byte) : Nat := bitsOf (word32 b 4) 16 8
def imgSlots (b : List Byte) : Nat := bitsOf (word32 b 4) 0 6

/-- A section lies inside the image. -/
def inside (b : List Byte) (off len : Nat) : Bool := decide (off + len ≤ b.length)

/-- Layer record i. -/
def layerRec (b : List Byte) (i : Nat) : List Byte := sliceAt b (word32 b 0x18 + 64 * i) 64

def layerOf (r : List Byte) : Layer :=
  let w0 := word32 r 0
  let w1 := word32 r 4
  ⟨bitsOf w0 28 4, bitOf w0 27, bitsOf w0 22 2, bitsOf w0 19 3, bitsOf w1 20 7, bitsOf w1 0 13, bitsOf (word32 r 8) 0 14,
   bitsOf (word32 r 12) 0 9⟩

/-- R265 for one record. -/
def layerOk (r : List Byte) : Bool :=
  let w0 := word32 r 0
  let w1 := word32 r 4
  let l := layerOf r
  let hdim := bitsOf w1 27 2
  let glog := bitsOf w1 16 3
  let p := if hdim = 0 then 1 else 2 ^ (hdim + 3)
  let g := 2 ^ glog
  onlyBits r 0 0xFFF8FFFF && onlyBits r 4 0x1FF71FFF && onlyBits r 8 0x3FFF && onlyBits r 12 0x1FF && zeroRange r 16 64 &&
  (l.oper == 1 || l.oper == 2 || l.oper == 3) && decide (l.sfmt ≤ 3) && decide (glog ≤ 5) &&
  (!l.bi || l.oper != 3) &&
  (if l.bi then decide (2 ≤ l.w) && decide (l.w ≤ 64) else l.w == 0 && !bitOf w0 26 && !bitOf w0 25) &&
  (hdim != 0) == (l.oper == 2) &&
  (l.oper != 2 || (l.chans % p == 0 && l.chans / p % g == 0)) && (l.oper != 1 || l.chans % g == 0) &&
  (if l.oper = 3 then decide (2 ≤ l.ktaps) && decide (l.ktaps ≤ 8192) && l.ncode == 0 && glog == 0 && decide (l.sfmt ≤ 1)
   else l.ktaps == 0) &&
  decide (1 ≤ l.cmax) && decide (l.cmax ≤ 256)

/-- Slot entry i. -/
def slotRec (b : List Byte) (i : Nat) : List Byte := sliceAt b (word32 b 0x1C + 64 * i) 64

def regionOf (b : List Byte) (o : Nat) : Region :=
  let w0 := word32 b o
  ⟨if bitsOf w0 30 2 = 0 then 0 else if bitsOf w0 30 2 = 1 then 1 else 2, bitOf w0 29, bitsOf w0 24 5, bitsOf w0 0 15,
   bitsOf (word32 b (o + 4)) 0 15⟩

def windowOf (b : List Byte) (o : Nat) : Window :=
  let w0 := word32 b o
  ⟨bitsOf w0 30 2, bitOf w0 29, bitOf w0 28, bitOf w0 27, bitsOf w0 22 5, bitsOf w0 0 15, bitsOf (word32 b (o + 4)) 0 14⟩

def slotImgOf (b : List Byte) (i : Nat) : SlotImg :=
  let r := slotRec b i
  let f := fun o => word32 r o
  { prog := sliceAt b (f 0) (f 4), entry := f 8, consts := sliceAt b (f 0x0C) (f 0x10), scratch := f 0x14,
    wbase := bitsOf (f 0x20) 0 15, wlines := f 0x1C / 64, asBase := bitsOf (f 0x30) 0 13, asLen := bitsOf (f 0x30) 16 14,
    cacheOk := bitOf (f 0x24) 31, kbase := bitsOf (f 0x24) 0 13, klen := bitsOf (f 0x24) 13 13,
    regions := (List.range 16).map fun k => regionOf b (f 0x28 + 8 * k),
    windows := (List.range 32).map fun k => windowOf b (f 0x2C + 8 * k) }

-- The checks (R513) ---------------------------------------------------------------------------------------------------------------

/-- Check 3 for slot entry i. -/
def slotFormatOk (b : List Byte) (i : Nat) : Bool :=
  let r := slotRec b i
  let f := fun o => word32 r o
  zeroRange r 0x34 0x40 && onlyBits r 0x20 0x7FFF && onlyBits r 0x30 0x3FFF1FFF && onlyBits r 0x24 0x83FFFFFF &&
  f 0 % 4 == 0 && f 4 % 2 == 0 && f 8 % 2 == 0 && f 0x10 % 4 == 0 && f 0x14 % 4 == 0 && f 0x18 % 64 == 0 && f 0x1C % 64 == 0 &&
  f 0x28 % 8 == 0 && f 0x2C % 8 == 0 &&
  inside b (f 0) (f 4) && inside b (f 0x0C) (f 0x10) && inside b (f 0x18) (f 0x1C) && inside b (f 0x28) 128 &&
  inside b (f 0x2C) 256 && decide (f 8 < f 4) && decide (bitsOf (f 0x20) 0 15 + f 0x1C / 64 ≤ 20480) &&
  ((List.range 16).all fun k => onlyBits b (f 0x28 + 8 * k) 0xFF007FFF && onlyBits b (f 0x28 + 8 * k + 4) 0x7FFF) &&
  ((List.range 32).all fun k => onlyBits b (f 0x2C + 8 * k) 0xFFC07FFF && onlyBits b (f 0x2C + 8 * k + 4) 0x3FFF)

/-- Check 3 (R513). -/
def imageFormatOk (b : List Byte) : Bool :=
  let n := imgLayers b
  let s := imgSlots b
  decide (64 ≤ b.length) && word32 b 0 == 0x53514D49 && onlyBits b 4 0x00FF003F && zeroRange b 0x20 0x40 &&
  decide (1 ≤ s) && decide (s ≤ 32) && word32 b 0x18 % 64 == 0 && word32 b 0x1C % 64 == 0 &&
  inside b (word32 b 0x18) (64 * n) && inside b (word32 b 0x1C) (64 * s) && (List.range s).all (slotFormatOk b)

/-- Lines of a memory (R333). -/
def memLines (mem : Nat) : Nat := memSize (if mem = 0 then 1 else if mem = 1 then 0 else 2) / 64

/-- Lines lie within the declared ones. -/
def SlotImg.covers (s : SlotImg) (base len : Nat) : Bool := decide (s.asBase ≤ base) && decide (base + len ≤ s.asBase + s.asLen)

/-- REGION_RANGE conditions of check 6 on declared lines, regions and cache area (R348, R351, R437). -/
def slotRegionsOk (s : SlotImg) : Bool :=
  s.asLen != 0 && decide (s.asBase + s.asLen ≤ 8192) &&
  (s.regions.all fun r => !r.valid || (decide (r.mem ≤ 1) && r.len != 0 && decide (r.base + r.len ≤ memLines r.mem) &&
    (r.mem != 0 || s.covers r.base r.len))) &&
  (!s.cacheOk || (s.klen != 0 && decide (s.kbase + s.klen ≤ 8192) && s.covers s.kbase s.klen))

/-- WINDOW_RANGE conditions of check 6 (R356). -/
def slotWindowsOk (s : SlotImg) : Bool :=
  s.windows.all fun x => !x.valid ||
    (x.mem != 3 && x.len != 0 && decide (x.base + x.len ≤ memLines x.mem) && (!x.wr || x.mem == 0))

/-- Every window over the activation store lies within the declared lines (R351). -/
def slotCoversOk (s : SlotImg) : Bool := s.windows.all fun x => !x.valid || x.mem != 0 || s.covers x.base x.len

/-- Models loaded, and those of checked WLOADs that are not done: their ledger entry is on its way, or a KILL's is (R645). -/
def Work.allModels (w : Work) : List Model :=
  w.d.models ++ (w.d.rings.execs.filter fun e => dOpc e.desc == 0x20 && e.ph == .work && (e.stage == 2 || e.stage == 3)).map fun e =>
    { handle := e.result.toNat, job := 0, seed := 0, layers := [],
      slots := (List.range (imgSlots e.data)).map (slotImgOf e.data), digest := [], dead := false }

/-- What slot i of every model takes together (R158, R159). -/
def slotUse (ms : List Model) (f : SlotImg → Nat) (i : Nat) : Nat := (ms.map fun m => ((m.slots[i]?).map f).getD 0).sum

/-- A model as its image gives it. -/
def modelOf (b : List Byte) (handle job : Nat) : Model :=
  { handle := handle, job := job, seed := word64 b 0x10, layers := (List.range (imgLayers b)).map fun i => layerOf (layerRec b i),
    slots := (List.range (imgSlots b)).map (slotImgOf b), digest := sha256 b, dead := false }

/-- Checks 5 to 9 of R513. -/
def Work.modelCheck (w : Work) (b : List Byte) : W16 :=
  let m := modelOf b 0 0
  let ms := w.allModels
  let recs := (List.range (imgLayers b)).map (layerRec b)
  let ws := (m.layers.filter Layer.bi).map Layer.w
  if !recs.all layerOk || !ws.all (· == nth 0 ws 0) then 0x1050
  else if (m.layers.any fun l => decide (524288 < l.elems)) || 2097152 < m.stateBytes then 0x1054
  else if !m.slots.all slotRegionsOk then 0x103E
  else if !m.slots.all slotWindowsOk then 0x103C
  else if !m.slots.all slotCoversOk then 0x103E
  else if 16 ≤ ms.length then 0x1012
  else if (List.range m.slots.length).any fun i => decide (65536 < slotUse (ms ++ [m]) (fun s => s.prog.length) i) then 0x1032
  else if (List.range m.slots.length).any fun i =>
      decide (32768 < slotUse (ms ++ [m]) (fun s => s.consts.length + s.scratch) i) then 0x1033
  else 0

/-- Checks 2 to 9 of R513: 0000h or the first that fails. -/
def Work.imageCheck (w : Work) (b : List Byte) : W16 :=
  if b.length ≠ word32 b 8 || crc32 (patchBytes b 0x0C [0, 0, 0, 0]) ≠ word32 b 0x0C then 0x1011
  else if !imageFormatOk b then 0x1010
  else if w.d.inService.length < imgSlots b then 0x1031
  else w.modelCheck b

-- Loading (R514, R515) ---------------------------------------------------------------------------------------------------------------

/-- The image of a WLOAD has been read: it is checked, its handle chosen, its ledger entry asked for (R645, R648). -/
def Work.wloadData (w : Work) (e : Exec) (bytes : Option (List Byte)) (cause : W16) (detail : W32) : Work :=
  match bytes with
  | none => w.finish e.ring e.seq ⟨0x3105, cause, detail⟩ 0 0
  | some b =>
    let c := w.imageCheck b
    let used := w.allModels.map Model.handle
    let h := ((List.range 255).map (· + 1)).find? fun h => !used.any (· == h)
    match h with
    | none => w.finishCode e.ring e.seq (if c = 0 then 0x1012 else c)
    | some h =>
      if c ≠ 0 then w.finishCode e.ring e.seq c
      else (w.modExec e.ring e.seq fun e => { e with stage := 2, data := b, result := w32 h }).ledgerAction e 0x10
        (h + leNat ((sha256 b).take 7) * 256)

/-- Writes one slot's weights, line by line (R515). -/
def Work.loadWeights (w : Work) (p : Nat) (img : SlotImg) (bytes : List Byte) : Work :=
  (List.range img.wlines).foldl (fun w i =>
    w.mwrite p 0 (runFrom (64 * (img.wbase + i)) (sliceAt bytes (64 * i) 64)) []) w

/-- The ledger entry of a WLOAD has been accepted: the model is loaded, a lost core's SRAM left alone (R56). While a KILL of its job
waits to take effect, which will end it, it is held (log entry 108). Cache tags of an earlier model of the handle are of a
different model (R441). -/
def Work.wloadAllowed (w : Work) (e : Exec) : Work :=
  if w.killHeld (dJob e.desc) then w.modExec e.ring e.seq fun e => { e with stage := 3 }
  else
    let b := e.data
    let h := e.result.toNat
    let m := modelOf b h (dJob e.desc)
    let w := (m.slots.zip w.d.boot.coreMap).zipIdx.foldl (fun w x =>
      let r := slotRec b x.2
      if (w.core x.1.2).lost then w
      else w.loadWeights x.1.2 x.1.1 (sliceAt b (word32 r 0x18) (word32 r 0x1C))) w
    let w := w.mod fun d => { d with models := d.models ++ [m],
                                     cores := d.cores.map fun k => if k.lastModel = h then { k with lastModel := 0 } else k }
    w.finish e.ring e.seq Outc.ok (w32 h) 0

/-- A WLOAD that was held goes on once the KILL it waited for is over without effect. -/
def Work.resumeWload (w : Work) (r s : Nat) : Work :=
  match w.exec? r s with
  | none => w
  | some e => if e.ph == .work && e.stage == 3 then w.wloadAllowed e else w

/-- WLOAD. -/
def wloadRow (r : Nat) (w : Work) : Work :=
  beginRow (fun d => dOpc d == 0x20) noPre
    (fun e w => (w.modExec e.ring e.seq fun e => { e with stage := 1 }).readImage e (word64 e.desc 0x10) (dW e.desc 0x18)
      fun w => w.wloadData e (some []) 0 0) r w

/-- WLOAD (R513). -/
def execWload (ring : Nat) (s : State) : Host.Outcome State Fault Refusal := run (wloadRow ring) s

end Sys2Proof.Machine
end

