-- ==== Sys2Proof/Machine/Kill.lean ====
section
/-! DEFINITION. KILL (11 R534 to R538) and the locks it sets (08 R382, R383). -/

-- Declarations are elaborated one after another: side by side, each would hold a thread and its stack.
set_option Elab.async false

namespace Sys2Proof.Machine

/-- Does a job exist, a KILL's own descriptor aside (R534)? -/
def Work.jobExists (w : Work) (e : Exec) : Bool :=
  (w.d.models.any fun m => m.job == dTjob e.desc) ||
  (w.d.rings.execs.any fun x => x.begun && dJob x.desc == dTjob e.desc && !isExec e.ring e.seq x)

/-- Is a KILL of a job in progress? -/
def Work.killing (w : Work) (job : Nat) : Bool := w.d.rings.kills.any fun k => k.1 == job

/-- Locks declared lines of a core (R382): gather entries for them drain into the lock and go; the core's cache tags, which are those
of the step last begun there, go where the lock covers their area (R441). A lost core is left alone (R56). -/
def Work.lockLines (w : Work) (p base len : Nat) : Work :=
  let k := w.core p
  let hit := match w.model? k.lastModel with
    | some m => let s := nth SlotImg.init m.slots k.lastSlot; s.cacheOk && meets base len s.kbase s.klen
    | none => true
  if k.lost then w
  else w.modCore p fun k => { k with
    locks := { k.locks with lines := k.locks.lines ++ [(base, len)] }, cache := (if hit then [] else k.cache),
    gather := k.gather.filter fun g => !(decide (base ≤ g.line) && decide (g.line < base + len)) }

/-- The cores of a model's copies with the slot image each holds (R382, R595): its slots' cores, the checker copy's where it runs
redundantly or a step of it was begun so, and any core whose last step was one of its copies. -/
def Work.copyPlaces (w : Work) (m : Model) (redun : Bool) : List (Nat × SlotImg) :=
  let own := (w.d.boot.coreMap.take m.slots.length).zip m.slots ++ (w.checkerCores redun m.slots.length).zip m.slots
  let ran := (w.d.inService.filter fun p => (w.core p).lastModel == m.handle).map fun p =>
    (p, nth SlotImg.init m.slots (w.core p).lastSlot)
  own ++ ran.filter fun x => !own.any (· == x)

/-- The locks of a job (R382): its models' declared lines, and the plinths of the cores that executed its steps. -/
def Work.lockJob (w : Work) (job : Nat) (steps : List Exec) (ran : List Nat) : Work :=
  let w := (w.d.models.filter fun m => m.job == job).foldl (fun w m =>
    let redun := w.redundant m.handle || steps.any fun e => e.redun && dModel e.desc == m.handle
    (w.copyPlaces m redun).foldl (fun w x => w.lockLines x.1 x.2.asBase x.2.asLen) w) w
  ran.foldl (fun w p => w.modCore p fun k => { k with locks := { k.locks with plinth := true } }) w

/-- Ends one begun descriptor of the job (R535). -/
def Work.killExec (w : Work) (x : Exec) : Work :=
  let r := x.ring
  let s := x.seq
  let w1 := w.modExec r s fun e => { e with killed := true }
  let o := dOpc x.desc
  if isStepOpc o then
    (if x.ph == .wait || x.ph == .ready || x.ph == .run then w1.endStepWith r s ⟨0x1005, 0, 0⟩ else w)
  else if o = 0x20 && x.ph == .work then (w1.cancelJob (.desc r s)).finishCode r s 0x1005
  else if o = 0x21 && x.ph == .wait then w1.finishCode r s 0x1005
  else if o = 0x21 && x.ph == .work then ((w1.cancelJob (.desc r s)).tloadUndo x).finishCode r s 0x1005
  else if (o = 0x22 || o = 0x30) && x.ph == .wait then w1.finishCode r s 0x1005
  else w

/-- Ends every descriptor of the job that is fetched and not begun (R535). -/
def Work.killQueued (w : Work) (job : Nat) : Work :=
  (List.range 64).foldl (fun w r =>
    ((w.sq r).queue.filter fun q => dJob q.desc == job).foldl (fun w q =>
      ((w.unqueue r q.seq).cancelJob (.batch r q.seq)).unbegun r q.seq q.desc 0x1005 true) w) w

/-- A KILL takes effect, its ledger entry accepted (R535, R645). -/
def Work.killNow (w : Work) (e : Exec) : Work :=
  let job := dTjob e.desc
  let w := w.modExec e.ring e.seq fun e => { e with stage := 1 }
  let mine := w.d.rings.execs.filter fun x => x.begun && dJob x.desc == job && dOpc x.desc != 0x31
  let ran := (List.range 32).filter fun p => match (w.core p).cur with
    | some c => mine.any fun x => isExec c.ring c.seq x
    | none => false
  let w := mine.foldl Work.killExec w
  ((w.killQueued job).lockJob job (mine.filter fun x => isStepOpc (dOpc x.desc)) ran).rescan

/-- Begin of a KILL: in progress from here on, it waits for its ledger entry; one of a job that another KILL is ending waits for that
one (R538). -/
def beginKill (e : Exec) (w : Work) : Work :=
  let job := dTjob e.desc
  if !w.jobExists e then w.finishCode e.ring e.seq 0
  else if w.killing job then w.modExec e.ring e.seq fun e => { e with ph := .wait }
  else (w.modRings fun g => { g with kills := g.kills ++ [(job, e.ring, e.seq)] }).ledgerAction e 0x12
    (job + b2n (dUnload e.desc) * 65536)

/-- KILL. -/
def killRow (r : Nat) (w : Work) : Work := beginRow (fun d => dOpc d == 0x31) noPre beginKill r w

/-- KILL (R535). -/
def execKill (ring : Nat) (s : State) : Host.Outcome State Fault Refusal := run (killRow ring) s

end Sys2Proof.Machine
end

