-- ==== Sys2Proof/Machine/Cores.lean ====
section
/-! DEFINITION. Taking a core out of service (01 R52, R53, 13 R604). -/

-- Declarations are elaborated one after another: side by side, each would hold a thread and its stack.
set_option Elab.async false

namespace Sys2Proof.Machine

/-- Steps under redundant execution that have not started and have no cores left for two copies (R595). -/
def Work.redunShort (w : Work) : Work :=
  (w.d.rings.execs.filter fun e => isStepOpc (dOpc e.desc) && (e.ph == .wait || e.ph == .ready) && e.redun &&
      decide (w.d.inService.length < 2 * (((w.model? (dModel e.desc)).map fun m => m.slots.length).getD 0))).foldl
    (fun w e => w.failStep e.ring e.seq 0x103F 0) w

/-- Takes a core out of service: steps mapped to it fail with CORE_LOST, bank switches no longer wait for it; with the last
one NO_CORES is raised (R603, R607). -/
def Work.loseCore (w : Work) (p : Nat) (detail : W32) : Work :=
  if (w.core p).lost then w
  else
    let w := w.modCore p fun k => { k with lost := true, mq := { k.mq with running := false, forced := false, retest := none } }
    let w := (w.failStepsOn p 0x8104 detail).redunShort.tfenceScan
    let w := (w.d.rings.execs.filter fun e => dOpc e.desc == 0x21 && e.ph == .wait).foldl (fun w e => w.resumeTload e.ring e.seq) w
    if w.d.inService.isEmpty then w.raise [(0xF106, w32 (0x14 * 65536))] none else w

/-- The DETAIL of a unit inside a core (R606). -/
def unitDetail (unit core inst : Nat) : W32 := w32 (unit % 256 * 65536 + core % 32 * 256 + inst % 256)

end Sys2Proof.Machine
end

