-- ==== Sys2Proof/Machine/Mgmt.lean ====
section
/-! DEFINITION. MGMT descriptors (11 R516): their request and response, and the functions that need no session logic:
TABLE_READ, STREAM_DRIFT, STREAM_RESTORE, WIN_COUNTS, PERF_READ, RETIRE_READ. -/

-- Declarations are elaborated one after another: side by side, each would hold a thread and its stack.
set_option Elab.async false

namespace Sys2Proof.Machine

def mReq (d : List Byte) : Nat := word64 d 0x10
def mRlen (d : List Byte) : Nat := dW d 0x18
def mRsp (d : List Byte) : Nat := word64 d 0x20
def mRcap (d : List Byte) : Nat := dW d 0x28

/-- Ends a MGMT descriptor with a response, written before its record (R516): RESULT counts its bytes (R517). -/
def Work.reply (w : Work) (e : Exec) (bytes : List Byte) : Work :=
  if mRcap e.desc < bytes.length then w.finishCode e.ring e.seq 0x1002
  else (w.writeHost (.out e.ring e.seq) (mRsp e.desc) bytes (some (e.ring % 8)) (2 ^ 64 - 1) 7).finish e.ring e.seq Outc.ok
    (w32 bytes.length) 0

def Work.deny (w : Work) (e : Exec) (c : W16) : Work := w.finishCode e.ring e.seq c
/-- Moves a MGMT descriptor to a stage of its own. -/
def Work.toStage (w : Work) (e : Exec) (n : Nat) : Work := w.modExec e.ring e.seq fun e => { e with stage := n }

/-- A MGMT row: form (R516), then the request is read; `f` gets it. -/
def mgmtRow (func need cap : Nat) (f : Exec → List Byte → Work → Work) (r : Nat) (w : Work) : Work :=
  beginRow (fun d => dOpc d == 0x40 && dFunc d == func) noPre
    (fun e w =>
      if mRlen e.desc < need || mRcap e.desc < cap then w.deny e 0x1002
      else (w.toStage e 1).readImage e (mReq e.desc) (mRlen e.desc) fun w => f e [] w) r w

/-- The request of a MGMT descriptor has been read. -/
def Work.mgmtData (f : Exec → List Byte → Work → Work) (w : Work) (e : Exec) (bytes : Option (List Byte)) (cause : W16)
    (detail : W32) : Work :=
  match bytes with
  | none => w.finish e.ring e.seq ⟨0x3105, cause, detail⟩ 0 0
  | some b => f { e with data := b } b (w.modExec e.ring e.seq fun e => { e with data := b })

-- TABLE_READ, WIN_COUNTS, RETIRE_READ (R248, R364, R681) -----------------------------------------------------------------------

/-- TABLE_READ: the active image of a built-in slot, as the first core in service holds it. -/
def tableRead (e : Exec) (b : List Byte) (w : Work) : Work :=
  let k := bitsOf (word32 b 0) 0 4
  match w.d.inService with
  | [] => w.deny e 0x1002
  | p :: _ =>
    match (if k < 4 then (w.core p).tables.active k else none) with
    | some img => w.reply e img
    | none => w.deny e 0x1002

/-- WIN_COUNTS. -/
def winCounts (e : Exec) (_ : List Byte) (w : Work) : Work :=
  if w.d.sec.conf then w.deny e 0x710C
  else w.reply e ((List.range 32).flatMap fun p => leBytes 2 (w.core p).late)

/-- A fresh 64-bit free value. -/
def Work.fresh64 (w : Work) : Nat × Work :=
  let a := w.fresh
  let b := a.2.fresh
  ((Config.freeValue a.1).toNat + (Config.freeValue b.1).toNat * 2 ^ 32, b.2)

/-- RETIRE_READ: the record as last read or written; open before that. -/
def retireRead (e : Exec) (_ : List Byte) (w : Work) : Work :=
  if !w.d.saf.retRec.isEmpty then w.reply e w.d.saf.retRec
  else
    let a := w.fresh64
    let b := a.2.fresh64
    b.2.reply e (leBytes 8 a.1 ++ leBytes 8 b.1)

-- PERF_READ (R663) ----------------------------------------------------------------------------------------------------------------

/-- One core's eight counters: those of timing are open; to an operator every counter is a snapshot taken earlier, so all are
open, the first six multiples of 1,024. -/
def Work.perfCore (w : Work) (p : Nat) (exact : Bool) : List Byte × Work :=
  let k := (w.core p).perf
  let known : Nat → Option Nat := fun i =>
    if !exact then none
    else if i = 1 then some k.mmaBeats else if i = 3 then some k.vops else if i = 6 then some k.flits
    else if i = 7 then some k.landed else none
  (List.range 8).foldl (fun acc i =>
    match known i with
    | some n => (acc.1 ++ leBytes 8 n, acc.2)
    | none =>
      let v := acc.2.fresh64
      (acc.1 ++ leBytes 8 (if !exact && decide (i < 6) then v.1 / 1024 * 1024 else v.1), v.2)) ([], w)

/-- PERF_READ. -/
def perfRead (e : Exec) (_ : List Byte) (w : Work) : Work :=
  if w.d.sec.conf then w.deny e 0x710C
  else
    let r := w.d.inService.foldl (fun acc p =>
      let c := acc.2.perfCore p (decide (2 ≤ e.role))
      (acc.1 ++ c.1, c.2)) (([] : List Byte), w)
    r.2.reply e (sliceAt r.1 0 2048)

-- STREAM_DRIFT and STREAM_RESTORE (R303, R330) --------------------------------------------------------------------------------------

/-- The code a drift or restore request ends with in the state its stream is in; 0000h where it applies. -/
def Work.streamCode (w : Work) (e : Exec) (s : Nat) : W16 :=
  let st := (w.ctx s).st
  if dFunc e.desc = 2 then
    (if st = .free then 0x2102 else if st = .quarantined then 0x2103 else 0)
  else if st ≠ .quarantined then 0x2102
  else if w.d.arm.ctxBad.any (· == s) then 0x2103
  else 0

/-- Once it is its turn and the stream is in no passing state, the entry of the ledger is asked for (R645, R648). -/
def Work.resumeMgmt (w : Work) (r s : Nat) : Work :=
  match w.exec? r s with
  | none => w
  | some e =>
    match e.mgmtStream with
    | none => w
    | some k =>
      let st := (w.ctx k).st
      let passing := st == .filling || st == .spilling || st == .busy
      if e.ph != .wait || e.stage ≠ 2 || passing || !w.streamTurn e k then w
      else
        let w := if e.passed w.tb then w.miss r s none else w
        let c := w.streamCode e k
        if c ≠ 0 then w.deny e c
        else (w.toStage e 3).ledgerAction e 0x13 (k + dFunc e.desc * 65536)

/-- The request of a STREAM_DRIFT or STREAM_RESTORE has been read: it takes its turn on the stream (R304); a DRIFT_K of zero
is out of range (R328). -/
def streamMgmt (e : Exec) (b : List Byte) (w : Work) : Work :=
  if dFunc e.desc = 2 && bitsOf (word32 b 0) 16 4 = 0 then w.deny e 0x1002
  else (w.modExec e.ring e.seq fun e => { e with ph := .wait, stage := 2 }).resumeMgmt e.ring e.seq

/-- STREAM_DRIFT takes effect, its ledger entry accepted (R330). -/
def Work.driftAllowed (w : Work) (e : Exec) (k : Nat) : Work :=
  let c := w.streamCode e k
  if c ≠ 0 then w.deny e c
  else
    let a := word32 e.data 0
    let b := word32 e.data 4
    (w.modCtx k fun c => { c with driftK := bitsOf a 16 4, driftEn := bitOf a 20, dlo := w16 b, dhi := w16 (b / 65536) }).deny e 0

/-- STREAM_RESTORE takes effect (R303). -/
def Work.restoreAllowed (w : Work) (e : Exec) (k : Nat) : Work :=
  let c := w.streamCode e k
  if c ≠ 0 then w.deny e c
  else (w.modCtx k fun c => { c with prun := 0, noslot := false, st := if c.noslot then .spilled else .resident }).deny e 0

/-- TABLE_READ (R248). -/
def execTableRead (ring : Nat) (s : State) : Host.Outcome State Fault Refusal := run (mgmtRow 1 4 0 tableRead ring) s
/-- STREAM_DRIFT (R330). -/
def execStreamDrift (ring : Nat) (s : State) : Host.Outcome State Fault Refusal :=
  run (fun w => mgmtRow 2 8 0 streamMgmt ring w) s
/-- STREAM_RESTORE (R303). -/
def execStreamRestore (ring : Nat) (s : State) : Host.Outcome State Fault Refusal :=
  run (fun w => mgmtRow 3 4 0 streamMgmt ring w) s
/-- WIN_COUNTS (R364). -/
def execWinCounts (ring : Nat) (s : State) : Host.Outcome State Fault Refusal := run (mgmtRow 4 0 64 winCounts ring) s
/-- PERF_READ (R663). -/
def execPerfRead (ring : Nat) (s : State) : Host.Outcome State Fault Refusal := run (mgmtRow 0x107 0 2048 perfRead ring) s
/-- RETIRE_READ (R681). -/
def execRetireRead (ring : Nat) (s : State) : Host.Outcome State Fault Refusal := run (mgmtRow 0x200 0 16 retireRead ring) s

end Sys2Proof.Machine
end

