-- ==== Sys2Proof/Machine/Security.lean ====
section
/-! DEFINITION. Sessions, attestation, proposals and their countersigning (14 R628 to R654), the quiesce (R643), unveiling
(R666), retirement and the cast region (15 R681, R696), and what an accepted ledger entry lets happen (R645). -/

-- Declarations are elaborated one after another: side by side, each would hold a thread and its stack.
set_option Elab.async false

namespace Sys2Proof.Machine

-- Sessions (R629, R635 to R637) --------------------------------------------------------------------------------------------------

/-- The next 32 bytes of the random source (R634). -/
def Work.random (w : Work) : List Byte × Work :=
  (sliceAt (Config.random w.d.sec.draws) 0 32, w.modSec fun s => { s with draws := s.draws + 1 })

/-- CHALLENGE: the ring's earlier nonce expires; a fresh one is bound to ring and credential. -/
def challenge (e : Exec) (b : List Byte) (w : Work) : Work :=
  let w := w.modSec fun s => { s with nonces := s.nonces.filter fun n => n.1 != e.ring }
  if w.d.sec.lockout then w.deny e 0x7102
  else if !w.d.sec.rngOk then w.deny e 0x710E
  else
    let x := w.random
    (x.2.modSec fun s => { s with nonces := s.nonces ++ [(e.ring, bitsOf (word32 b 0) 0 4, x.1)] }).reply e x.1

/-- Role and key hash of a credential (R631). -/
def Work.cred (w : Work) (i : Nat) : Nat × List Byte := nth (0, []) w.d.sec.creds i

/-- Do the conditions of R636 hold, the ledger aside? -/
def Work.authOk (w : Work) (r : Nat) (b : List Byte) : Bool :=
  let i := word32 b 0
  let c := w.cred i
  let key := sliceAt b 4 32
  match w.d.sec.nonces.find? fun n => n.1 == r with
  | none => false
  | some (_, k, nonce) =>
    c.1 != 0 && sha256 key == c.2 && k == i && decide (i < 16) &&
      Config.ed25519Verify key (ascii "SQ32-AUTH-v1" ++ nonce ++ [w8 r, w8 i]) (sliceAt b 36 64)

/-- AUTH: one that is not accepted counts, asks for its event (R648; for want of a ledger too: DEDUCED, log entry 112), and the
nonce expires in any case; an accepted one begins its session with its ledger entry. `data` keeps the credential index. -/
def authenticate (e : Exec) (b : List Byte) (w : Work) : Work :=
  let good := w.authOk e.ring b
  let i := word32 b 0
  let w := w.modSec fun s => { s with nonces := s.nonces.filter fun n => n.1 != e.ring }
  if !good then ((w.authFailed).ledgerEventOf e 0x3 i).deny e 0x7101
  else if !w.ledgerOn then ((w.authFailed).ledgerEventOf e 0x3 i).deny e 0x7109
  else
    let role := (w.cred i).1
    (w.toStage e 3).ledgerPut ⟨0x2, role, i, 15, e.ring, dJob e.desc, BitVec.ofNat 64 role, .action e.ring e.seq⟩

/-- The session of an accepted AUTH begins (R628), replacing the ring's; the set-up is sealed (R638). -/
def Work.authAllowed (w : Work) (e : Exec) : Work :=
  let i := word32 e.data 0
  let w := w.modSec fun s => { s with
    sessions := (s.sessions.filter fun x => x.ring != e.ring) ++ [⟨e.ring, i, (w.cred i).1⟩], fails := 0, sealedUp := true }
  w.deny e 0

/-- CLOSE: its entry first (R629, R645). -/
def closeSession (e : Exec) (_ : List Byte) (w : Work) : Work := (w.toStage e 3).ledgerAction e 0x4 0

def Work.closeAllowed (w : Work) (e : Exec) : Work :=
  (w.deny e 0).modSec fun s => { s with sessions := s.sessions.filter fun x => x.ring != e.ring }

-- Attestation (R651 to R653) --------------------------------------------------------------------------------------------------------

/-- An ATTEST whose turn at the ledger has come builds its certificate: the serial number, the private scalar and k are drawn,
the certificate names the ledger position of its own entry. `data` then holds scalar, nonce and certificate. Once the random source
has failed nothing is drawn (R634). -/
def Work.attestNow (w : Work) (e : Exec) : Work :=
  let nonce := sliceAt e.data 0 32
  let serial := match (w.random.1).take 16 with
    | [] => []
    | h :: t => (h &&& 0x7F) :: t
  let a := w.random
  let k := a.2.random
  let p := k.2.random
  let m : Measure := ⟨nonce, w.d.boot.arv, w.d.boot.meas, w.tablesHash, w.configHash, w.d.led.seq, w.d.led.head⟩
  let body := certBody serial (Config.p256Public k.1) m
  let key := ((w.d.sec.keys.map KeyRecord.classKey).getD [])
  let cert := certOf body (Config.p256Sign key p.1 (sha256 body))
  if !w.d.sec.rngOk then w.deny e 0x710E
  else if mRcap e.desc < cert.length then w.deny e 0x1002
  else
    let e' := { e with stage := 3, data := k.1 ++ nonce ++ cert }
    (p.2.modExec e.ring e.seq fun _ => e').ledgerAction e 0x30 (leNat ((sha256 cert).take 8))

/-- The ledger writes nothing and nothing waits for it. -/
def Work.ledgerIdle (w : Work) : Bool := w.d.led.items.isEmpty && w.d.led.entry.isNone

/-- The ATTESTs that wait for the ledger go on in order, up to the first that writes an entry. -/
def Work.attestPump (w : Work) : Work :=
  (w.d.rings.execs.filter fun e => dOpc e.desc == 0x40 && dFunc e.desc == 0x103 && e.ph == .work && e.stage == 2).foldl
    (fun w e => if w.ledgerIdle then w.attestNow e else w) w

/-- ATTEST. -/
def attestReq (e : Exec) (_ : List Byte) (w : Work) : Work :=
  if w.d.sec.keys.isNone then w.deny e 0x710D
  else if !w.d.sec.rngOk then w.deny e 0x710E
  else (w.toStage e 2).attestPump

/-- The pending proposal ends with its event (R648); `e` is the descriptor that ends it. -/
def Work.endProposal (w : Work) (e : Option Exec) : Work :=
  match w.d.sec.proposal with
  | none => w
  | some p =>
    let w := w.modSec fun s => { s with proposal := none }
    match e with
    | some e => w.ledgerEventOf e 0x22 (p.id * 2 ^ 32)
    | none => w.ledgerEvent 0x22 (p.id * 2 ^ 32)

/-- ATTEST's entry is accepted: its key pair is the latest, and a pending proposal of item 04h is withdrawn (R653). -/
def Work.attestAllowed (w : Work) (e : Exec) : Work :=
  let w := match w.d.sec.proposal with
    | some p => if p.item = 4 then w.endProposal (some e) else w
    | none => w
  (w.modSec fun s => { s with attest := some (e.data.take 32, sliceAt e.data 32 32) }).reply e (e.data.drop 64)

-- Proposals (R639, R640) ---------------------------------------------------------------------------------------------------------------

/-- A COUNTERSIGN whose checks have passed and whose entry is on its way still holds its proposal. -/
def Work.committing (w : Work) : Bool :=
  w.d.rings.execs.any fun e => dOpc e.desc == 0x40 && dFunc e.desc == 0x105 && e.ph == .work && e.stage == 3
/-- Is a proposal pending (R640)? -/
def Work.proposalPending (w : Work) : Bool :=
  w.d.sec.proposal.isSome || w.committing ||
  w.d.rings.execs.any fun e => dOpc e.desc == 0x40 && dFunc e.desc == 0x104 && e.ph == .work && e.stage == 3

/-- Does an item's value have its form (R639, R669)? -/
def valueOk (item : Nat) (v : List Byte) : Bool :=
  decide (1 ≤ item) && decide (item ≤ 6) && v.length == itemLen item &&
  (item != 3 || log2Ok (bitsOf (word32 v 8) 0 5)) && (item != 4 || nth 0 v 0 == 4)

/-- The preconditions of R649 and R650 for an item. -/
def Work.itemReady (w : Work) (item : Nat) (v : List Byte) : Bool :=
  if item = 2 then !w.d.sec.conf || (w.d.setItem 2 v).plainOk
  else if item = 4 then w.d.plainOk && w.d.sec.attest.isSome
  else true

/-- PROPOSE: `result` holds the id that its entry names. -/
def propose (e : Exec) (b : List Byte) (w : Work) : Work :=
  let item := word32 b 0
  let v := b.drop 4
  if decide (1 ≤ item) && decide (item ≤ 6) && decide (e.role < itemRole item) then w.deny e 0x7100
  else if w.proposalPending then w.deny e 0x7106
  else if !valueOk item v || !w.itemReady item v then w.deny e 0x7107
  else
    let id := w.d.sec.nextId
    let w := w.modSec fun s => { s with nextId := (id + 1) % 2 ^ 32 }
    (w.modExec e.ring e.seq fun e => { e with stage := 3, result := w32 id }).ledgerAction e 0x20 (item + id * 2 ^ 32)

/-- PROPOSE's entry is accepted: the proposal is pending. -/
def Work.proposeAllowed (w : Work) (e : Exec) : Work :=
  let d := sha256 e.data
  let p : Proposal := ⟨e.result.toNat, e.ring, e.cred, word32 e.data 0, e.data.drop 4, d⟩
  (w.modSec fun s => { s with proposal := some p }).reply e (leBytes 4 p.id ++ d)

/-- WITHDRAW: only for the session of the proposer (R772); nothing pending is nothing of its own. -/
def withdraw (e : Exec) (_ : List Byte) (w : Work) : Work :=
  match w.d.sec.proposal with
  | some p => if p.ring = e.ring && p.cred = e.cred then (w.endProposal (some e)).deny e 0 else w.deny e 0x7100
  | none => w.deny e 0x7100

-- COUNTERSIGN (R641) ---------------------------------------------------------------------------------------------------------------------

/-- Check 4: the item's preconditions (R650, R654, R661). -/
def Work.commitReady (w : Work) (item : Nat) (v : List Byte) : Bool :=
  w.itemReady item v && (item != 4 || Config.p256Valid (v.drop 1)) && (item != 5 || w.d.models.isEmpty)

/-- COUNTERSIGN's checks 1 to 4; past them the proposal stands in `data` and `result` until its entry is accepted, under
item 04h with the key pair it binds (R653). -/
def countersign (e : Exec) (b : List Byte) (w : Work) : Work :=
  match w.d.sec.proposal with
  | none => w.deny e 0x7103
  | some p =>
    if p.id ≠ word32 b 0 then w.deny e 0x7103
    else
      let fail := fun (c : W16) => (w.endProposal (some e)).deny e c
      if e.cred = p.cred || e.role < 2 then fail 0x7104
      else if sliceAt b 4 32 ≠ p.digest then fail 0x7105
      else if !w.commitReady p.item p.value then fail 0x7107
      else
        let w := w.modSec fun s => { s with proposal := none }
        let pair := match w.d.sec.attest with
          | some k => if p.item = 4 then k.1 ++ k.2 else []
          | none => []
        let w := w.modExec e.ring e.seq fun e => { e with
          stage := 3, result := w32 p.id, data := leBytes 4 p.item ++ p.value ++ pair }
        w.ledgerPut ⟨0x21, (w.cred p.cred).1, p.cred, e.cred, e.ring, dJob e.desc,
          BitVec.ofNat 64 (p.item + leNat (p.digest.take 4) * 2 ^ 32), .action e.ring e.seq⟩

-- The quiesce (R643) ------------------------------------------------------------------------------------------------------------------------

/-- Descriptor, batch and doorbell reads are cancelled: entries whose reads had been issued are read again. -/
def Work.stopFetching (w : Work) : Work :=
  let ks := (w.d.ports.jobs.filter fun j => match j.key with
    | .descs _ _ _ => true
    | .batch _ _ => true
    | .doorbell => true
    | _ => false).map ReadJob.key
  let w := ks.foldl Work.cancelJob w
  w.mod fun d => { d with rings := { d.rings with sq := d.rings.sq.map fun kv => (kv.1, { kv.2 with issued := kv.2.head }) } }

/-- Descriptors that have not begun complete with PROT_REFUSED. -/
def Work.refuseQueued (w : Work) : Work :=
  (List.range 64).foldl (fun w r =>
    (w.sq r).queue.foldl (fun w q => (w.unqueue r q.seq).unbegun r q.seq q.desc 0x7107 false) w) w

/-- The quiesce of items 04h to 06h begins; under 06h every begun descriptor is killed. -/
def Work.startQuiesce (w : Work) (e : Exec) (item : Nat) (v : List Byte) : Work :=
  let w := w.modExec e.ring e.seq fun e => { e with stage := 4 }
  let w := w.modSec fun s => { s with quiesce := some ⟨e.ring, e.seq, item, v⟩ }
  let w := w.stopFetching.refuseQueued
  if item = 6 then
    ((w.d.rings.execs.filter fun x => x.begun && !isExec e.ring e.seq x).foldl Work.killExec w).rescan
  else w.rescan

/-- A COUNTERSIGN's entry is accepted: items 01h to 03h take effect, the others start their quiesce (R642, R643). -/
def Work.countersignAllowed (w : Work) (e : Exec) : Work :=
  let item := word32 e.data 0
  let v := e.data.drop 4
  if item ≤ 3 then (w.mod fun d => d.setItem item v).deny e 0 else w.startQuiesce e item v

/-- Enters confidential mode: the key is derived from the bound pair, Z and the private key go (R654, R656). -/
def Sec.enterConf (s : Sec) (v : List Byte) : Sec :=
  let priv := sliceAt v 65 32
  let nonce := sliceAt v 97 32
  { s with conf := true, confKey := hkdf nonce (Config.p256Shared priv (sliceAt v 1 64)) (ascii "SQ32-CONF-v1") 32, writes := 0,
           attest := if s.attest = some (priv, nonce) then none else s.attest }
/-- Leaves it (R661). -/
def Sec.leaveConf (s : Sec) : Sec := { s with conf := false, confKey := [] }

/-- Fetching and polling resume (R643). -/
def Work.endQuiesce (w : Work) : Work := (w.modSec fun s => { s with quiesce := none }).fetchAll

/-- The SRAMs that unveiling zeroes: the state store, and WS, AS and plinth of the cores in service (R666). -/
def Work.wipeAll (w : Work) : Work :=
  let mine := fun (mem gran : Nat) (k : Nat) => w.d.inService.any fun p => p == k * gran / memSize mem
  let z := fun (mem : Nat) (t : Tab Byte) => (t.filter fun x => mem == 3 || mine mem 1 x.1).map fun x => RamOp.byte mem x.1 0
  let g := fun (mem : Nat) (t : Tab Bool) => (t.filter fun x => mine mem 16 x.1).map fun x => RamOp.poison mem x.1 false
  { w with wr := z 0 w.ram.ws ++ z 1 w.ram.asm ++ z 2 w.ram.pl ++ z 3 w.ram.st ++ g 0 w.ram.wsP ++ g 1 w.ram.asP ++ w.wr }

/-- Tables 4 to 11 of a core are emptied in both banks, its scratch and constant memories zeroed, its cache tags gone. -/
def Core.unveil (k : Core) : Core :=
  let t := k.tables
  { k with tables := { t with bank0 := t.bank0.take 4 ++ List.replicate 8 .empty, bank1 := t.bank1.take 4 ++ List.replicate 8 .empty },
           scratch := [], cache := [], locks := ⟨[], false, []⟩ }

/-- Steps 1 to 6 of R666; with the pairings goes what only they had use for, as at any pairing's end (R559). -/
def Work.unveil (w : Work) : Work :=
  let w := w.modPeer fun p => { p with
    pos := p.pos.map fun kv => (kv.1, { PeerPos.init with past := kv.2.past || kv.2.paired }),
    digQ := [], digOwn := [], digRx := [], digDone := [], pass := none, asm := [], rjSeen := false, rjTold := true,
    txq := p.txq.filter fun f => f.typ == 1 || f.typ == 2 }
  let w := (w.d.arm.jobs.filter ArmJob.isFill).foldl (fun w j => w.cancelJob (.fill j.stream)) w
  let w := w.modSec fun s => { s.leaveConf with keys := none, attest := none, unveiled := true }
  let w := w.wipeAll
  let w := w.mod fun d => { d with
    models := [], cores := d.cores.map fun k => if k.lost then k else k.unveil,
    arm := { d.arm with ctx := [], slots := [], pages := [], jobs := [], passes := [], digests := [], dropped := [],
                        noEvict := [], ctxBad := [] },
    peer := { d.peer with sync := [], partner := [] } }
  w.ledgerEvent 0x43 0

/-- QUIESCE_COMPLETE: every other begun descriptor has ended. Under 04h the COUNTERSIGN's own record goes first, and the mode
changes once it is gone; under 05h and 06h the record follows the change. -/
def quiesceComplete (w : Work) : Work :=
  match w.d.sec.quiesce with
  | none => w
  | some q =>
    if w.d.rings.execs.any fun x => x.begun && !isExec q.ring q.seq x then w
    else match w.exec? q.ring q.seq with
      | none => if q.item = 4 then (w.modSec fun s => s.enterConf q.value).endQuiesce else w.endQuiesce
      | some e =>
        if e.ph != .work then (if q.item = 4 then w else w.endQuiesce)
        else if q.item = 4 then w.deny e 0
        else if q.item = 5 then
          (if !w.d.models.isEmpty then (w.deny e 0x7107).endQuiesce
           else ((w.modSec Sec.leaveConf).deny e 0).endQuiesce)
        else (w.unveil.deny e 0).endQuiesce

-- RETIRE and CAST_REGION (R681, R696) -----------------------------------------------------------------------------------------------

def Work.retireAddr (w : Work) : Nat := w.cfgAddr 0x118
/-- May a core be retired (R681)? -/
def Work.retireOk (w : Work) (p : Nat) : Bool :=
  w.retireAddr != 0 && w.d.inService.any (· == p) && decide (2 ≤ w.d.inService.length)

/-- RETIRE: its entry counts the cores left. -/
def retire (e : Exec) (b : List Byte) (w : Work) : Work :=
  if !w.retireOk (bitsOf (word32 b 0) 0 5) then w.deny e 0x1002
  else (w.toStage e 3).ledgerAction e 0x41 (w.d.inService.length - 1)

/-- A retirement record (R679). -/
def retireBytes (mask seq : Nat) : List Byte :=
  let h := leBytes 4 0x52495452 ++ leBytes 4 mask ++ leBytes 4 seq
  h ++ leBytes 4 (crc32 (h ++ [0, 0, 0, 0]))

def retireRecOk (b : List Byte) : Bool :=
  word32 b 0 == 0x52495452 && crc32 (patchBytes (sliceAt b 0 16) 12 [0, 0, 0, 0]) == word32 b 12

/-- RETIRE takes effect: the record is rewritten, the core leaves service at once; its completion waits for the write. -/
def Work.retireAllowed (w : Work) (e : Exec) : Work :=
  let p := bitsOf (word32 e.data 0) 0 5
  if !w.retireOk p then w.deny e 0x1002
  else
    let old := w.d.saf.retRec
    let good := retireRecOk old
    let mask := (if good then word32 old 4 else 0) ||| 2 ^ p
    let seq := ((if good then word32 old 8 else 0) + 1) % 2 ^ 32
    let rec_ := retireBytes mask seq
    let w := w.mod fun d => { d with saf := { d.saf with retRec := rec_ } }
    let w := w.writeHost (.out e.ring e.seq) w.retireAddr rec_ (some 0) (2 ^ 64 - 1) 7
    (w.loseCore p (unitDetail 0x14 p 0)).deny e 0

/-- CAST_REGION: its entry names the region (R648). -/
def castRegion (e : Exec) (b : List Byte) (w : Work) : Work :=
  let base := word32 b 0 + bitsOf (word32 b 4) 0 16 * 2 ^ 32
  (w.toStage e 3).ledgerAction e 0x44 (bitsOf (word32 b 8) 0 16 + base / 4096 * 65536)

def Work.castRegionAllowed (w : Work) (e : Exec) : Work :=
  let put := fun (d : Dev) (off k : Nat) => d.setFields off (w32 (word32 e.data k))
  (w.mod fun d => put (put (put d 0x120 0) 0x124 4) 0x128 8).deny e 0

-- The ledger's acceptance (R645) ------------------------------------------------------------------------------------------------------

/-- The privileged action that an accepted entry lets happen. -/
def Work.allowed (w : Work) (r s : Nat) : Work :=
  match w.exec? r s with
  | none => w
  | some e =>
    if e.ph != .work && e.ph != .wait then w
    else match dOpc e.desc with
      | 0x20 => w.wloadAllowed e
      | 0x21 => w.tloadAllowed e
      | 0x31 => w.killNow e
      | 0x40 =>
        match dFunc e.desc with
        | 2 => w.driftAllowed e (bitsOf (word32 e.data 0) 0 16)
        | 3 => w.restoreAllowed e (bitsOf (word32 e.data 0) 0 16)
        | 0x101 => w.authAllowed e
        | 0x102 => w.closeAllowed e
        | 0x103 => w.attestAllowed e
        | 0x104 => w.proposeAllowed e
        | 0x105 => w.countersignAllowed e
        | 0x201 => w.retireAllowed e
        | 0x202 => w.castRegionAllowed e
        | _ => w
      | _ => w

/-- LEDGER_ENTRY_ACCEPTED: the chain advances, the action takes effect, the next entry goes out. -/
def ledgerEntryAccepted (w : Work) : Work :=
  if !w.d.led.accepted then w
  else
    let it := w.d.led.items.head?
    let w := w.ledgerAdvance
    let w := match it.map LedItem.next with
      | some (.action r s) => w.allowed r s
      | _ => w
    w.ledgerPump.attestPump

-- Timers and the random source (R634, R637, R640, R662) ----------------------------------------------------------------------------------

/-- AUTH_LOCKOUT_EXPIRY. -/
def authLockoutExpiry (w : Work) : Work := w.modSec fun s => { s with lockout := false }
/-- PROPOSAL_EXPIRY. -/
def proposalExpiry (w : Work) : Work := w.endProposal none
/-- RNG_FAIL: raised once (R634). -/
def rngFail (w : Work) : Work :=
  if !w.d.sec.rngOk then w else (w.modSec fun s => { s with rngOk := false }).logCode 0x710E 0
/-- TELEMETRY_WINDOW (R662): the internal timebase has passed the end of the window in progress; while it holds the last value
stays. -/
def telemetryWindow (power : Nat) (w : Work) : Work :=
  let n := w.now / 10000000
  if w.tb.held || n ≤ w.d.saf.telemWin then w
  else
    let opp := fld (w.cfg 0x200) 0 2
    let v := if w.d.sec.conf then (if opp = 0 then 44 else if opp = 1 then 88 else 124) else min 255 power
    w.mod fun d => { d with saf := { d.saf with telem := v, telemWin := n } }

/-- CHALLENGE (R635). -/
def execChallenge (ring : Nat) (s : State) : Host.Outcome State Fault Refusal := run (mgmtRow 0x100 4 32 challenge ring) s
/-- AUTH (R636). -/
def execAuth (ring : Nat) (s : State) : Host.Outcome State Fault Refusal := run (mgmtRow 0x101 100 0 authenticate ring) s
/-- CLOSE (R629). -/
def execClose (ring : Nat) (s : State) : Host.Outcome State Fault Refusal := run (mgmtRow 0x102 0 0 closeSession ring) s
/-- ATTEST (R651). -/
def execAttest (ring : Nat) (s : State) : Host.Outcome State Fault Refusal := run (mgmtRow 0x103 32 0 attestReq ring) s
/-- PROPOSE (R640). -/
def execPropose (ring : Nat) (s : State) : Host.Outcome State Fault Refusal := run (mgmtRow 0x104 4 36 propose ring) s
/-- COUNTERSIGN (R641). -/
def execCountersign (ring : Nat) (s : State) : Host.Outcome State Fault Refusal := run (mgmtRow 0x105 36 0 countersign ring) s
/-- WITHDRAW (R640). -/
def execWithdraw (ring : Nat) (s : State) : Host.Outcome State Fault Refusal := run (mgmtRow 0x106 0 0 withdraw ring) s
/-- RETIRE (R681). -/
def execRetire (ring : Nat) (s : State) : Host.Outcome State Fault Refusal := run (mgmtRow 0x201 4 0 retire ring) s
/-- CAST_REGION (R696). -/
def execCastRegion (ring : Nat) (s : State) : Host.Outcome State Fault Refusal := run (mgmtRow 0x202 12 0 castRegion ring) s
/-- LEDGER_ENTRY_ACCEPTED (R645). -/
def execLedgerEntryAccepted (s : State) : Host.Outcome State Fault Refusal := run ledgerEntryAccepted s
/-- AUTH_LOCKOUT_EXPIRY (R637). -/
def execAuthLockoutExpiry (s : State) : Host.Outcome State Fault Refusal := run authLockoutExpiry s
/-- PROPOSAL_EXPIRY (R640). -/
def execProposalExpiry (s : State) : Host.Outcome State Fault Refusal := run proposalExpiry s
/-- QUIESCE_COMPLETE (R643). -/
def execQuiesceComplete (s : State) : Host.Outcome State Fault Refusal := run quiesceComplete s
/-- RNG_FAIL (R634). -/
def execRngFail (s : State) : Host.Outcome State Fault Refusal := run rngFail s
/-- TELEMETRY_WINDOW (R662). -/
def execTelemetryWindow (power : Nat) (s : State) : Host.Outcome State Fault Refusal := run (telemetryWindow power) s

end Sys2Proof.Machine
end

