-- ==== Sys2Proof/Machine/PeerRows.lean ====
section
/-! DEFINITION. The peer ports' rows (12): pairing, heartbeats and silence, digests, span stores, and the links themselves. -/

-- Declarations are elaborated one after another: side by side, each would hold a thread and its stack.
set_option Elab.async false

namespace Sys2Proof.Machine

-- Pairing (R556 to R562) -------------------------------------------------------------------------------------------------------------

def Work.linkKey (w : Work) : Option (List Byte) := w.d.sec.keys.map KeyRecord.linkKey

/-- A HELLO payload of this block (R552). -/
def Work.helloPayload (w : Work) (nonce : List Byte) : List Byte :=
  nonce ++ leBytes 4 0x4F17D25B ++ leBytes 4 0x6E3A0C91 ++ leBytes 4 w.d.boot.fwver.toNat ++
    leBytes 4 (w.peerMode + w.myPos * 4 + w.nblk * 16 + b2n w.d.peer.active * 64)

/-- ACTIVE in a HELLO payload. -/
def helloActive (p : List Byte) : Bool := bitOf (word32 p 28) 6

/-- Starts a pairing attempt with every other position: one nonce (R556); KEY_ABSENT and RNG_FAIL (R633, R634). -/
def Work.startPairing (w : Work) : Work :=
  if w.peerMode = 0 then w
  else if w.linkKey.isNone then w.logCode 0x710D 0
  else if !w.d.sec.rngOk then w.logCode 0x710E 0
  else
    let r := w.random
    let own := r.2.helloPayload (r.1.take 16)
    let fresh := (List.range 4).foldl (fun w b => w.modPos b fun p => { p with cfgErr := false })
      (r.2.modPeer fun p => { p with rxSeq := [] })
    r.2.others.foldl (fun w b => w.modPos b fun p =>
      { PeerPos.init with trying := true, own := own, past := p.past || p.paired }) fresh

/-- HELLO_TIMER. -/
def helloTimer (w : Work) : Work :=
  w.others.foldl (fun w b =>
    let p := w.peerPos b
    if !p.trying || p.paired then w
    else
      let own := w.helloPayload (p.own.take 16)
      (w.modPos b fun p => { p with own := own }).sendBoth b 1 {} own) w

/-- The two HELLO payloads of a pairing, lower position first. -/
def Work.byPos (w : Work) (b : Nat) (x y : List Byte) : List Byte := if w.myPos < b then x ++ y else y ++ x

/-- The proof a position sends (R558). -/
def Work.proofOf (w : Work) (key : List Byte) (b sender : Nat) : List Byte :=
  let p := w.peerPos b
  hmac key (ascii "GPV1-PAIR" ++ w.byPos b p.own p.hello ++ [w8 sender])

/-- The epoch of a pairing (R559). -/
def Work.epochOf (w : Work) (key : List Byte) (b : Nat) : W32 :=
  let p := w.peerPos b
  w32 (leNat ((hmac key (ascii "GPV1-EPOCH" ++ w.byPos b (p.own.take 16) (p.hello.take 16))).take 4))

/-- Two active blocks (R571): position 1 demotes itself. -/
def Work.dualActive (w : Work) (partnerActive : Bool) : Work :=
  if w.peerMode = 1 && partnerActive && w.d.peer.active && w.myPos = 1 then
    (w.modPeer fun p => { p with active := false, sync := [] }).logCode 0x6105 0
  else w

/-- Does a HELLO agree with this block (R557)? -/
def Work.helloOk (w : Work) (b : List Byte) : Bool :=
  let c := word32 b 28
  b.length == 32 && word32 b 16 == 0x4F17D25B && word32 b 20 == 0x6E3A0C91 && word32 b 24 == w.d.boot.fwver.toNat &&
    bitsOf c 0 2 == w.peerMode && bitsOf c 4 2 == w.nblk && bitsOf c 2 2 != w.myPos && decide (bitsOf c 2 2 ≤ w.nblk)

/-- PEER_CONFIG, once per pairing attempt (R557). -/
def Work.peerConfig (w : Work) (b : Nat) : Work :=
  if (w.peerPos b).cfgErr || !w.others.any (fun x => (w.peerPos x).trying) then w
  else (w.modPos b fun p => { p with cfgErr := true }).logCode 0x6102 0

/-- A HELLO of a position of the configuration: checked, then answered with a PROOF on its link (R557, R558). -/
def Work.helloFrom (link : Nat) (h : Hdr) (b : List Byte) (w : Work) : Work :=
  let w := w.dualActive (helloActive b)
  let p := w.peerPos h.src
  match w.linkKey with
  | none => w
  | some key =>
    if p.own.isEmpty || (p.paired && p.hello.take 16 != b.take 16) then w
    else if !w.helloOk b then (if p.paired then w else w.peerConfig h.src)
    else
      let w := if p.paired then w else w.modPos h.src fun p => { p with hello := b }
      w.send link h.src 2 {} (w.proofOf key h.src w.myPos)

/-- A HELLO whose SRC is the own position or none of the configuration fails the check of R557. -/
def helloFrame (link : Nat) (h : Hdr) (b : List Byte) (w : Work) : Work :=
  if w.otherPos h.src then Work.helloFrom link h b w else w.peerConfig h.src

/-- REJOIN_REQ goes to the partner (R573). -/
def Work.askRejoin (w : Work) : Work := w.send (w.pickLink w.partnerPos 1) w.partnerPos 10 {} []

/-- The pairing completes: epoch, ACTIVE (R559, R562). The silence of a link counts from here on (R569); a block whose REJOIN stands
and that is not active asks for its pass (R573). -/
def Work.completePair (w : Work) (b : Nat) (epoch : W32) : Work :=
  let theirs := helloActive (w.peerPos b).hello
  let w := w.modPos b fun p => { p with paired := true, trying := false, epoch := epoch }
  let w := w.modPeer fun p => { p with mute := tabSet false (tabSet false p.mute b false) (4 + b) false }
  if w.peerMode ≠ 1 then w
  else
    let w := w.modPeer fun p => { p with
      active := if !p.active && !theirs && w.myPos = 0 && !p.rejoin then true else p.active }
    let w := w.dualActive theirs
    if w.d.peer.rejoin && !w.d.peer.active then w.askRejoin else w

/-- A PROOF (R558). -/
def proofFrame (h : Hdr) (b : List Byte) (w : Work) : Work :=
  let p := w.peerPos h.src
  match w.linkKey with
  | none => w
  | some key =>
    if !p.trying || p.paired || p.hello.isEmpty then w
    else if b != w.proofOf key h.src h.src then w.logCode 0x6101 0
    else w.completePair h.src (w.epochOf key h.src)

-- Heartbeats and silence (R563, R569 to R571) ---------------------------------------------------------------------------------------

/-- The pass is not over until its frames have gone, nor before a heartbeat has told the other block of it (R579). -/
def Work.passing (w : Work) : Bool :=
  w.d.peer.pass.isSome || !w.d.peer.rjTold || (w.d.peer.txq ++ w.d.peer.sending).any fun f => f.typ == 5 || f.typ == 6

/-- PEER_TIMING.HB in units of 10 µs (R563). -/
def Work.heartbeat (w : Work) : Nat := max 1 (min 50 (fld (w.cfg 0x810) 0 8))

/-- HEARTBEAT_TIMER; DIGEST_OVERFLOW's millisecond passes with it (R567, R569). -/
def heartbeatTimer (w : Work) : Work :=
  let live := w.others.filter w.paired
  let w := live.foldl (fun w b =>
    w.sendBoth b 3 { a := b2n w.d.peer.active + 2 * b2n (w.d.peer.rejoin || w.passing) } []) w
  w.modPeer fun p => { p with rjTold := p.rjTold || !live.isEmpty, ovfLeft := p.ovfLeft - w.heartbeat }

/-- A HEARTBEAT: dual active blocks show; a rejoin has ended once the active block's pass has and everything is installed. -/
def heartbeatFrame (h : Hdr) (w : Work) : Work :=
  let w := w.dualActive (bitOf h.a 0)
  let p := w.d.peer
  if !p.rejoin || h.src ≠ w.partnerPos then w
  else if bitOf h.a 1 then w.modPeer fun p => { p with rjSeen := true }
  else if p.rjSeen && !(p.asm.any fun x => x.kind != 1) then w.modPeer fun p => { p with rejoin := false, rjSeen := false }
  else w

/-- A fill from the partner cannot be answered any more: it fails as unverified (R577). -/
def Work.failPartnerFills (w : Work) : Work :=
  (w.d.arm.jobs.filter fun j => j.isFill && w.partnerHeld j.stream && (w.jobFor (.fill j.stream)).isNone).foldl
    (fun w j => w.fillLost j ⟨0x610B, 0, 0⟩ false) w

/-- The pairing with a position ends (R559): in mirror mode digests, passes and partner fills end with it. REJOIN stands until a whole
pass has come (R579). -/
def Work.endPair (w : Work) (b : Nat) : Work :=
  let w := w.modPos b fun p => { PeerPos.init with past := p.past || p.paired }
  if w.peerMode ≠ 1 then w
  else (w.modPeer fun p => { p with
    digQ := [], digOwn := [], digRx := [], digDone := [], pass := none, asm := [], rjSeen := false, rjTold := true,
    txq := p.txq.filter fun f => f.dst != b || f.typ == 1 || f.typ == 2 }).failPartnerFills

/-- A frame queued on a link that has become silent towards a position goes out on the other one, numbered by that link's counter (R554);
those sent on both links stay, and a SPAN_DATA that is a retransmission keeps its link and SEQ. -/
def Work.relink (w : Work) (link b : Nat) (f : TxFrame) : TxFrame × Work :=
  let first := w.d.peer.spanOut.find? fun o => o.link == link && o.dst == b && o.frame == f.bytes && o.tries == 0
  let stays := f.link != link || f.dst != b || f.typ == 1 || f.typ == 3 || f.typ == 4 || (f.typ == 8 && first.isNone)
  if stays then (f, w)
  else
    let r := w.nextSeq (1 - link) b
    let bytes := frameWithSeq f.bytes r.1
    let move := fun (o : SpanOut) => if some o = first then { o with link := 1 - link, sid := r.1, frame := bytes } else o
    let w := if f.typ = 8 then r.2.modPeer fun p => { p with spanOut := p.spanOut.map move } else r.2
    ({ f with link := 1 - link, bytes := bytes }, w)

/-- Everything that waits for the silent link goes on the other one (R569). -/
def Work.relinkAll (w : Work) (link b : Nat) : Work :=
  w.d.peer.txq.foldl (fun w f =>
    let r := w.relink link b f
    r.2.modPeer fun p => { p with txq := p.txq ++ [r.1] }) (w.modPeer fun p => { p with txq := [] })

/-- A link has become silent towards a position, heard before or not (R569, R570). -/
def Work.silence (w : Work) (link b : Nat) : Work :=
  if !w.linkOn link || w.linkMute link b then w
  else
    let w := w.modPeer fun p => { p with up := tabSet false p.up (4 * link + b) false, mute := tabSet false p.mute (4 * link + b) true }
    if !w.paired b then w
    else if w.linkGood (1 - link) b then (w.relinkAll link b).logCode 0x6108 (w32 link)
    else
      let w := (w.logCode 0x6103 (w32 b)).endPair b
      if w.peerMode = 1 && !w.d.peer.active then (w.modPeer fun p => { p with active := true }).logCode 0x6104 0 else w

-- Digests (R564 to R567) --------------------------------------------------------------------------------------------------------------

/-- A DIGEST frame. -/
def digestFrame (h : Hdr) (b : List Byte) (w : Work) : Work :=
  if w.peerMode ≠ 1 || b.length ≠ 16 * h.a then w
  else (List.range h.a).foldl (fun w i =>
    w.rxDigest ⟨word32 b (16 * i) % 65536, w32 (word32 b (16 * i + 4)), BitVec.ofNat 64 (word64 b (16 * i + 8))⟩) w

/-- DIGEST_WAIT_EXPIRY. -/
def digestWaitExpiry (stream gen : Nat) (w : Work) : Work :=
  let this := fun (e : DigEntry) => e.stream == stream && e.gen.toNat == gen
  let own := w.d.peer.digOwn.any this
  let w := w.modPeer fun p => { p with digOwn := p.digOwn.filter fun e => !this e, digRx := p.digRx.filter fun e => !this e }
  if own then
    (w.modPeer fun p => { p with mismatch := satAdd 65535 p.mismatch 1 }).raiseSafety 0x8111 (w32 (stream % 65536)) [] none
  else w

-- Span stores (R580, R581) ------------------------------------------------------------------------------------------------------------

/-- Bytes of the stores held on a link. -/
def Work.heldBytes (w : Work) (link : Nat) : Nat :=
  ((w.d.peer.spanHeld.filter fun x => x.link == link).map fun x => 64 * x.lines.length).sum

/-- The span store a frame carries. -/
def spanOf (link : Nat) (h : Hdr) (b : List Byte) : SpanHeld :=
  let n := (b.length - 8) / 64
  ⟨link, h.src, h.seq, h.d, h.b + h.c * 2 ^ 32, h.a, (List.range n).map fun i => sliceAt b (64 * i) 64, word64 b (64 * n)⟩

/-- Form of a SPAN_DATA payload: 1 to 16 lines and the poison word. -/
def spanForm (b : List Byte) : Bool := decide (72 ≤ b.length) && decide (b.length ≤ 1032) && b.length % 64 == 8

/-- A duplicate: a SPAN_DATA whose outcome is recorded is acknowledged again (R554, R580). -/
def Work.duplicate (w : Work) (link : Nat) (h : Hdr) : Work :=
  let w := w.modPeer fun p => { p with dup := satAdd 65535 p.dup 1 }
  if h.typ ≠ 8 then w
  else match w.d.peer.outcomes.find? fun o => o.1 == link && o.2.1 == h.src && o.2.2.1 == h.seq with
    | some o => w.send link h.src 9 { a := h.seq, b := o.2.2.2.toNat } []
    | none => w

/-- SPAN_DATA: lands with its paired step once that has begun on the owner core, is held for it, or, beyond 256 KiB held on the link, is discarded as if never
received. -/
def spanData (link : Nat) (fr : RxFrame) (w : Work) : Work :=
  match w.judge link fr with
  | .dup h => if h.typ = 8 then w.duplicate link h else w
  | .accept h =>
    let b := fr.bytes.drop 32
    if h.typ ≠ 8 || w.peerMode ≠ 2 || !spanForm b then w
    else
      let x := spanOf link h b
      match (w.pairedStep x.job x.dl).filter fun e => w.ownerBegun e x.addr with
      | some e => (w.accepted link h).landSpan e x
      | none =>
        if 262144 < w.heldBytes link + 64 * x.lines.length then w
        else (w.accepted link h).modPeer fun p => { p with spanHeld := p.spanHeld ++ [x] }
  | _ => w

/-- SPAN_ACK: the store completes, or fails its step (R362); LATE_WINDOW's DETAIL names slot and window, the owner's core is a free
value (R364). -/
def spanAckFrame (link : Nat) (h : Hdr) (w : Work) : Work :=
  let mine := fun (o : SpanOut) => o.dst == h.src && o.sid == h.a
  match (w.d.peer.spanOut.find? fun o => mine o && o.link == link).orElse fun _ => w.d.peer.spanOut.find? mine with
  | none => w
  | some o =>
    let w := w.modPeer fun p => { p with spanOut := dropFirst (· == o) p.spanOut }
    if h.b % 65536 = 0 then w
    else if h.b % 65536 = 0x2107 then
      let x := w.fresh
      let addr := word32 o.frame 16
      x.2.failStep o.ring o.seq 0x2107 (lateDetail (bitsOf addr 24 5) (bitsOf addr 19 5) (Config.freeValue x.1).toNat)
    else w.failStep o.ring o.seq (w16 h.b) 0

/-- SPAN_ACK_TIMEOUT: retransmitted on its own link with its own SEQ (R554), or its step fails. A store is named by link, receiving
position and SEQ, which counts per link and position. -/
def spanAckTimeout (sid link dst : Nat) (w : Work) : Work :=
  match w.d.peer.spanOut.find? fun o => o.link == link && o.dst == dst && o.sid == sid with
  | none => w
  | some o =>
    if o.tries < fld (w.cfg 0x810) 24 2 then
      w.modPeer fun p => { p with
        retx := satAdd 65535 p.retx 1,
        spanOut := modFirst (· == o) (fun o => { o with tries := o.tries + 1 }) p.spanOut,
        txq := if w.linkOn o.link then p.txq ++ [⟨o.link, 1, 8, o.dst, 0, 0, w.ethHeader o.dst 1, o.frame⟩] else p.txq }
    else (w.modPeer fun p => { p with spanOut := dropFirst (· == o) p.spanOut }).failStep o.ring o.seq 0x6106 0

/-- SPAN_HELD_EXPIRY: the first held store whose deadline the internal timebase has passed is dropped; no deadline is tested while
tb_valid is low (R481). -/
def spanHeldExpiry (w : Work) : Work :=
  match w.d.peer.spanHeld.find? fun x => w.tb.valid && decide (x.dl < w.now) with
  | some x => w.dropHeld x
  | none => w

/-- FRAME_DISCARD: what R545, R553, R554 or R555 discards is counted. -/
def frameDiscard (link : Nat) (fr : RxFrame) (w : Work) : Work :=
  match w.judge link fr with
  | .crcErr => w.modPeer fun p => { p with crcErr := satAdd 65535 p.crcErr 1 }
  | .late => w.modPeer fun p => { p with late := satAdd 65535 p.late 1 }
  | .dup h => w.duplicate link h
  | _ => w

-- The links (R546 to R550, R741, R742) ----------------------------------------------------------------------------------------------

def Work.gclOn (w : Work) : Bool := bit (w.cfg 0x860) 0
def Work.gclLen (w : Work) : Nat := fld (w.cfg 0x860) 16 4 + 1
def Work.gclNs (w : Work) (e : Nat) : Nat := max 1 (fld (w.cfg (0x880 + 4 * e)) 0 24)
def Work.gclGate (w : Work) (e q : Nat) : Bool := bit (w.cfg (0x880 + 4 * e)) (28 + q)

/-- Walks the entries of a cycle: the entry at an offset and what is left of it. -/
def gclAt (ns : Nat → Nat) : Nat → Nat → Nat → Nat × Nat
  | 0, e, t => (e, t)
  | n + 1, e, t => if t < ns e then (e, ns e - t) else gclAt ns n (e + 1) (t - ns e)

/-- The entry in force at the internal timebase and the ns left of it (R548). -/
def Work.gclNow (w : Work) : Nat × Nat :=
  let n := w.gclLen
  let cycle := ((List.range n).map w.gclNs).sum
  let base := (w.cfg 0x868).toNat + (w.cfg 0x86C).toNat * 2 ^ 32
  let t := if base ≤ w.now then (w.now - base) % cycle else (cycle - (base - w.now) % cycle) % cycle
  gclAt w.gclNs n 0 t

/-- ns for which the following entries keep a gate open. -/
def openRun (ns : Nat → Nat) (gate : Nat → Bool) (len : Nat) : Nat → Nat → Nat
  | 0, _ => 0
  | n + 1, e => if gate (e % len) then ns (e % len) + openRun ns gate len n (e + 1) else 0

/-- May a frame of `n` octets begin in a queue (R547)? Wire time at 25 Gb/s with preamble and gap. -/
def Work.gateOk (w : Work) (q n : Nat) : Bool :=
  if !w.gclOn then true
  else
    let e := w.d.peer.gcl
    let len := w.gclLen
    let now := w.gclNow
    let left := (if now.1 = e then now.2 else 0) + openRun w.gclNs (fun e => w.gclGate e q) len len (e + 1)
    let always := (List.range len).all fun e => w.gclGate e q
    w.gclGate e q && (always || decide ((8 + n + 12) * 8 ≤ left * 25))

/-- GCL_ENTRY_CHANGE: the list takes up the entry of the internal timebase, unless it holds (R548). -/
def gclEntryChange (w : Work) : Work :=
  if !w.gclOn || w.tb.held || !w.tb.valid then w
  else
    let e := w.gclNow.1
    w.modPeer fun p => { p with gcl := e }

/-- A stream that has committed before its last fragment went is sent again after the pass (R574). -/
def Work.purgeState (w : Work) : Work :=
  let stale := fun (f : TxFrame) => f.typ == 5 && decide (f.stream < 65536) && (w.ctx f.stream).gen != f.gen
  let again := ((w.d.peer.txq.filter stale).map TxFrame.stream).eraseDups
  if again.isEmpty then w
  else w.modPeer fun p =>
    let pass := p.pass.getD ⟨65536, []⟩
    { p with txq := p.txq.filter fun f => !stale f, pass := some { pass with again := pass.again ++ again } }

/-- FRAME_TRANSMIT_END: the frame is gone; the link takes the next one from the highest queue that may send (R547). A link
that sends nothing takes one up too. -/
def frameTransmitEnd (link : Nat) (w : Work) : Work :=
  let w := (w.modPeer fun p => { p with sending := p.sending.filter fun f => f.link != link }).purgeState
  if !w.linkOn link || tabGet 0 w.d.peer.fault link ≠ 0 then w
  else
    let pick := fun (q : Nat) =>
      match w.d.peer.txq.find? fun f => f.link == link && f.queue == q with
      | some f => if w.gateOk q f.octets.length then some f else none
      | none => none
    match [3, 2, 1, 0].findSome? pick with
    | some f => w.modPeer fun p => { p with txq := dropFirst (· == f) p.txq, sending := p.sending ++ [f] }
    | none => w

/-- LINK_FAULT_RECEIVED: kind 0 none, 1 local, 2 remote fault. -/
def linkFaultReceived (link kind : Nat) (w : Work) : Work :=
  if 1 < link then w else w.modPeer fun p => { p with fault := tabSet 0 p.fault link (kind % 3) }

/-- ETH_TX_CLOCK_STOP: the link is silent at once. -/
def ethTxClockStop (link : Nat) (w : Work) : Work := w.others.foldl (fun w b => w.silence link b) w

/-- HELLO_TIMER (R556). -/
def execHelloTimer (s : State) : Host.Outcome State Fault Refusal := run helloTimer s
/-- HELLO (R557). -/
def execHello (link : Nat) (frame : RxFrame) (s : State) : Host.Outcome State Fault Refusal :=
  run (onFrame 1 link frame (helloFrame link)) s
/-- PROOF (R558). -/
def execProof (link : Nat) (frame : RxFrame) (s : State) : Host.Outcome State Fault Refusal :=
  run (onFrame 2 link frame proofFrame) s
/-- HEARTBEAT_TIMER (R563). -/
def execHeartbeatTimer (s : State) : Host.Outcome State Fault Refusal := run heartbeatTimer s
/-- HEARTBEAT (R571). -/
def execHeartbeat (link : Nat) (frame : RxFrame) (s : State) : Host.Outcome State Fault Refusal :=
  run (onFrame 3 link frame fun h _ w => heartbeatFrame h w) s
/-- DIGEST (R566). -/
def execDigest (link : Nat) (frame : RxFrame) (s : State) : Host.Outcome State Fault Refusal :=
  run (onFrame 4 link frame digestFrame) s
/-- DIGEST_WAIT_EXPIRY (R566). -/
def execDigestWaitExpiry (stream gen : Nat) (s : State) : Host.Outcome State Fault Refusal := run (digestWaitExpiry stream gen) s
/-- LINK_SILENCE (R569). -/
def execLinkSilence (link pos : Nat) (s : State) : Host.Outcome State Fault Refusal := run (fun w => w.silence link pos) s
/-- SPAN_DATA (R580). -/
def execSpanData (link : Nat) (frame : RxFrame) (s : State) : Host.Outcome State Fault Refusal := run (spanData link frame) s
/-- SPAN_ACK (R580). -/
def execSpanAck (link : Nat) (frame : RxFrame) (s : State) : Host.Outcome State Fault Refusal :=
  run (onFrame 9 link frame fun h _ w => spanAckFrame link h w) s
/-- SPAN_ACK_TIMEOUT (R580). -/
def execSpanAckTimeout (sid : Nat) (s : State) (link dst : Nat := 0) : Host.Outcome State Fault Refusal :=
  run (spanAckTimeout sid link dst) s
/-- SPAN_HELD_EXPIRY (R580). -/
def execSpanHeldExpiry (s : State) : Host.Outcome State Fault Refusal := run spanHeldExpiry s
/-- FRAME_DISCARD (R553). -/
def execFrameDiscard (link : Nat) (frame : RxFrame) (s : State) : Host.Outcome State Fault Refusal := run (frameDiscard link frame) s
/-- GCL_ENTRY_CHANGE (R548). -/
def execGclEntryChange (s : State) : Host.Outcome State Fault Refusal := run gclEntryChange s
/-- LINK_FAULT_RECEIVED (R741). -/
def execLinkFaultReceived (link kind : Nat) (s : State) : Host.Outcome State Fault Refusal := run (linkFaultReceived link kind) s
/-- ETH_TX_CLOCK_STOP (R742). -/
def execEthTxClockStop (link : Nat) (s : State) : Host.Outcome State Fault Refusal := run (ethTxClockStop link) s
/-- FRAME_TRANSMIT_END (R547). -/
def execFrameTransmitEnd (link : Nat) (s : State) : Host.Outcome State Fault Refusal := run (frameTransmitEnd link) s

end Sys2Proof.Machine
end

