-- ==== Sys2Proof/Machine/Rejoin.lean ====
section
/-! DEFINITION. Rejoin, resync and fills from the partner (12 R573 to R579). -/

-- Declarations are elaborated one after another: side by side, each would hold a thread and its stack.
set_option Elab.async false

namespace Sys2Proof.Machine

-- Sending (R573, R574, R577, R578) ----------------------------------------------------------------------------------------------------

/-- Fragments of 1,024 bytes with their offsets. -/
def fragments : Nat → Nat → List Byte → List (Nat × List Byte)
  | 0, _, _ => []
  | n + 1, o, bs => if bs.isEmpty then [] else (o, bs.take 1024) :: fragments n (o + 1024) (bs.drop 1024)

/-- Queues the STATE frames of a transfer, turn about on the two links (R574). -/
def Work.sendState (w : Work) (dst s : Nat) (gen : W32) (isFill : Bool) (bytes : List Byte) : Work :=
  (fragments (bytes.length / 1024 + 1) 0 bytes).foldl (fun w (o, b) =>
    (w.sendFrame (w.pickLink dst (o / 1024 % 2)) dst 5 { a := s + b2n isFill * 2 ^ 24, b := gen.toNat, c := o } b
      (if isFill then 65536 else s) gen).2.2) w

/-- One STATE frame that refuses a fill: 01h stale, 02h not held (R577). -/
def Work.refuseFill (w : Work) (dst s : Nat) (gen : W32) (status : Nat) : Work :=
  (w.sendFrame (w.pickLink dst 0) dst 5 { a := s + status * 65536 + 2 ^ 24, b := gen.toNat } [] 65536 gen).2.2

/-- Preamble and state of a stream with a state slot (R574). -/
def Work.stateTransfer (w : Work) (s : Nat) (m : Model) : List Byte :=
  let st := w.activeState s m.stateBytes
  (recordHeader s (w.ctx s) m.stateBytes (crc64 st)).take 64 ++ st

/-- The streams of the context table that the pass has an action for (R573). -/
def Work.passStreams (w : Work) : List (Nat × CtxEntry) :=
  w.d.arm.ctx.filter fun kv => kv.2.st != .free && kv.2.st != .quarantined

/-- The stream's row of R573; none while it has to wait. -/
def Work.passRow (w : Work) (s : Nat) : Option Work :=
  let c := w.ctx s
  match c.st with
  | .resident =>
    match w.model? c.model with
    | some m => some (w.sendState w.partnerPos s c.gen false (w.stateTransfer s m))
    | none => some w
  | .spilled => some (w.send (w.pickLink w.partnerPos 0) w.partnerPos 6 { a := 1 } (heldEntry s c))
  | .free => some w
  | .quarantined => some w
  | _ => none

/-- The spilled streams that follow one another in the table, at most 64. -/
def spilledRun : Nat → List (Nat × CtxEntry) → List (Nat × CtxEntry)
  | 0, _ => []
  | _, [] => []
  | n + 1, kv :: rest => if kv.2.st = .spilled then kv :: spilledRun n rest else []

/-- One step of the pass of the active block. -/
def Work.passStep (w : Work) (p : RjPass) : Work :=
  let set := fun (w : Work) (p : Option RjPass) => w.modPeer fun x => { x with pass := p }
  match w.passStreams.filter fun kv => decide (p.next ≤ kv.1) with
  | kv :: rest =>
    match spilledRun 64 (kv :: rest) with
    | [] =>
      match w.passRow kv.1 with
      | some w => set w (some { p with next := kv.1 + 1 })
      | none => w
    | run =>
      let w := w.send (w.pickLink w.partnerPos 0) w.partnerPos 6 { a := run.length } (run.flatMap fun x => heldEntry x.1 x.2)
      set w (some { p with next := ((run.getLast?).map Prod.fst).getD 0 + 1 })
  | [] =>
    match p.again with
    | [] => set w none
    | s :: rest =>
      match w.passRow s with
      | some w => set w (some ⟨65536, rest⟩)
      | none => w

/-- REJOIN_REQ: the active block clears every sync bit and begins its pass. -/
def rejoinReqFrame (h : Hdr) (w : Work) : Work :=
  if w.peerMode ≠ 1 || !w.d.peer.active || h.src ≠ w.partnerPos then w
  else w.modPeer fun p => { p with sync := [], pass := some ⟨0, []⟩, rjTold := false }

/-- Answers a fill from the record read at the own spill address (R577). -/
def Work.answerFill (w : Work) (s gen sidx dst : Nat) : Work :=
  let k := JobKey.peerFill s gen sidx dst
  match w.takeJob k with
  | none => w
  | some (bytes, w) =>
    let c := { w.ctx s with gen := w32 gen, sidx := BitVec.ofNat 48 sidx }
    let stale := w.refuseFill dst s (w32 gen) 1
    match bytes, w.memKey, w.model? c.model with
    | some b, some key, some m =>
      match openRecord key s c m b with
      | some p =>
        let st := p.take m.stateBytes
        w.sendState dst s (w32 gen) true ((recordHeader s c m.stateBytes (crc64 st)).take 64 ++ st)
      | none => stale
    | _, _, _ => stale

/-- FILL_REQ: the partner's fill (R577), or, with FLAGS bit 0 set, its request for one row of R573 (R578). -/
def fillReqFrame (h : Hdr) (b : List Byte) (w : Work) : Work :=
  if w.peerMode ≠ 1 || h.src ≠ w.partnerPos || b.length ≠ 16 then w
  else
    let s := word32 b 0 % 65536
    let gen := word32 b 4
    let sidx := word64 b 8 % 2 ^ 48
    let c := w.ctx s
    if bitOf h.flags 0 then
      w.modPeer fun p =>
        let pass := p.pass.getD ⟨65536, []⟩
        { p with pass := some { pass with again := pass.again.filter (· != s) ++ [s] } }
    else if c.st = .free then w.refuseFill h.src s (w32 gen) 2
    else
      let holds := c.gen.toNat == gen && (c.st == .resident || c.st == .busy || c.st == .spilling)
      match w.model? c.model with
      | none => w.refuseFill h.src s (w32 gen) 1
      | some m =>
        if holds then w.sendState h.src s c.gen true (w.stateTransfer s m)
        else if c.spill = 0 || w.memKey.isNone then w.refuseFill h.src s (w32 gen) 1
        else if (w.jobFor (.peerFill s gen sidx h.src)).isSome then w
        else w.readHost (.peerFill s gen sidx h.src) (c.spill * 512) (recordLen m) none (2 ^ 64 - 1) 2

-- Installing (R575, R576) ---------------------------------------------------------------------------------------------------------------

/-- The bytes assembled from offset 0 without a gap. Structural on the fuel. -/
def assemble (frags : List (Nat × List Byte)) : Nat → List Byte → List Byte
  | 0, acc => acc
  | n + 1, acc =>
    match frags.find? fun f => f.1 == acc.length && !f.2.isEmpty with
    | some f => assemble frags n (acc ++ f.2)
    | none => acc

/-- What an assembly has come to: every byte of a transfer, or none yet. -/
def StateAsm.ready (a : StateAsm) : Option (List Byte) :=
  let b := assemble a.frags (a.frags.length + 1) []
  if 64 ≤ b.length && 64 + word32 b 0x10 ≤ b.length then some (b.take (64 + word32 b 0x10)) else none

def StateAsm.same (a b : StateAsm) : Bool := a.stream == b.stream && a.kind == b.kind
def Work.dropAsm (w : Work) (a : StateAsm) : Work := w.modPeer fun p => { p with asm := p.asm.filter fun x => !x.same a }

/-- The context entry of a transfer: from the preamble (R311). -/
def preambleEntry (b : List Byte) : CtxEntry :=
  { CtxEntry.init with gen := w32 (word32 b 4), sidx := BitVec.ofNat 48 (word32 b 8 + word32 b 0xC % 65536 * 2 ^ 32),
                       model := word32 b 0xC / 65536 % 256 }

/-- Does a preamble check against an entry (R314)? -/
def preambleOk (s : Nat) (c : CtxEntry) (m : Model) (b : List Byte) : Bool :=
  let st := b.drop 64
  st.length == m.stateBytes && b.take 64 == (recordHeader s c m.stateBytes (crc64 st)).take 64

/-- The payload of a state slot half: the state, then zeros. -/
def padState (m : Model) (st : List Byte) : List Byte := st ++ List.replicate (2048 * m.halfPages - st.length) 0

/-- Evictions for an install are made under ring number 64; what failed for one is forgotten with it. -/
def Work.forgetEvict (w : Work) : Work := w.modArm fun a => { a with noEvict := a.noEvict.filter fun x => x.1 != 64 }

/-- A stream is installed: sync bit, INSTALL_ACK (R575, R576). -/
def Work.installed (w : Work) (s : Nat) (gen : W32) (held : Bool) : Work :=
  (w.forgetEvict.modPeer fun p => { p with sync := tabSet false p.sync s true, partner := tabSet false p.partner s held }).send
    (w.pickLink w.partnerPos 0) w.partnerPos 11 { a := s, b := gen.toNat } []

/-- REJOIN_REFUSED: not installed. -/
def Work.refuseInstall (w : Work) (a : StateAsm) : Work :=
  (w.dropAsm a).forgetEvict.logCode 0x610A 0

/-- Installs a complete transfer, once the stream is in no passing state (R575). -/
def Work.installState (w : Work) (a : StateAsm) (b : List Byte) : Work :=
  let s := a.stream
  let new := preambleEntry b
  let c := w.ctx s
  match c.st with
  | .busy => w
  | .filling => w
  | .spilling => w
  | _ =>
    match w.live? new.model with
    | none => w.refuseInstall a
    | some m =>
      if !preambleOk s { new with gen := a.gen } m b then w.dropAsm a
      else if c.st = .quarantined || (c.st != .free && c.model != new.model) then w.refuseInstall a
      else
        let put := fun (w : Work) =>
          let c := w.ctx s
          let w := w.writeHalf ((w.sslot c.sslot).pagesOf (!c.half)) 0 (padState m (b.drop 64))
          let w := w.modCtx s fun c => { c with
            st := .resident, half := !c.half, gen := new.gen, sidx := new.sidx, model := new.model, spillCur := false }
          let w := w.modArm fun x => { x with passes := x.passes.filter fun p => p.stream != s }
          (w.dropAsm a).installed s new.gen false
        if c.st = .resident then put w
        else match w.makeRoom 64 0 (2 ^ 64 - 1) m.halfPages with
          | (.later, w) => w
          | (.full, w) => w.refuseInstall a
          | (.ok, w) => put (w.allocSlot s m.halfPages)

/-- Installs a HELD entry (R576). -/
def Work.installHeld (w : Work) (a : StateAsm) : Work :=
  let s := a.stream
  let b := nth (0, []) a.frags 0
  let model := word32 b.2 0 / 65536 % 256
  let sidx := BitVec.ofNat 48 (word64 b.2 8)
  let c := w.ctx s
  match c.st with
  | .busy => w
  | .filling => w
  | .spilling => w
  | _ =>
    if (w.live? model).isNone || c.st = .quarantined || (c.st != .free && c.model != model) then w.refuseInstall a
    else
      let w := if c.st = .resident then w.freeSlot s else w
      let w := w.modCtx s fun c => { c with st := .spilled, gen := a.gen, sidx := sidx, model := model, spill := 0, spillCur := false }
      (w.dropAsm a).installed s a.gen true

/-- Tries what is assembled or held. -/
def Work.tryInstall (w : Work) (a : StateAsm) : Work :=
  match a.kind with
  | 0 => match a.ready with
    | some b => w.installState a b
    | none => w
  | 2 => w.installHeld a
  | _ => w

/-- A fill from the partner has every byte: verified under R314 or refused (R577). -/
def Work.landFill (w : Work) (a : StateAsm) (b : List Byte) : Work :=
  let w := w.dropAsm a
  match w.armJob a.stream with
  | none => w
  | some j =>
    let c := w.ctx a.stream
    match w.model? c.model with
    | some m => if preambleOk a.stream c m b then w.fillDone j (padState m (b.drop 64)) else w.fillLost j ⟨0x610B, 0, 0⟩ false
    | none => w.fillLost j ⟨0x610B, 0, 0⟩ false

/-- Adds a fragment to its assembly; one of another generation takes the place of what was there. -/
def Work.addFrag (w : Work) (s kind : Nat) (gen : W32) (o : Nat) (b : List Byte) : StateAsm × Work :=
  let old := w.d.peer.asm.find? fun x => x.stream == s && x.kind == kind && x.gen == gen
  let a : StateAsm := ⟨s, gen, kind, ((old.map StateAsm.frags).getD []).filter (fun f => f.1 != o) ++ [(o, b)]⟩
  (a, (w.dropAsm a).modPeer fun p => { p with asm := p.asm ++ [a] })

/-- A frame of the pass has come: it has begun (R579). -/
def Work.passSeen (w : Work) : Work := w.modPeer fun p => { p with rjSeen := p.rejoin }

/-- A STATE frame. -/
def stateFrame (h : Hdr) (b : List Byte) (w : Work) : Work :=
  let s := h.a % 65536
  let status := bitsOf h.a 16 8
  if w.peerMode ≠ 1 || h.src ≠ w.partnerPos then w
  else if bitOf h.a 24 then
    match w.armJob s with
    | none => w
    | some j =>
      if !j.isFill || !w.partnerHeld s || (w.ctx s).gen.toNat ≠ h.b then w
      else if status ≠ 0 then w.fillLost j ⟨0x610B, 0, 0⟩ false
      else
        let r := w.addFrag s 1 (w32 h.b) h.c b
        match r.1.ready with
        | some x => r.2.landFill r.1 x
        | none => r.2
  else if status ≠ 0 then w
  else
    let r := w.passSeen.addFrag s 0 (w32 h.b) h.c b
    r.2.tryInstall r.1

/-- A HELD frame. -/
def heldFrame (h : Hdr) (b : List Byte) (w : Work) : Work :=
  if w.peerMode ≠ 1 || h.src ≠ w.partnerPos || b.length ≠ 16 * h.a then w
  else (List.range h.a).foldl (fun w i =>
    let x := sliceAt b (16 * i) 16
    let r := w.addFrag (word32 x 0 % 65536) 2 (w32 (word32 x 4)) 0 x
    r.2.tryInstall r.1) w.passSeen

/-- INSTALL_ACK. -/
def installAckFrame (h : Hdr) (w : Work) : Work :=
  if w.peerMode ≠ 1 || h.src ≠ w.partnerPos then w
  else w.modPeer fun p => { p with sync := tabSet false p.sync (h.a % 65536) true }

/-- REJOIN_PASS_STEP: the pass goes on; a rejoining block tries again what had to wait (R304, R575). -/
def rejoinPassStep (w : Work) : Work :=
  if !w.paired w.partnerPos || w.peerMode ≠ 1 then w
  else match w.d.peer.pass with
    | some p => w.passStep p
    | none => w.d.peer.asm.foldl (fun w a => w.tryInstall a) w

/-- PEER_RESYNC.GO: asks the partner for one stream (R578). -/
def Work.askResync (w : Work) (s : Nat) : Work :=
  if w.peerMode ≠ 1 || !w.paired w.partnerPos then w
  else w.send (w.pickLink w.partnerPos 0) w.partnerPos 7 { flags := 1 } (heldEntry s (w.ctx s))

/-- REJOIN_REQ (R573). -/
def execRejoinReq (link : Nat) (frame : RxFrame) (s : State) : Host.Outcome State Fault Refusal :=
  run (onFrame 10 link frame fun h _ w => rejoinReqFrame h w) s
/-- REJOIN_PASS_STEP (R573). -/
def execRejoinPassStep (s : State) : Host.Outcome State Fault Refusal := run rejoinPassStep s
/-- STATE (R575). -/
def execStateFrame (link : Nat) (frame : RxFrame) (s : State) : Host.Outcome State Fault Refusal :=
  run (onFrame 5 link frame stateFrame) s
/-- HELD (R576). -/
def execHeld (link : Nat) (frame : RxFrame) (s : State) : Host.Outcome State Fault Refusal := run (onFrame 6 link frame heldFrame) s
/-- FILL_REQ (R577). -/
def execFillReq (link : Nat) (frame : RxFrame) (s : State) : Host.Outcome State Fault Refusal :=
  run (onFrame 7 link frame fillReqFrame) s
/-- INSTALL_ACK (R575). -/
def execInstallAck (link : Nat) (frame : RxFrame) (s : State) : Host.Outcome State Fault Refusal :=
  run (onFrame 11 link frame fun h _ w => installAckFrame h w) s

end Sys2Proof.Machine
end

