-- ==== Sys2Proof/Machine/Ports.lean ====
section
/-! DEFINITION. The memory ports (16 R711 to R723): arbitration (09 R409 to R411), host windows (R649), sealing (R655 to R658),
responses, retries (13 R616 to R618), and what each unit does with what it gets. -/

-- Declarations are elaborated one after another: side by side, each would hold a thread and its stack.
set_option Elab.async false

namespace Sys2Proof.Machine

def Work.modPorts (w : Work) (f : Ports → Ports) : Work := w.mod fun d => { d with ports := f d.ports }

-- What a descriptor does with what it has read --------------------------------------------------------------------------------------

/-- The function a MGMT descriptor performs on its request. -/
def mgmtFn (func : Nat) : Exec → List Byte → Work → Work :=
  match func with
  | 1 => tableRead
  | 2 => streamMgmt
  | 3 => streamMgmt
  | 4 => winCounts
  | 0x100 => challenge
  | 0x101 => authenticate
  | 0x102 => closeSession
  | 0x103 => attestReq
  | 0x104 => propose
  | 0x105 => countersign
  | 0x106 => withdraw
  | 0x107 => perfRead
  | 0x200 => retireRead
  | 0x201 => retire
  | 0x202 => castRegion
  | _ => fun _ _ w => w

/-- A descriptor's own read is finished: it goes on with the bytes. -/
def Work.descRead (w : Work) (r s : Nat) : Work :=
  match w.jobFor (.desc r s), w.exec? r s with
  | some j, some e =>
    if !j.ready then w
    else
      let bytes := if j.bad then none else some j.bytes
      let w := w.dropJob (.desc r s)
      match dOpc e.desc with
      | 0x10 => w.bindData e bytes j.cause j.detail
      | 0x20 => w.wloadData e bytes j.cause j.detail
      | 0x21 => w.tloadData e bytes j.cause j.detail
      | 0x40 => w.mgmtData (mgmtFn (dFunc e.desc)) e bytes j.cause j.detail
      | _ => w
  | _, _ => w

-- Users -----------------------------------------------------------------------------------------------------------------------------

/-- A piece of a whole read has come, or has failed for good. -/
def Work.jobPiece (w : Work) (j off : Nat) (data : List Byte) (bad : Bool) (cause : List (W16 × W32)) : Work :=
  let c := (cause.head?).getD (0, 0)
  let w := w.modPorts fun p => { p with jobs := modFirst (fun x => x.j == j) (fun x => { x with
    pieces := x.pieces ++ [(off, data)], left := x.left - 1, bad := x.bad || bad,
    cause := (if x.cause = 0 then c.1 else x.cause), detail := (if x.cause = 0 then c.2 else x.detail) }) p.jobs }
  match w.d.ports.jobs.find? fun x => x.j == j with
  | some x =>
    match x.key with
    | .desc r s => w.descRead r s
    | .peerFill s g x dst => w.answerFill s g x dst
    | _ => w
  | none => w

/-- The descriptor and stream of a pointing engine's request, while the stream is there. -/
def Work.streamOf (w : Work) (p s e : Nat) : Option PtStream :=
  match w.stream? p s with
  | some x => if x.epoch = e then some x else none
  | none => none

/-- Counts a response that no stream waits for (R425). -/
def Work.discardResponse (w : Work) : Work :=
  w.mod fun d => { d with pt := { d.pt with discard := w32 (satAdd (2 ^ 32 - 1) d.pt.discard.toNat 1) } }

/-- A read has its final answer: the data, or poison or failure with its causes. -/
def Work.readDone (w : Work) (q : PortReq) (data : List Byte) (bad : Bool) (cause : List (W16 × W32)) : Work :=
  match q.user with
  | .job j off => w.jobPiece j off data bad cause
  | .stream p s e => if (w.streamOf p s e).isSome then w.streamData q p s e data bad cause else w.discardResponse
  | _ => w

/-- A write is accepted (R719) or has failed for good; a STORE's failure is the outcome of a step that has committed but whose record
still waits for its writes (R286, R521). -/
def Work.writeDone (w : Work) (q : PortReq) (fail : Option (W16 × W32)) : Work :=
  match q.user with
  | .stream p s e =>
    match w.streamOf p s e with
    | none => w.discardResponse
    | some x =>
      let w := match fail with
        | some c => w.modExec x.ring x.seq fun e =>
            let o := e.sfail.getD ⟨0x3131, c.1, c.2⟩
            { e with sfail := some o, out := if e.ph == Phase.effects && !e.failed then o else e.out }
        | none => w
      w.storeDone x
  | .out r s =>
    let w := match fail with
      | some c => w.modExec r s fun e => { e with out := if e.out.code = 0 then ⟨0x3131, c.1, c.2⟩ else e.out }
      | none => w
    w.settle r s
  | .record r s k => w.recordGone r s k fail.isNone
  | .spill s =>
    match fail with
    | some c =>
      let mark := fun (j : ArmJob) => if j.ok then { j with ok := false, cause := c.1, detail := c.2 } else j
      w.modArm fun a => { a with jobs := modFirst (fun j => j.stream == s && !j.isFill) mark a.jobs }
    | none => w
  | .ledger =>
    match fail with
    | some c => (w.ledgerFailed c.1 c.2).attestPump
    | none => w.modLed fun l => { l with accepted := l.entry.isSome }
  | .cast =>
    if fail.isSome then
      w.mod fun d => { d with saf := { d.saf with cast := d.saf.cast.map fun c => { c with bad := true } } }
    else w
  | _ => w

-- Sealing (R655 to R658) -------------------------------------------------------------------------------------------------------------

/-- Units whose accesses lie in PLAIN windows in confidential mode (R650). -/
def User.plain : User → Bool
  | .ledger => true
  | .cast => true
  | .message => true
  | _ => false

def PortReq.len (q : PortReq) : Nat := 64 * q.beats
/-- Is a request sealed? -/
def Work.seals (w : Work) (q : PortReq) : Bool := w.d.sec.conf && !q.user.plain

/-- SOURCE of R722 by the class rank CL of R410: ring fetcher and poller, Armature, pointing engine, Atelier
(DEDUCED, log entry 112). -/
def sourceOf (cl : Nat) : Nat :=
  match cl with
  | 0 | 1 => 2
  | 2 | 6 => 1
  | 3 | 4 | 5 => 0
  | _ => 3
/-- The attributes a request carries at its port (R722): SEALED, SOURCE, CL. -/
def Work.reqAttr (w : Work) (q : PortReq) : Nat := b2n (w.seals q) * 32 + sourceOf q.cl * 8 + q.cl % 8

/-- The window a request goes through (R649, R650): the lowest that allows it and, in confidential mode, has the PLAIN bit its
user asks for. -/
def Work.windowFor (w : Work) (q : PortReq) : Option HWin :=
  w.d.hwins.find? fun x => x.allows (q.isWrite && !q.merge) q.addr q.len && (!w.d.sec.conf || x.plain == q.user.plain)

/-- Is a request within the host windows? -/
def Work.windowOk (w : Work) (q : PortReq) : Bool := !w.d.hwinOn || (w.windowFor q).isSome

/-- The additional data of a granule (R655). -/
def sealAad (g win : Nat) : List Byte := leBytes 6 g ++ [w8 win, 0]

/-- Opens a granule under its tag entry; none where it fails. -/
def openGranule (key : List Byte) (g win : Nat) (data entry : List Byte) : Option (List Byte) :=
  let ks := aesKeys key
  let iv := entry.take 12
  let c := sliceAt data 0 256
  if gcmTag ks iv (sealAad g win) c = sliceAt entry 16 16 && zeroRange entry 12 16 then some (gcmStream ks iv c) else none

/-- Seals a granule: the text and its tag entry (R655, R656). -/
def sealGranule (key : List Byte) (g win count : Nat) (text : List Byte) : List Byte × List Byte :=
  let ks := aesKeys key
  let iv := leBytes 8 count ++ [0, 0, 0, 0x80]
  let c := gcmStream ks iv text
  (c, iv ++ [0, 0, 0, 0] ++ gcmTag ks iv (sealAad g win) c)

/-- The granule of a request. -/
def PortReq.granule (q : PortReq) : Nat := q.addr / 256 * 256

/-- The plain bytes of a granule as a response brings it; none with CONF_AUTH logged, at most once per ms (R658). -/
def Work.opened (w : Work) (q : PortReq) (data tags : List Byte) : Option (List Byte) × Work :=
  let win := ((w.windowFor { q with isWrite := false }).map HWin.num).getD 0
  match openGranule w.d.sec.confKey q.granule win data tags with
  | some t => (some t, w)
  | none =>
    let due := match w.d.sec.authAt with
      | some t => decide (t + 1000000 ≤ w.now)
      | none => true
    (none, if due then (w.modSec fun s => { s with authAt := some w.now }).logCode 0x710B 0 else w)

/-- Does a write cover its whole granule? -/
def PortReq.whole (q : PortReq) : Bool := q.beats == 4 && (List.range 256).all fun i => q.data.any fun b => b.1 == i

/-- What is issued for a request: a sealed write is sealed as it issues, one that covers part of a granule reads it first. -/
def Work.toIssue (w : Work) (q : PortReq) : PortReq × Work :=
  if !w.seals q || !q.isWrite || !q.tags.isEmpty then (q, w)
  else if !q.whole then ({ q with merge := true }, w)
  else
    let win := ((w.windowFor q).map HWin.num).getD 0
    let text := (List.range 256).map fun i => ((q.data.find? fun b => b.1 == i).map Prod.snd).getD 0
    let s := sealGranule w.d.sec.confKey q.granule win w.d.sec.writes text
    ({ q with data := runFrom 0 s.1, tags := s.2 }, w.modSec fun x => { x with writes := (x.writes + 1) % 2 ^ 64 })

-- Grants (R409, R410, R711) ------------------------------------------------------------------------------------------------------------

def keyLe : List Nat → List Nat → Bool
  | a :: as, b :: bs => decide (a < b) || (a == b && keyLe as bs)
  | _, _ => true

/-- Tiles a stream still holds, for a fetch request of a running step. -/
def Work.fetchState (w : Work) (q : PortReq) : Option (PtStream × Exec × Nat) :=
  match q.user with
  | .stream p s e =>
    match w.streamOf p s e with
    | some x => if x.cmd.isStore then none else (w.stepOf x).map fun (e, m) => (x, e, w.ptTiles e m x)
    | none => none
  | _ => none

/-- The deadline a request carries: of a fill that of the earliest descriptor that waits on it (R317). -/
def Work.deadlineOf (w : Work) (q : PortReq) : Nat :=
  match q.user with
  | .job j _ =>
    match (w.d.ports.jobs.find? fun x => x.j == j).map ReadJob.key with
    | some (.fill s) =>
      match sortBy (fun a b => decide (a.order ≤ b.order)) (w.d.rings.execs.filter fun e => e.wants s) with
      | e :: _ => dDl e.desc
      | [] => q.dl
    | _ => q.dl
  | _ => q.dl

/-- The key (T, DL, CL, Q) of a candidate. -/
def Work.grantKey (w : Work) (q : PortReq) : List Nat :=
  let dry := match w.fetchState q with
    | some (x, e, n) => w.toDry x e n
    | none => 0
  [(w.now + dry) / 64, if q.cl ≤ 1 then w.now else w.deadlineOf q, q.cl, q.q]

/-- A grant to a dry stream of a real-time descriptor is counted, a retry's too (R427). -/
def Work.countDry (w : Work) (q : PortReq) : Work :=
  match w.fetchState q with
  | some (_, e, 0) => if dRt e.desc then w.mod fun d => { d with pt := { d.pt with dry := satAdd 65535 d.pt.dry 1 } } else w
  | _ => w

/-- Forms the requests of a port's streams as far as they go; STOREs with nothing left to write end. -/
def Work.formRequests (w : Work) (port : Nat) : Work :=
  let mine := (w.d.pt.streams.filter fun x => x.port == port).map PtStream.slot
  mine.foldl (fun w k =>
    let w := match w.stream? port k with
      | some x => w.feedOn x
      | none => w
    match w.stream? port k with
    | some x => w.storeDone x
    | none => w) w

/-- The candidates of a port, with the stream as it stands once its request is taken. -/
def Work.candidates (w : Work) (port : Nat) : List (PortReq × Option PtStream) :=
  ((w.d.ports.cands.filter fun q => q.port == port).map fun q => (q, none)) ++
  (w.d.pt.streams.filter fun x => x.port == port).filterMap fun x => (w.streamReq x).map fun r => (r.1, some r.2)

/-- Is an id free on a port (R388, R717, R718)? -/
def Work.idFree (w : Work) (port id : Nat) : Bool :=
  decide (id < 256) && !(w.d.ports.out.any fun q => q.port == port && q.id == id) &&
  !(w.d.ports.dead.any fun x => x == (port, id))

/-- A request transfers: retried requests are counted (R625), a STORE's outputs are on their way (R425). -/
def Work.transferred (w : Work) (q : PortReq) : Work :=
  let w := if q.tries = 1 then w.modPorts fun p => { p with retried := satAdd 65535 p.retried 1 } else w
  match q.user with
  | .stream p s e =>
    match w.streamOf p s e with
    | some x => if q.isWrite then w.modExec x.ring x.seq fun e => { e with wrote := true } else w
    | none => w
  | _ => w

/-- A request fails for good with its causes; what a failed read delivers as bytes the spec leaves open (R420). -/
def Work.failWith (w : Work) (q : PortReq) (c : W16 × W32) : Work :=
  if q.isWrite then w.writeDone q (some c)
  else
    let b := w.freshBytes q.len
    b.2.readDone q b.1 true [c]

/-- A request outside the host windows is not issued and fails (R649). -/
def Work.windowFail (w : Work) (q : PortReq) : Work :=
  let c : W16 × W32 := (0x710A, w32 (q.addr / 65536))
  (w.raise [c] none).failWith q c

/-- One grant: the candidate with the smallest key is offered, and transfers once the port is ready; a retry only under another id
than before (R717). -/
def Work.grant (w : Work) (id : Nat) (ready : Bool) (cs : List (PortReq × Option PtStream)) : Work :=
  match sortBy (fun a b => keyLe (w.grantKey a.1) (w.grantKey b.1)) cs with
  | [] => w
  | (q, st) :: _ =>
    if q.tries ≠ 0 && q.id == id then w
    else
    let w := match st with
      | some x => w.setStream x
      | none => w.modPorts fun p => { p with cands := dropFirst (· == q) p.cands }
    if !w.windowOk q then w.windowFail q
    else
      let i := (w.countDry q).toIssue q
      let q := { i.1 with id := id, sent := ready }
      let w := i.2.modPorts fun p => { p with out := p.out ++ [q] }
      if ready then w.transferred q else w

/-- PORT_REQUEST_GRANT: a request already offered keeps its place until it transfers (R711). After a fatal error only the cast
dump's requests go out (R608), and none in the safe state (R609). -/
def portRequestGrant (port id : Nat) (ready : Bool) (w : Work) : Work :=
  if w.log.safe || !w.d.boot.powered then w
  else match w.d.ports.out.find? fun q => q.port == port && !q.sent with
    | some q =>
      if ready then (w.modPorts fun p => { p with out := modFirst (· == q) (fun q => { q with sent := true }) p.out }).transferred q
      else w
    | none =>
      if !w.idFree port id then w
      else if w.log.fatal then
        w.grant id ready ((w.candidates port).filter fun c => c.1.user == .cast)
      else
        let w := w.formRequests port
        w.grant id ready (w.candidates port)

-- Responses (R714 to R719) and retries (R616 to R618) ----------------------------------------------------------------------------------

/-- The request that a response answers. -/
def Work.outstanding (w : Work) (port id : Nat) : Option PortReq :=
  w.d.ports.out.find? fun q => q.port == port && q.id == id && q.sent
def Work.dropOut (w : Work) (q : PortReq) : Work := w.modPorts fun p => { p with out := dropFirst (· == q) p.out }

/-- Retries per request (R625). -/
def Work.maxRetry (w : Work) : Nat := min 2 (fld (w.cfg 0x330) 16 2)

/-- The cause of a request that failed (R617, R618). -/
def PortReq.retryCause (q : PortReq) : W16 × W32 :=
  (0x3106, w32 ((q.tries + 1) * 2 ^ 28 + q.port * 65536 + q.id % 65536))

/-- A request fails for good. -/
def Work.requestFails (w : Work) (q : PortReq) : Work :=
  (w.modPorts fun p => { p with failed := satAdd 65535 p.failed 1 }).failWith q q.retryCause

/-- Does the deadline of a real-time step under the drop policy end the budget of one of its requests (R617)? -/
def Work.deadlineEnds (w : Work) (q : PortReq) : Option Exec :=
  match q.user with
  | .stream p s e =>
    match w.streamOf p s e with
    | some x =>
      match w.exec? x.ring x.seq with
      | some e => if dPol e.desc && e.passed w.tb then some e else none
      | none => none
    | none => none
  | _ => none

/-- Is the unit that asked gone: the request was cancelled, or its stream has ended? -/
def Work.orphan (w : Work) (q : PortReq) : Bool :=
  q.cancelled || (match q.user with
    | .stream p s e => (w.streamOf p s e).isNone
    | _ => false)

/-- A response nothing waits for. -/
def Work.orphanResponse (w : Work) (q : PortReq) : Work :=
  let w := w.dropOut q
  match q.user with
  | .stream _ _ _ => if w.log.fatal then w else w.discardResponse
  | _ => w

/-- The STORE stream of a request whose step has ended: what it has not issued, a retry or a merged write too, is cancelled (R425). -/
def Work.endedStore (w : Work) (q : PortReq) : Option PtStream :=
  match q.user with
  | .stream p s e => (w.streamOf p s e).filter fun x => x.cmd.isStore && x.cmd.nrec == 0
  | _ => none

/-- An error response: the request is issued again, or fails; one that comes after the deadline has ended the budget is
discarded (R617). -/
def Work.errorResponse (w : Work) (q : PortReq) : Work :=
  match w.deadlineEnds q, w.endedStore q with
  | some e, _ => (w.testDl e.ring e.seq fun w => w).orphanResponse q
  | none, some x => (w.dropOut q).storeDone x
  | none, none =>
    let w := w.dropOut q
    if q.tries < w.maxRetry then
      w.modPorts fun p => { p with cands := p.cands ++ [{ q with tries := q.tries + 1, sent := false }] }
    else w.requestFails q

/-- A response whose id is not outstanding: its id is free again, or it is a stray (R718). -/
def Work.strayResponse (w : Work) (port id : Nat) : Work :=
  if w.d.ports.dead.any (· == (port, id)) then w.modPorts fun p => { p with dead := p.dead.filter (· != (port, id)) }
  else w.logCode 0x310A 0

/-- The plain data of a read response and whether it counts as poisoned: a poisoned response delivers its bytes (R420), but a granule
that cannot be opened bytes the spec leaves open. -/
def Work.responseData (w : Work) (q : PortReq) (data : List Byte) (poison : Bool) (tags : List Byte) : List Byte × Bool × Work :=
  if !w.seals q then (sliceAt data 0 q.len, poison, w)
  else
    let o := if poison then (none, w) else w.opened q data tags
    match o.1 with
    | some t => (sliceAt t (q.addr - q.granule) q.len, false, o.2)
    | none => let b := o.2.freshBytes q.len; (b.1, true, b.2)

/-- The granule of a sealed partial write has been read: the new bytes are merged, and the whole is written (R657). -/
def Work.mergeDone (w : Work) (q : PortReq) (data : List Byte) (poison : Bool) (tags : List Byte) : Work :=
  let o := if poison then (none, w) else w.opened q data tags
  match o.1 with
  | none => o.2.writeDone q (some (if poison then ((0x3130 : W16), 0) else (0x710B, 0)))
  | some t =>
    let shift := q.addr - q.granule
    let put := q.data.map fun b => (b.1 + shift, b.2)
    let full := (List.range 256).map fun i => (i, ((put.find? fun b => b.1 == i).map Prod.snd).getD (nth 0 t i))
    o.2.modPorts fun p => { p with cands := p.cands ++ [{ q with
      merge := false, addr := q.granule, beats := 4, data := full, poison := q.poison.map (· + shift), tries := 0, sent := false }] }

/-- PORT_READ_RESPONSE: status 0 is OK, any other ERROR (R715); a poisoned answer is never retried (R616). -/
def portReadResponse (port id : Nat) (data : List Byte) (status : Nat) (poison : Bool) (tags : List Byte) (w : Work) : Work :=
  match w.outstanding port id with
  | none => w.strayResponse port id
  | some q =>
    if q.isWrite && !q.merge then w
    else if w.orphan q || w.log.fatal then w.orphanResponse q
    else if status ≠ 0 then w.errorResponse q
    else
      let w := w.dropOut q
      if q.merge then
        match w.endedStore q with
        | some x => w.storeDone x
        | none => w.mergeDone q data poison tags
      else
        let d := w.responseData q data poison tags
        d.2.2.readDone q d.1 d.2.1 []

/-- PORT_WRITE_RESPONSE: after a fatal error only the cast dump's writes matter. -/
def portWriteResponse (port id status : Nat) (w : Work) : Work :=
  match w.outstanding port id with
  | none => w.strayResponse port id
  | some q =>
    if !q.isWrite || q.merge then w
    else if w.orphan q || (w.log.fatal && q.user != .cast) then w.orphanResponse q
    else if status ≠ 0 then w.errorResponse q
    else (w.dropOut q).writeDone q none

/-- RETRY_BUDGET_EXPIRY: an attempt still awaited fails, and its id stays out of use until its response comes (R718); a retry
not yet issued fails too. -/
def retryBudgetExpiry (port id : Nat) (w : Work) : Work :=
  match w.outstanding port id with
  | some q =>
    let w := (w.dropOut q).modPorts fun p => { p with dead := p.dead ++ [(port, id)] }
    if w.orphan q || (w.log.fatal && q.user != .cast) then w else w.requestFails q
  | none =>
    match w.d.ports.cands.find? fun q => q.port == port && q.id == id && q.tries != 0 with
    | some q =>
      let w := w.modPorts fun p => { p with cands := dropFirst (· == q) p.cands }
      if w.log.fatal && q.user != .cast then w else w.requestFails q
    | none => w

-- DESCRIPTOR_RESUME (R304) ----------------------------------------------------------------------------------------------------------------

/-- A waiting descriptor looks again at what it waits for. -/
def descriptorResume (r s : Nat) (w : Work) : Work :=
  match w.exec? r s with
  | none => w
  | some e =>
    match dOpc e.desc with
    | 0x01 => w.resumeStep r s
    | 0x02 => w.resumeStep r s
    | 0x03 => w.resumeStep r s
    | 0x10 => w.resumeStreamOp r s
    | 0x11 => w.resumeStreamOp r s
    | 0x12 => w.resumeStreamOp r s
    | 0x13 => w.resumeStreamOp r s
    | 0x20 => w.resumeWload r s
    | 0x21 => w.resumeTload r s
    | 0x40 => w.resumeMgmt r s
    | _ => w

/-- A meaning of the ports' responses: they count while the block has power and until the safe state. -/
def onPort (f : Work → Work) (w : Work) : Work := if w.d.boot.powered then f w else w

/-- PORT_REQUEST_GRANT (R409). -/
def execPortRequestGrant (port id : Nat) (ready : Bool) (s : State) : Host.Outcome State Fault Refusal :=
  lift (portRequestGrant port id ready) s
/-- PORT_READ_RESPONSE (R714). -/
def execPortReadResponse (port id : Nat) (data : List Byte) (status : Nat) (poison : Bool) (tags : List Byte) (s : State) :
    Host.Outcome State Fault Refusal := lift (onPort (portReadResponse port id data status poison tags)) s
/-- PORT_WRITE_RESPONSE (R719). -/
def execPortWriteResponse (port id status : Nat) (s : State) : Host.Outcome State Fault Refusal :=
  lift (onPort (portWriteResponse port id status)) s
/-- RETRY_BUDGET_EXPIRY (R616). -/
def execRetryBudgetExpiry (port id : Nat) (s : State) : Host.Outcome State Fault Refusal :=
  lift (onPort (retryBudgetExpiry port id)) s
/-- DESCRIPTOR_RESUME (R304). -/
def execDescriptorResume (ring seq : Nat) (s : State) : Host.Outcome State Fault Refusal := run (descriptorResume ring seq) s

end Sys2Proof.Machine
end

