-- ==== Sys2Proof/Machine/Calipers.lean ====
section
/-! DEFINITION. The calipers and rates (10 R455 to R477), the timebase (R478 to R481), the watchdogs (R447, R485). -/

-- Declarations are elaborated one after another: side by side, each would hold a thread and its stack.
set_option Elab.async false

namespace Sys2Proof.Machine

def Work.modCoreCal (w : Work) (p : Nat) (f : CoreCal → CoreCal) : Work := w.modCore p fun k => { k with cal := f k.cal }
def Work.inSvc (w : Work) (p : Nat) : Bool := w.d.inService.any (· == p)

/-- Raises a class 8h event with its INJ flag. -/
def Work.safety (w : Work) (code : W16) (detail : W32) (cores : List Nat) (who : Option (Nat × Nat × W16)) (inj : Bool) : Work :=
  { w with ev := .chain [(code, detail)] who inj cores :: w.ev }

-- Comparisons (R459 to R468) ---------------------------------------------------------------------------------------------------------

/-- COLUMN_FAULT (R468): raised during a step it fails that step on every core, raised during a maquette run no step. -/
def Work.columnFault (w : Work) (p col : Nat) (maquette inj : Bool) : Work :=
  let d := unitDetail 0 p col
  let w := w.safety 0x8107 d [p] (if maquette then none else w.whoOf p) inj
  match (w.core p).cur with
  | some c => if maquette then w else w.failStep c.ring c.seq 0x8107 d
  | none => w

/-- A confirmed guard mismatch (R462, R464 to R467): a lengthening is pending, once until the next boundary. -/
def Work.lengthen (w : Work) (p : Nat) (inj : Bool) : Work :=
  let k := (w.core p).cal
  let already := match k.pend with
    | some t => decide (k.trim ≤ t)
    | none => false
  if already then w
  else
    let beyond := decide (31 < k.trim + 2)
    let w := w.modCoreCal p fun c => { c with pend := some (min 31 (c.trim + 2)), confirmAll := true, limit := c.limit || beyond }
    let w := if beyond then w.safety 0x8108 (unitDetail 0x16 p 0) [p] none inj else w
    w.applyTrim p

/-- Does the array of a core compute groups for a maquette run or a retest, or for a step (R461)? -/
def Core.computes (k : Core) (maquette : Bool) : Bool :=
  if maquette then k.mq.running || k.mq.retest.isSome
  else !k.mmas.isEmpty && k.cur.any fun c => c.begun && !c.ended

/-- CALIPER_COMPARISON: of a group computed for a maquette run or for a step (R461), whether it matched, and how its confirmation went
if it has one. A fault armed by SAFE_INJECT shows at the core's next comparison (R623). During the trim procedure there is none of
these (R469). -/
def caliperComparison (p : Nat) (isMatch confirmMatch maquette : Bool) (w : Work) : Work :=
  if !w.inSvc p || w.d.cal.busy || !(w.core p).computes maquette then w
  else
    let k := (w.core p).cal
    let guard := w.takeArmed 3 p
    let fault := if guard.isSome then none else w.takeArmed 4 p
    let w := match guard, fault with
      | some (_, w), _ => w
      | _, some (_, w) => w
      | _, _ => w
    let inj := guard.isSome || fault.isSome
    let probe := !inj && k.compares % 16 == 15
    let good := isMatch && !inj
    let confirmed := if guard.isSome then true else if fault.isSome then false else confirmMatch
    let col := match fault with
      | some (a, _) => a % 64
      | none => k.col
    let w := w.modCoreCal p fun c => { c with
      compares := (c.compares + 1) % 16, col := (c.col + 1) % 64,
      probes := (if !good then 0 else if probe then min 4096 (c.probes + 1) else c.probes) }
    let asks := (!good && !probe) || k.confirmAll
    if asks && !confirmed then w.columnFault p col maquette inj
    else if !good && !probe then w.lengthen p inj
    else w

/-- PROBE_COUNT_REACHED: a shortening is pending, unless a lengthening is (R459, R465, R467). -/
def probeCountReached (p : Nat) (w : Work) : Work :=
  let k := (w.core p).cal
  if !w.inSvc p || k.probes < 4096 || k.trim = 0 || k.pend.isSome then w
  else (w.modCoreCal p fun c => { c with pend := some (c.trim - 1) }).applyTrim p

/-- The trim a retrim found for a core: at once, or at the step boundary where a step executes on the core (R42, R465; log entry
110). -/
def Work.setTrim (w : Work) (p t : Nat) : Work :=
  w.modCore p fun k =>
    let now := !(k.cur.any fun c => c.begun && !c.ended)
    { k with cal := if now then { k.cal with trim := t, pend := none, probes := 0, confirmAll := k.cal.limit }
                    else { k.cal with pend := some t } }

/-- TRIM_PROCEDURE_DONE: every core in service has its trim, NEED clears (R457, R469); after the initial one the block is READY
(R671). -/
def trimProcedureDone (trims : List Nat) (w : Work) : Work :=
  if !w.d.cal.busy then w
  else
    let w := w.d.inService.foldl (fun w p => w.setTrim p (min 31 (nth 31 trims p))) w
    w.mod fun d => { d with cal := { d.cal with need := false, busy := false },
                            boot := { d.boot with state := if d.boot.state = 5 then 6 else d.boot.state } }

-- Rates (R474 to R477) -----------------------------------------------------------------------------------------------------------------

def Work.modCal (w : Work) (f : Cal → Cal) : Work := w.mod fun d => { d with cal := f d.cal }

/-- BRATE_WINDOW_END: the internal timebase has passed the end of the window in progress, which is that of its millisecond (R474). A
window in which the timebase was held or invalid is discarded (R475); a count below the floor is BRATE_LOW (R477). -/
def brateWindowEnd (counts : List Nat) (w : Work) : Work :=
  let n := w.now / 1000000
  if n ≤ w.d.cal.window then w
  else
    let bad := w.d.cal.taint
    let w := w.modCal fun c => { c with window := n, taint := bad && (!w.tb.valid || w.tb.held) }
    if bad then w
    else
      let cs := w.d.inService
      let w := cs.foldl (fun w p => w.modCoreCal p fun c => { c with xbrate := w32 (max 1 (min (2 ^ 32 - 1) (nth 0 counts p))), rated := true }) w
      let floor := (w.cfg 0x20C).toNat
      match (sortBy (fun a b => decide (a ≤ b)) cs).find? fun p => decide (nth 0 counts p < floor) with
      | some p => if floor = 0 then w else w.logCode 0x5105 (w32 (p * 256))
      | none => w

/-- While a fatal error is handled a window's end still logs BRATE_LOW (R611), once for each window. -/
def watchWindow (f : Work → Work) (w : Work) : Work :=
  if w.log.fatal then { watch f w with d := { w.d with cal := (watch f { w with log := { w.log with fatal := false } }).d.cal } }
  else watch f w

-- The timebase (R478 to R482) -----------------------------------------------------------------------------------------------------------

/-- One sample of tb_ns and tb_valid, and whether it is a backward step (R479 to R481). -/
def Timebase.sample (t : Timebase) (ns : W64) (valid : Bool) : Timebase × Bool :=
  if !valid then ({ t with valid := false }, false)
  else if t.now.toNat ≤ ns.toNat then ({ t with now := ns, valid := true, held := false, invalid := false }, false)
  else ({ t with valid := true, held := true, invalid := false, steps := if t.held then t.steps else satAdd 65535 t.steps 1 }, !t.held)

/-- What a sample does to the units: TB_STEP is logged, the rate window in progress spoilt. -/
def sampleEffects (t : Timebase) (back : Bool) (w : Work) : Work :=
  let w := if !t.valid || t.held then w.mod fun d => { d with cal := { d.cal with taint := true } } else w
  if back then w.logCode 0x5104 0 else w

/-- TIMEBASE_UPDATE. -/
def timebaseUpdate (ns : Nat) (valid : Bool) (s : State) : State :=
  if !s.dev.boot.powered then s
  else
    let t := s.tb.sample (BitVec.ofNat 64 ns) valid
    { commitWork s (sampleEffects t.1 t.2 s.work) with tb := t.1 }

/-- TB_INVALID: raised once until tb_valid returns. -/
def tbInvalid (s : State) : State :=
  let on := (List.range 64).any fun r => bit (s.dev.cfgW (sqBase r + 8)) 31 || bit (s.dev.cfgW (cqBase r + 8)) 31
  if s.tb.valid || s.tb.invalid || !s.dev.boot.powered || !on then s
  else { commitWork s (watch (fun w => w.logCode 0x5103 0) s.work) with tb := { s.tb with invalid := true } }

-- Stalls (R447, R485) -------------------------------------------------------------------------------------------------------------------

/-- A unit of the table of R606. -/
def knownUnit (u : Nat) : Bool := decide (u ≤ 9) || (decide (0x10 ≤ u) && decide (u ≤ 0x16))

/-- STALL is raised for a unit; `qual` 0 TIMEOUT, 1 CODE. -/
def Work.stall (w : Work) (qual unit core inst : Nat) : Work :=
  if !knownUnit unit || (decide (unit < 8) && !w.inSvc core) then w
  else
    let armed := if qual = 0 then w.takeArmedAt 7 core unit else none
    let inj := armed.isSome
    let w := armed.getD w
    let d := unitDetail unit core inst + w32 (qual * 2 ^ 28)
    let cores := if unit < 8 then [core] else []
    w.safety 0x8106 d cores (if unit < 8 then w.whoOf core else none) inj

/-- CALIPER_COMPARISON (R459). -/
def execCaliperComparison (core : Nat) (isMatch confirmMatch : Bool) (s : State) (maquette : Bool := false) : Host.Outcome State Fault Refusal :=
  lift (watch (caliperComparison core isMatch confirmMatch maquette)) s
/-- PROBE_COUNT_REACHED (R459). -/
def execProbeCountReached (core : Nat) (s : State) : Host.Outcome State Fault Refusal := run (probeCountReached core) s
/-- TRIM_PROCEDURE_DONE (R469). -/
def execTrimProcedureDone (trims : List Nat) (s : State) : Host.Outcome State Fault Refusal := run (trimProcedureDone trims) s
/-- BRATE_WINDOW_END (R474). -/
def execBrateWindowEnd (counts : List Nat) (s : State) : Host.Outcome State Fault Refusal := lift (watchWindow (brateWindowEnd counts)) s
/-- TIMEBASE_UPDATE (R479). -/
def execTimebaseUpdate (ns : Nat) (valid : Bool) (s : State) : Host.Outcome State Fault Refusal := .next (timebaseUpdate ns valid s)
/-- TB_INVALID (R481). -/
def execTbInvalid (s : State) : Host.Outcome State Fault Refusal := .next (tbInvalid s)
/-- STALL (R485). -/
def execStall (unit core inst : Nat) (s : State) : Host.Outcome State Fault Refusal :=
  lift (watch fun w => w.stall 0 unit core inst) s
/-- CODEWORD_INVALID (R447). -/
def execCodewordInvalid (unit core inst : Nat) (s : State) : Host.Outcome State Fault Refusal :=
  lift (watch fun w => w.stall 1 unit core inst) s

end Sys2Proof.Machine
end

