-- ==== Sys2Proof/Machine/SafetyRows.lean ====
section
/-! DEFINITION. Maquette runs, reactions and retests, ECC findings, fatal events, the alive output (13 R590 to R624, 08 R371 to
R380). -/

-- Declarations are elaborated one after another: side by side, each would hold a thread and its stack.
set_option Elab.async false

namespace Sys2Proof.Machine

def Work.modSaf (w : Work) (f : Saf → Saf) : Work := w.mod fun d => { d with saf := f d.saf }
def Work.modMq (w : Work) (p : Nat) (f : CoreMq → CoreMq) : Work := w.modCore p fun k => { k with mq := f k.mq }

-- Maquette runs (R593, R594) ---------------------------------------------------------------------------------------------------------

/-- MAQUETTE_SCHEDULE: in READY the firmware starts a run on every core in service that has none (R689). -/
def maquetteSchedule (w : Work) : Work :=
  if w.d.boot.state ≠ 6 then w
  else w.d.inService.foldl (fun w p =>
    if (w.core p).mq.running then w else w.modMq p fun m => { m with running := true, forced := false }) w

/-- MAQUETTE_FORCE. -/
def maquetteForce (p : Nat) (w : Work) : Work :=
  let m := (w.core p).mq
  if !m.running || m.forced then w
  else (w.modMq p fun m => { m with forced := true }).modSaf fun s => { s with forced := satAdd 255 s.forced 1 }

/-- The unit that an armed wrong result names on a core (R623). -/
def Work.armedUnit (w : Work) (p : Nat) : Option (Nat × Work) := w.takeArmed 6 p

/-- MAQUETTE_DONE. -/
def maquetteDone (p : Nat) (ok : Bool) (unit : Nat) (w : Work) : Work :=
  if !(w.core p).mq.running then w
  else
    let w := (w.modMq p fun m => { m with running := false, forced := false }).modSaf fun s => { s with runs := satAdd 65535 s.runs 1 }
    let bad := fun (w : Work) (u : Nat) (inj : Bool) =>
      (w.modSaf fun s => { s with fails := satAdd 255 s.fails 1 }).safety 0x8102 (unitDetail u p 0) [p] none inj
    match w.armedUnit p with
    | some (u, w) => bad w (u % 256) true
    | none => if ok then w else bad w unit false

-- Reactions (R603, R604) ----------------------------------------------------------------------------------------------------------------

/-- The block takes a core out of service for a permanent fault (R52, R603, R604). -/
def Work.coreLost (w : Work) (p : Nat) (detail : W32) : Work :=
  if (w.core p).lost then w else (w.safety 0x8104 detail [p] none false).loseCore p detail

/-- A retest of a core; a second one within 1 s of a passed one takes the core out of service, but for an injected fault (R604,
R624). -/
def Work.retest (w : Work) (detail : W32) (inj : Bool) (p : Nat) : Work :=
  let m := (w.core p).mq
  let again := match m.passed with
    | some t => decide (w.now < t + 1000000000)
    | none => false
  if (w.core p).lost then w
  else if again && !inj then w.coreLost p detail
  else if m.retest.isSome then w
  else w.modMq p fun m => { m with retest := some (3, inj) }

/-- The reaction to a STALL (R603, R624). -/
def Work.reactStall (w : Work) (e : React) : Work :=
  let unit := fld e.detail 16 8
  let p := fld e.detail 8 5
  if unit < 8 then
    (if e.inj then (w.failStepsOn p 0x8104 e.detail).retest e.detail true p else w.coreLost p e.detail)
  else { w with ev := .chain [(0xF104, e.detail), (0x8106, e.detail)] none e.inj [] :: w.ev }

/-- Is a reaction in progress: does a retest still run (R603; DEDUCED, log entry 112)? -/
def Work.reacting (w : Work) : Bool := w.d.cores.any fun k => k.mq.retest.isSome

/-- SAFETY_REACTION_START: the oldest event awaiting its reaction, one at a time. -/
def safetyReactionStart (w : Work) : Work :=
  match w.log.react with
  | [] => w
  | e :: _ =>
    if w.reacting then w
    else
    let w := { w with ev := .takeReact :: w.ev }
    match e.code with
    | 0x8102 => e.cores.foldl (fun w p => w.retest e.detail e.inj p) w
    | 0x8103 => e.cores.foldl (fun w p => w.retest e.detail e.inj p) w
    | 0x8104 => e.cores.foldl (fun w p => w.loseCore p e.detail) w
    | 0x8105 => e.cores.foldl (fun w p => w.retest e.detail e.inj p) w
    | 0x8106 => w.reactStall e
    | 0x8107 => e.cores.foldl (fun w p => w.retest e.detail e.inj p) w
    | _ => w

/-- RETEST_DONE: the three runs have ended. -/
def retestDone (p : Nat) (ok : Bool) (w : Work) : Work :=
  match (w.core p).mq.retest with
  | none => w
  | some (n, inj) =>
    let w := w.modSaf fun s => { s with runs := satAdd 65535 s.runs n }
    let w := w.modMq p fun m => { m with retest := none, passed := if ok || inj then some w.now else m.passed }
    if ok || inj then w else w.coreLost p (unitDetail 0 p 0)

-- ECC findings (R372, R373, R377) ---------------------------------------------------------------------------------------------------------

/-- The bytes of the field repair record (R378). -/
def repairBytes (entries : List W32) (seq : W32) : List Byte :=
  let h := leBytes 4 0x52504652 ++ leBytes 4 entries.length ++ leBytes 4 seq.toNat
  let body := entries.flatMap fun e => leBytes 4 e.toNat
  h ++ leBytes 4 (crc32 (h ++ [0, 0, 0, 0] ++ body)) ++ body

/-- Core, memory and macro of a repair entry. -/
def macroOf (e : W32) : Nat := e.toNat / 2 ^ 20
/-- Spares a macro has left (R375, R379). -/
def Work.sparesLeft (w : Work) (m : Nat) : Nat := 8 - ((w.d.saf.testMap ++ w.d.saf.repairs).filter fun e => macroOf e == m).length

/-- Lines of a core memory. -/
def linesIn (mem : Nat) : Nat := memSize mem / 64

/-- The place of a line in the order in which the lines of its memory fill rows (R375; log entry 9). -/
def lineRank (mem line : Nat) : Nat :=
  let k := Config.rowKey mem line
  ((List.range (linesIn mem)).filter fun l =>
    decide (Config.rowKey mem l < k) || (Config.rowKey mem l == k && decide (l < line))).length

/-- Macro and row of a line: two lines a row, 512 rows a macro (R375), as a repair entry holds them (R378). -/
def rowField (mem line : Nat) : Nat :=
  let row := lineRank mem line / 2
  row / 512 * 2 ^ 20 + row % 512 * 2 ^ 11

/-- Rewrites the field repair record where there is one (R377). -/
def Work.writeRepairs (w : Work) : Work :=
  let a := w.cfgAddr 0x380
  if a = 0 then w
  else
    let seq := w.d.saf.repSeq + 1
    let w := w.modSaf fun s => { s with repSeq := seq }
    w.writeHost .repair a (repairBytes w.d.saf.repairs seq) (some 0) (2 ^ 64 - 1) 7

/-- Schedules a row of a core memory for field repair, once per start: the record is rewritten once the host's own has been taken up,
and the event entered in the ledger (R377, R380); before that the entry waits for it. -/
def Work.scheduleRepair (w : Work) (f : EccFinding) : Work :=
  if 2 < f.mem || linesIn f.mem ≤ f.line then w
  else
    let e := w32 (f.core % 32 * 2 ^ 27 + f.mem * 2 ^ 25 + rowField f.mem f.line)
    let s := w.d.saf
    if (s.repairs.drop (s.repairs.length - s.repPend)).any (· == e) then w
    else if w.sparesLeft (macroOf e) = 0 || 1024 ≤ s.repairs.length then w.logCode 0x3104 0
    else
      let w := w.modSaf fun s => { s with repairs := s.repairs ++ [e], repPend := satAdd 255 s.repPend 1 }
      let w := if w.d.saf.repRead then w.writeRepairs else w
      w.ledgerEvent 0x40 0

/-- The granule of an uncorrectable finding is rewritten as poisoned (R371, R373, R131). -/
def Work.poisonGranule (w : Work) (f : EccFinding) : Work :=
  let off := 64 * f.line + 16 * (f.granule % 4)
  if f.mem = 2 then
    let k := (w.core f.core).plinth
    let el := off / k.fmt.bytes
    let t := k.slot (el / 4096)
    let t := { t with poison := t.poison ||| BitVec.ofNat 64 (2 ^ (el / 64 % 64)) }
    w.modCore f.core fun c => { c with plinth := c.plinth.setSlot (el / 4096) t }
  else if f.mem < 2 then { w with wr := .poison f.mem ((f.core * memSize f.mem + off) / 16) true :: w.wr }
  else w

/-- The code a finding is logged under: an uncorrectable one in a stream's state or context entry, or in the Atelier's SRAM,
has its own (R303, R607, R627). -/
def Work.eccReport (w : Work) (f : EccFinding) (inj : Bool) : Work :=
  if !f.uncorrectable then { w with ev := .chain [(0x3101, 0)] none inj [] :: w.ev }
  else if f.mem = 3 then w.stateEcc f.line
  else if f.mem = 4 then w.ctxEcc f.line
  else if f.mem = 6 then { w with ev := .chain [(0xF102, unitDetail 0x14 0 0)] none inj [] :: w.ev }
  else { w with ev := .chain [(0x3102, 0)] none inj [] :: w.ev }

/-- A finding: counted, reported, rewritten, its row scheduled for repair where R372 or R373 says so. -/
def eccFound (f : EccFinding) (w : Work) : Work :=
  let armed := w.takeArmedAt (if f.uncorrectable then 1 else 0) f.core f.mem
  let w := armed.getD w
  let w := w.modSaf fun s =>
    if f.uncorrectable then { s with ue := satAdd 255 s.ue 1 } else { s with ce := satAdd 65535 s.ce 1 }
  let w := w.eccReport f armed.isSome
  if f.uncorrectable then (w.poisonGranule f).scheduleRepair f
  else if f.persists then w.scheduleRepair f else w

/-- PATROL_SCRUB: a line read, with its finding if there is one (R374). -/
def patrolScrub (f : Option EccFinding) (w : Work) : Work :=
  match f with
  | some f => eccFound f w
  | none => w

-- Lock scrubs (R384) --------------------------------------------------------------------------------------------------------------------

/-- A locked line that fails its read-back twice: its granules are written poisoned and its row is scheduled for repair. -/
def Work.scrubFailed (w : Work) (p mem line : Nat) : Work :=
  let f : EccFinding := ⟨mem, p, line, 0, true, true⟩
  if linesIn mem ≤ line || 2 < mem then w
  else ((List.range 4).foldl (fun w g => w.poisonGranule { f with granule := g }) w).scheduleRepair f

/-- LOCK_SCRUB_DONE (R384): every locked line of the core holds zeros, clean, but those of `failed` (memory, line), and the locks are
released. -/
def lockScrubDone (p : Nat) (failed : List (Nat × Nat)) (w : Work) : Work :=
  let k := w.core p
  let l := k.locks
  let wipe := fun (w : Work) (mem first n : Nat) =>
    let base := p * memSize mem
    let t := if mem = 0 then w.ram.wsP else w.ram.asP
    let lo := (base + 64 * first) / 16
    let gs := (t.filter fun x => decide (lo ≤ x.1) && decide (x.1 < lo + 4 * n)).map Prod.fst
    let w := w.clearRange p mem (64 * first) (64 * n)
    if mem = 2 then w else { w with wr := (gs.map fun g => RamOp.poison mem g false) ++ w.wr }
  let w := l.lines.foldl (fun w r => wipe w 1 r.1 r.2) w
  let w := l.wlines.foldl (fun w r => wipe w 0 r.1 r.2) w
  let w := if l.plinth then wipe w 2 0 4096 else w
  let w := w.modCore p fun k => { k with locks := ⟨[], false, []⟩ }
  (failed.filter fun x => k.lineLocked x.1 x.2).foldl (fun w x => w.scrubFailed p x.1 x.2) w

-- Fatal events and the safety pins (R607, R608, R621, R622) --------------------------------------------------------------------------------

/-- FATAL_ERROR: one of the codes of R607; what unit a UNIT_FAIL or ROUTER_FAIL names is open here. -/
def fatalError (code : Nat) (w : Work) : Work :=
  if code < 0xF101 || 0xF107 < code then w
  else if code = 0xF104 || code = 0xF105 then
    let x := w.fresh
    x.2.raise [(w16 code, Config.freeValue x.1)] none
  else w.raise [(w16 code, unitDetail 0x14 0 0)] none

/-- SF_SAFE_REQ: a rising edge is SAFE_REQUEST. -/
def sfSafeReq (w : Work) : Work :=
  if w.log.safe || !w.d.boot.powered then w
  else (w.modSaf fun s => { s with req := true }).raise [(0xF103, unitDetail 0x14 0 0)] none

/-- SF_ALIVE_TOGGLE: from the end of the initial trim on, until the safe state. -/
def sfAliveToggle (confirmed : Bool) (w : Work) : Work :=
  if w.log.safe || !w.d.boot.powered || w.d.boot.state ≠ 6 || !confirmed then w
  else w.modSaf fun s => { s with alive := !s.alive }

/-- Do the safety outputs show error: while rst_n is low, until the self-tests have passed, while ERR or FATAL is set, and in the safe
state (R602, R609, R620, R677)? -/
def State.sfError (s : State) : Bool :=
  !s.dev.boot.powered || decide (s.dev.boot.state < 3) || s.log.err || s.log.fatal || s.log.safe
/-- The two rails sf_err_p and sf_err_n (R620). -/
def State.sfErrP (s : State) : Bool := !s.sfError
def State.sfErrN (s : State) : Bool := s.sfError

/-- MAQUETTE_SCHEDULE (R593). -/
def execMaquetteSchedule (s : State) : Host.Outcome State Fault Refusal := run maquetteSchedule s
/-- MAQUETTE_FORCE (R593). -/
def execMaquetteForce (core : Nat) (s : State) : Host.Outcome State Fault Refusal := run (maquetteForce core) s
/-- MAQUETTE_DONE (R594). -/
def execMaquetteDone (core : Nat) (ok : Bool) (unit : Nat) (s : State) : Host.Outcome State Fault Refusal :=
  lift (watch (maquetteDone core ok unit)) s
/-- SAFETY_REACTION_START (R603). -/
def execSafetyReactionStart (s : State) : Host.Outcome State Fault Refusal := run safetyReactionStart s
/-- RETEST_DONE (R604). -/
def execRetestDone (core : Nat) (ok : Bool) (s : State) : Host.Outcome State Fault Refusal := run (retestDone core ok) s
/-- ECC_FINDING (R372). -/
def execEccFinding (f : EccFinding) (s : State) : Host.Outcome State Fault Refusal := lift (watch (eccFound f)) s
/-- PATROL_SCRUB (R374). -/
def execPatrolScrub (f : Option EccFinding) (s : State) : Host.Outcome State Fault Refusal := lift (watch (patrolScrub f)) s
/-- LOCK_SCRUB_DONE (R384). -/
def execLockScrubDone (core : Nat) (s : State) (failed : List (Nat × Nat) := []) : Host.Outcome State Fault Refusal :=
  run (lockScrubDone core failed) s
/-- FATAL_ERROR (R608). -/
def execFatalError (code : Nat) (s : State) : Host.Outcome State Fault Refusal := lift (watch (fatalError code)) s
/-- SF_SAFE_REQ (R622). -/
def execSfSafeReq (s : State) : Host.Outcome State Fault Refusal := lift sfSafeReq s
/-- SF_ALIVE_TOGGLE (R621). -/
def execSfAliveToggle (confirmed : Bool) (s : State) : Host.Outcome State Fault Refusal := lift (sfAliveToggle confirmed) s

end Sys2Proof.Machine
end

