-- ==== Sys2Proof/Machine/ConfigPort.lean ====
section
/-! DEFINITION. The configuration port (16 R724 to R727, 17 R752 to R765): reads of every register, the judgement of a write and
what it does. -/

-- Declarations are elaborated one after another: side by side, each would hold a thread and its stack.
set_option Elab.async false

namespace Sys2Proof.Machine

-- Reads ---------------------------------------------------------------------------------------------------------------------------------

/-- Registers that confidential mode hides whole (R660). -/
def hiddenReg (off : Nat) : Bool :=
  [0x208, 0x218, 0x334, 0x38C, 0x404, 0x480, 0x484, 0x488].any (· == off) || inRun off 0x420 4 8

/-- An entry's words (R613). -/
def ErrEntry.word (e : ErrEntry) (k : Nat) : W32 :=
  match k with
  | 0 => w32 (e.code.toNat * 65536 + e.job.toNat)
  | 1 => e.detail
  | 2 => e.time
  | _ => w32 (b2n e.cont * 2 ^ 31 + b2n e.loss * 2 ^ 30 + b2n e.inj * 2 ^ 29 + b2n e.noJob * 2 ^ 28 + e.ring % 64 * 65536 + e.seq.toNat)

/-- ST_BRATE.MIN (R476, R488). -/
def Work.brateMin (w : Work) : Nat :=
  (w.d.inService.map fun p => (w.d.brate p).toNat).foldl min
    (if w.d.inService.isEmpty then (oppRate (fld (w.cfg 0x200) 0 2)).toNat else 2 ^ 32 - 1)

/-- CAL_STATUS (R488). -/
def Work.calStatus (w : Work) : Nat :=
  let k := w.core (fld (w.cfg 0x210) 0 5)
  let c := k.cal
  b2n w.d.cal.busy * 2 ^ 31 + b2n w.d.cal.need * 2 ^ 30 +
    (if k.lost then 0 else b2n c.confirmAll * 2 ^ 29 + b2n c.limit * 2 ^ 28 +
      (if w.d.sec.conf then 0 else (c.pend.getD c.trim) * 256 + c.trim))

/-- TELEM_POWER (R662). -/
def Work.telemPower (w : Work) : Nat :=
  if w.d.sec.conf then
    (match fld (w.cfg 0x200) 0 2 with
     | 0 => 44
     | 1 => 88
     | _ => 124)
  else w.d.saf.telem

/-- Every read-only register; `none` for a register that is stored as written. -/
def Work.status (w : Work) (off : Nat) : Option Nat :=
  let d := w.d
  match off with
  | 0x000 => some 0x03020000
  | 0x008 => some 0x4F17D25B
  | 0x00C => some 0x6E3A0C91
  | 0x010 => some ((if Config.gradeOne then 0x01070000 else 0x02030000) + d.inService.length)
  | 0x014 => some (d.inService.map fun p => 2 ^ p).sum
  | 0x104 => some ((if w.log.safe then 8 else d.boot.state) * 2 ^ 28 + d.boot.fails * 65536 + d.boot.code.toNat)
  | 0x114 => some d.boot.fwver.toNat
  | 0x208 => some w.brateMin
  | 0x214 => some w.calStatus
  | 0x218 => some (d.cal.longer * 65536 + d.cal.shorter)
  | 0x220 => some (w.tb.steps * 65536 + b2n w.tb.valid)
  | 0x300 => some (b2n w.log.fatal * 2 ^ 31 + b2n w.log.safe * 2 ^ 30 + b2n w.log.err * 2 ^ 29 + b2n d.saf.req * 2 ^ 28 +
      w.log.fcode.toNat)
  | 0x30C => some (d.saf.runs * 65536 + (if d.sec.conf then 0 else d.saf.forced * 256) + d.saf.fails)
  | 0x310 => some (w.log.ovf * 65536 + w.log.errq.length)
  | 0x334 => some (d.ports.retried * 65536 + d.ports.failed)
  | 0x388 => some (d.saf.repPend * 2 ^ 24 + d.saf.ue * 65536 + d.saf.ce)
  | 0x38C => some (min 65535 (d.cores.map Core.late).sum)
  | 0x404 => some (d.arm.residents * 65536 + d.arm.freePages)
  | 0x480 => some (d.pt.dry * 65536 + d.pt.late)
  | 0x484 => some d.pt.discard.toNat
  | 0x488 => some (d.pt.hit * 65536 + d.pt.miss)
  | 0x510 => some (d.irq.pend.toNat % 2 ^ 32)
  | 0x514 => some (d.irq.pend.toNat / 2 ^ 32)
  | 0x518 => some ((w.cfg 0x518).toNat + b2n d.irq.errqPend * 256)
  | 0x580 => some w.telemPower
  | 0x600 => some (b2n d.sec.conf * 2 ^ 31 + b2n d.sec.unveiled * 2 ^ 30 + b2n d.sec.sealedUp * 2 ^ 29 + b2n d.sec.keys.isSome * 2 ^ 28 +
      b2n d.sec.rngOk * 2 ^ 27 + b2n w.proposalPending * 2 ^ 26 + b2n d.sec.lockout * 2 ^ 25)
  | 0x620 => some (d.led.seq % 2 ^ 32)
  | 0x624 => some (d.led.seq / 2 ^ 32)
  | 0x628 => some d.led.lost
  | 0x814 => some (b2n d.peer.active * 2 ^ 31 + b2n d.peer.rejoin * 2 ^ 30 +
      ((List.range 4).map fun b => b2n (w.paired b) * 2 ^ (26 + b)).sum +
      ((List.range 2).map fun l => b2n (w.others.any fun b => w.linkUp l b) * 2 ^ (24 + l)).sum)
  | 0x818 => some (d.peer.crcErr * 65536 + d.peer.late)
  | 0x81C => some (d.peer.dup * 65536 + d.peer.retx)
  | 0x820 => some (d.peer.ovf * 65536 + d.peer.mismatch)
  | _ =>
    if inRun off 0x320 4 4 then some (((w.log.errq.head?).map fun e => (e.word ((off - 0x320) / 4)).toNat).getD 0)
    else if inRun off 0x420 4 8 then some (nth 0 d.arm.latched ((off - 0x420) / 4)).toNat
    else if inRun off 0x640 4 8 then some (word32 d.led.head (off - 0x640))
    else if inRun off 0x100C 32 64 then some (w.sq ((off - 0x100C) / 32)).head
    else if inRun off 0x1010 32 64 then some ((w.sq ((off - 0x1010) / 32)).seq % 2 ^ 32)
    else if inRun off 0x200C 16 64 then
      let c := w.cq ((off - 0x200C) / 16)
      some (b2n c.phase * 2 ^ 31 + c.tail)
    else none

/-- What a register reads as, a WO field as zero, an offset with no register as zero (R17, R18, R726). -/
def Work.regValue (w : Work) (off : Nat) : W32 :=
  if w.d.sec.conf && hiddenReg off then 0
  else match w.status off with
    | some n => w32 n
    | none => if off % 4 = 0 then w.cfg off else 0

/-- A read at the port: the lower half of a pair latches the upper one; the next read of that returns the latched value
(R727). -/
def Work.regRead (w : Work) (off : Nat) : W32 × Work :=
  let mod := fun (f : CpOut → CpOut) => w.mod fun d => { d with cp := f d.cp }
  match off with
  | 0x008 => (w.regValue off, mod fun c => { c with numHi := some (w.regValue 0x00C) })
  | 0x620 => (w.regValue off, mod fun c => { c with ledHi := some (w.regValue 0x624) })
  | 0x00C => (w.d.cp.numHi.getD (w.regValue off), mod fun c => { c with numHi := none })
  | 0x624 => (w.d.cp.ledHi.getD (w.regValue off), mod fun c => { c with ledHi := none })
  | _ => (w.regValue off, w)

/-- A read and its response. -/
def readRow (off : Nat) (w : Work) : Work :=
  let r := w.regRead off
  r.2.mod fun d => { d with cp := { d.cp with rdata := r.1, err := false } }

-- The judgement of a write (R758 to R761) -----------------------------------------------------------------------------------------------

/-- Idle (R20). -/
def Work.idle (w : Work) : Bool := !w.anySqOn && !(w.d.rings.execs.any Exec.begun)

/-- Does a write change an S field, or act on one (R760)? -/
def Work.changesS (w : Work) (off : Nat) (v : W32) : Bool :=
  (w.cfg off ^^^ v) &&& w32 (sMask off) != 0 || (off == 0x100 && bit v 0) || (off == 0x200 && bit v 2)

/-- The code of check 4; 0000h where every value is allowed (R761). -/
def Work.valueCode (off : Nat) (v : W32) : W16 :=
  let log2 := fld v 0 4
  if (inRun off 0x1008 32 64 || inRun off 0x2008 16 64) && (decide (log2 < 4) || decide (12 < log2)) then 0x1006
  else match off with
    | 0x618 => if log2Ok (fld v 0 5) then 0 else 0x7107
    | 0x200 => if fld v 0 2 = 3 || (fld v 0 2 = 2 && !Config.gradeOne) then 0x1022 else 0
    | 0x224 => if fld v 0 20 < 100000 || 800000 < fld v 0 20 then 0x1022 else 0
    | 0x800 =>
      let mode := fld v 0 2
      let pos := fld v 2 2
      let nblk := fld v 4 2
      if mode = 3 || (mode = 1 && nblk ≠ 1) || (mode = 2 && nblk = 0) || (mode ≠ 0 && nblk < pos) then 0x1022 else 0
    | 0x804 => if bit v 2 && bit v 3 then 0x1022 else 0
    | 0x308 =>
      let kind := fld v 24 4
      if bit v 31 && (decide (8 < kind) || ((kind = 6 || kind = 7) && decide (7 < fld v 0 8))) then 0x1022 else 0
    | _ => 0

/-- The code of check 5 (R492, R457). -/
def Work.effectCode (w : Work) (off : Nat) (v : W32) : W16 :=
  let on := bit v 31
  let was := bit (w.cfg off) 31
  if inRun off 0x1008 32 64 then
    (if on && !was then (if !w.cqOn (fld v 16 6) then 0x1006 else if w.d.cal.need then 0x1021 else 0) else 0)
  else if inRun off 0x2008 16 64 then
    (if !on && was && (List.range 64).any fun r => w.sqOn r && w.cqOf r == (off - 0x2008) / 16 then 0x1006 else 0)
  else 0

/-- The verdict on a write: none where it is applied, else the code it is dropped with, 0000h for no code (R759). -/
def Work.judgeWrite (w : Work) (off : Nat) (v : W32) : Option W16 :=
  if w.log.safe && off ≠ 0x314 then some 0
  else if sealedReg off && w.d.sec.sealedUp then some 0x7108
  else if w.changesS off v && !w.idle then some 0x1020
  else if Work.valueCode off v ≠ 0 then some (Work.valueCode off v)
  else if w.effectCode off v ≠ 0 then some (w.effectCode off v)
  else none

-- What a write does -----------------------------------------------------------------------------------------------------------------------

/-- Fetches of a ring that are on their way are given up (R492). -/
def Work.stopFetch (w : Work) (r : Nat) : Work :=
  (w.d.ports.jobs.filter fun j => match j.key with
    | .descs x _ _ => x == r
    | _ => false).foldl (fun w j => w.cancelJob j.key) w

/-- A submission ring is enabled; fences on it are orphaned where it is not its first time (R492, R532). -/
def Work.enableSq (w : Work) (r : Nat) : Work :=
  let w := if (w.sq r).epoch = 0 then w else w.orphanFences r
  w.modSq r fun q => { q with head := 0, seq := q.epoch * 2 ^ 32, stail := 0, issued := 0, badTail := [], fetchedAny := false }

/-- A submission ring is disabled: fetching stops, its session ends, fences on it are orphaned (R492, R532, R629); a page read that a
nudge asked for is not made once no submission ring is enabled (R497). -/
def Work.disableSq (w : Work) (r : Nat) : Work :=
  let w := ((w.stopFetch r).orphanFences r).modSq r fun q => { q with epoch := q.epoch + 1 }
  let w := if w.anySqOn then w else w.modRings fun g => { g with again := false }
  w.modSec fun s => { s with sessions := s.sessions.filter fun x => x.ring != r, nonces := s.nonces.filter fun x => x.1 != r }

/-- A completion ring is enabled (R492). -/
def Work.enableCq (w : Work) (k : Nat) : Work :=
  w.modCq k fun c => { c with tail := 0, phase := true, chead := 0, badHead := [] }

/-- The argument an armed fault is matched by (R623). -/
def injectArg (kind arg : Nat) : Nat :=
  match kind with
  | 0 => if arg % 4 = 3 then 255 else arg % 4
  | 1 => if arg % 4 = 3 then 255 else arg % 4
  | 4 => arg % 64
  | 6 => arg % 256
  | 7 => arg % 256
  | 8 => arg % 64
  | _ => 0

/-- SAFE_INJECT.GO (R623). -/
def Work.inject (w : Work) (v : W32) : Work :=
  let kind := fld v 24 4
  (w.modSaf fun s => { s with armed := s.armed ++ [(kind, fld v 16 5, injectArg kind (fld v 0 16))] }).ledgerEvent 0x42 kind

/-- PEER_CTRL (R556, R562, R573). -/
def Work.peerCtrl (w : Work) (v : W32) : Work :=
  let w := if bit v 0 then (w.others.foldl (fun w b => w.endPair b) w).startPairing else w
  let w := if bit v 1 then
      let w := w.modPeer fun p => { p with active := false, rejoin := true, rjSeen := false }
      if w.peerMode = 1 && w.paired w.partnerPos then w.askRejoin else w
    else w
  let w := if bit v 2 then w.modPeer fun p => { p with active := true } else w
  if bit v 3 then w.modPeer fun p => { p with active := false } else w

/-- A change of OPP sets NEED, while a fatal error is handled too (R457). -/
def Work.oppNeed (w : Work) (before v : W32) : Work :=
  if fld before 0 2 = fld v 0 2 then w else w.modCal fun c => { c with need := true }

/-- RETRIM starts the trim procedure where the firmware runs (R469). -/
def Work.stCtrl (w : Work) (before v : W32) : Work :=
  let w := w.oppNeed before v
  if bit v 2 && w.d.boot.state = 6 then w.modCal fun c => { c with busy := true } else w

/-- LOADING begins: the field repair and retirement records and the image are read (R678, R684). -/
def Work.startLoading (w : Work) : Work :=
  let w := w.mod fun d => { d with boot := { d.boot with state := 4, go := false } }
  let rep := w.cfgAddr 0x380
  let ret := w.cfgAddr 0x118
  let w := if rep = 0 then w else w.readHost .repairRec rep 4112 none (2 ^ 64 - 1) 7
  let w := if ret = 0 then w else w.readHost .retireRec ret 16 none (2 ^ 64 - 1) 7
  w.readHost .firmware (w.cfgAddr 0x108) (fld (w.cfg 0x110) 0 19) none (2 ^ 64 - 1) 7

/-- BOOT_CTRL.GO (R672). -/
def Work.bootGo (w : Work) : Work :=
  let b := w.d.boot
  if b.state = 1 || b.state = 2 then w.mod fun d => { d with boot := { d.boot with go := true } }
  else if b.state = 3 || b.state = 7 then w.startLoading
  else w

/-- What a write does beyond its fields. -/
def Work.act (w : Work) (off : Nat) (before v : W32) : Work :=
  let rise := bit v 31 && !bit before 31
  let fall := !bit v 31 && bit before 31
  if inRun off 0x1008 32 64 then
    let r := (off - 0x1008) / 32
    if rise then w.enableSq r else if fall then w.disableSq r else w
  else if inRun off 0x2008 16 64 then (if rise then w.enableCq ((off - 0x2008) / 16) else w)
  else match off with
    | 0x100 => if bit v 0 then w.bootGo else w
    | 0x200 => w.stCtrl before v
    | 0x308 => if bit v 31 then w.inject v else w
    | 0x408 => w.modArm fun a => { a with latched := (w.ctx (fld v 0 16)).words }
    | 0x804 => w.peerCtrl v
    | 0x808 => if bit v 16 then w.askResync (fld v 0 16) else w
    | _ => w

/-- The writes that clear: interrupt bits, ERR, the oldest entry (R17, R540, R615). -/
def Work.clears (w : Work) (off : Nat) (v : W32) : Work :=
  let irq := fun (f : Irq → Irq) => w.mod fun d => { d with irq := f d.irq }
  match off with
  | 0x300 => if bit v 29 && !w.log.fatal then { w with ev := .clearErr :: w.ev } else w
  | 0x314 => if bit v 0 then { w with ev := .pop :: w.ev } else w
  | 0x510 => irq fun q => { q with pend := q.pend &&& ~~~(v.setWidth 64) }
  | 0x514 => irq fun q => { q with pend := q.pend &&& ~~~((v.setWidth 64) <<< 32) }
  | 0x518 => if bit v 8 then irq fun q => { q with errqPend := false } else w
  | _ => w

/-- One write at the port: dropped with its code and cp_rsp_err, or applied whole (R726, R758, R759). While a fatal error is
handled nothing but fields, clearing bits and NEED is written (R457, R608). -/
def writeRow (off : Nat) (v : W32) (w : Work) : Work :=
  let answer := fun (w : Work) (e : Bool) => w.mod fun d => { d with cp := { d.cp with err := e } }
  match w.judgeWrite off v with
  | some c => answer (if c = 0 then w else w.logCode c 0) true
  | none =>
    let before := w.cfg off
    let w := (w.mod fun d => d.setFields off v).clears off v
    let w := if !w.log.fatal then w.act off before v else if off = 0x200 then w.oppNeed before v else w
    answer w false

/-- A register's value with a bit set, as a write. -/
def setBit (i : Nat) (v : W32) : W32 := v ||| w32 (2 ^ i)
def clearBit (i : Nat) (v : W32) : W32 := v &&& ~~~(w32 (2 ^ i))

/-- BOOT_CTRL_GO (R672). -/
def execBootCtrlGo (value : W32) (s : State) : Host.Outcome State Fault Refusal := lift (onPort (writeRow 0x100 (setBit 0 value))) s
/-- ST_CTRL_RETRIM (R469). -/
def execStCtrlRetrim (value : W32) (s : State) : Host.Outcome State Fault Refusal := lift (onPort (writeRow 0x200 (setBit 2 value))) s
/-- ST_CTRL_OPP (R457). -/
def execStCtrlOpp (value : W32) (s : State) : Host.Outcome State Fault Refusal := lift (onPort (writeRow 0x200 value)) s
/-- ARMT_CTX_SEL_WRITE (R297). -/
def execArmtCtxSelWrite (value : W32) (s : State) : Host.Outcome State Fault Refusal := lift (onPort (writeRow 0x408 value)) s
/-- NUMSIG_LO_READ (R727). -/
def execNumsigLoRead (s : State) : Host.Outcome State Fault Refusal := lift (onPort (readRow 0x008)) s
/-- LEDGER_SEQ_LO_READ (R727). -/
def execLedgerSeqLoRead (s : State) : Host.Outcome State Fault Refusal := lift (onPort (readRow 0x620)) s
/-- SQ_ENABLE (R492). -/
def execSqEnable (ring : Nat) (value : W32) (s : State) : Host.Outcome State Fault Refusal :=
  lift (onPort (writeRow (sqBase ring + 8) (setBit 31 value))) s
/-- SQ_DISABLE (R492). -/
def execSqDisable (ring : Nat) (value : W32) (s : State) : Host.Outcome State Fault Refusal :=
  lift (onPort (writeRow (sqBase ring + 8) (clearBit 31 value))) s
/-- CQ_ENABLE (R492). -/
def execCqEnable (ring : Nat) (value : W32) (s : State) : Host.Outcome State Fault Refusal :=
  lift (onPort (writeRow (cqBase ring + 8) (setBit 31 value))) s
/-- CQ_DISABLE (R492). -/
def execCqDisable (ring : Nat) (value : W32) (s : State) : Host.Outcome State Fault Refusal :=
  lift (onPort (writeRow (cqBase ring + 8) (clearBit 31 value))) s
/-- IRQ_PEND_CLEAR (R541). -/
def execIrqPendClear (hi : Bool) (value : W32) (s : State) : Host.Outcome State Fault Refusal :=
  lift (onPort (writeRow (if hi then 0x514 else 0x510) value)) s
/-- ERRQ_PEND_CLEAR (R541). -/
def execErrqPendClear (value : W32) (s : State) : Host.Outcome State Fault Refusal := lift (onPort (writeRow 0x518 (setBit 8 value))) s
/-- SAFE_STATUS_ERR_CLEAR (R602). -/
def execSafeStatusErrClear (value : W32) (s : State) : Host.Outcome State Fault Refusal :=
  lift (onPort (writeRow 0x300 (setBit 29 value))) s
/-- POP (R615). -/
def execPop (value : W32) (s : State) : Host.Outcome State Fault Refusal := lift (onPort (writeRow 0x314 (setBit 0 value))) s
/-- SAFE_INJECT_GO (R623). -/
def execSafeInjectGo (value : W32) (s : State) : Host.Outcome State Fault Refusal := lift (onPort (writeRow 0x308 (setBit 31 value))) s
/-- PAIR (R556). -/
def execPair (value : W32) (s : State) : Host.Outcome State Fault Refusal := lift (onPort (writeRow 0x804 (setBit 0 value))) s
/-- REJOIN (R573). -/
def execRejoin (value : W32) (s : State) : Host.Outcome State Fault Refusal := lift (onPort (writeRow 0x804 (setBit 1 value))) s
/-- PROMOTE (R562). -/
def execPromote (value : W32) (s : State) : Host.Outcome State Fault Refusal := lift (onPort (writeRow 0x804 (setBit 2 value))) s
/-- DEMOTE (R562). -/
def execDemote (value : W32) (s : State) : Host.Outcome State Fault Refusal := lift (onPort (writeRow 0x804 (setBit 3 value))) s
/-- PEER_RESYNC_GO (R578). -/
def execPeerResyncGo (value : W32) (s : State) : Host.Outcome State Fault Refusal := lift (onPort (writeRow 0x808 (setBit 16 value))) s
/-- CONFIG_WRITE (R759). -/
def execConfigWrite (offset : Nat) (value : W32) (s : State) : Host.Outcome State Fault Refusal := lift (onPort (writeRow offset value)) s

end Sys2Proof.Machine
end

