-- ==== Sys2Proof/Machine/CastDump.lean ====
section
/-! DEFINITION. The cast dump (15 R697 to R706) and the 900 µs limit (13 R608). -/

-- Declarations are elaborated one after another: side by side, each would hold a thread and its stack.
set_option Elab.async false

namespace Sys2Proof.Machine

/-- Offset of a section (R697). -/
def castOffset (sect : Nat) : Nat :=
  match sect with
  | 1 => 0x100
  | 2 => 0x1000
  | 3 => 0x11000
  | 4 => 0x91000
  | _ => 0x491000

/-- An entry in the layout of R613. -/
def ErrEntry.bytes (e : ErrEntry) : List Byte := (List.range 4).flatMap fun k => leBytes 4 (e.word k).toNat

/-- Section 1: the fatal chain, then the queue (R701). -/
def castErrors (c : Cast) : List Byte := (c.log.fchain ++ c.log.errq).flatMap ErrEntry.bytes

/-- What a register read as at detection; a latched half holds its latched value (R702). -/
def Work.atDetection (w : Work) (c : Cast) : Work :=
  { w with tb := c.tb, log := c.log,
           d := { w.d with cfg := c.cfg, irq := c.irq, cp := c.cp,
                           ports := { w.d.ports with retried := c.retried, failed := c.failed } } }

/-- Section 2: the configuration space (R702). -/
def castRegs (w : Work) (c : Cast) : List Byte :=
  let w := w.atDetection c
  (List.range 16384).flatMap fun i => leBytes 4 (w.regRead (4 * i)).1.toNat

/-- Why a thread sleeps, as a number. -/
def Sleep.kind : Sleep → Nat
  | .slot _ => 0
  | .tally _ => 1
  | .chain _ => 2
  | .counter _ _ => 3
  | .threads _ => 4
  | .queue _ => 5
  | .engine _ _ => 6
  | .mesh => 7
  | .fence => 8
  | .fu => 9

/-- State and sleep cause of a thread, one byte each (R703, R706). -/
def ThSt.castBytes : ThSt → List Byte
  | .ended => [0, 0]
  | .running => [1, 0]
  | .sleeping why => [2, Config.sleepCode why.kind]

/-- A thread record of 256 bytes. -/
def threadRecord (t : Thread) : List Byte :=
  sliceAt (t.st.castBytes ++ [0, 0] ++ leBytes 4 t.pc ++ ((List.range 31).flatMap fun i => leBytes 4 (t.reg (i + 1)).toNat) ++
    leBytes 4 t.vl ++ leBytes 4 (b2n t.sr) ++ leBytes 4 t.ctx.toNat ++ leBytes 4 t.layer.toNat) 0 256

/-- The code of a tile slot's state, in the order of R138. -/
def TileSt.code : TileSt → Nat
  | .free => 0 | .pre => 1 | .accum => 2 | .done => 3 | .held => 4

/-- 64-bit words of a flag for each lane. -/
def poisonWord (s : VecState) (r : Nat) : Nat := ((List.range 64).map fun i => b2n (s.poisoned r i) * 2 ^ i).sum

/-- Words 0 to 2 of a core's record (R703). -/
def Work.coreWho (w : Work) (p : Nat) : Nat × Nat × Nat :=
  match (w.core p).cur, w.ctxOf p with
  | some cur, some c => (p + cur.slot * 256, c.m.handle + dJob c.e.desc * 65536, 1)
  | some cur, none => (p + cur.slot * 256, 0, 1)
  | none, _ => (p, 0, 0)

/-- The record of a core, 16 KiB (R703). -/
def Work.coreRecord (w : Work) (p : Nat) : List Byte :=
  let k := w.core p
  let who := w.coreWho p
  let xstep := ((w.ctxOf p).map fun c => c.xstep.toNat).getD 0
  let head := sliceAt (leBytes 4 who.1 ++ leBytes 4 who.2.1 ++ leBytes 4 who.2.2 ++ leBytes 4 xstep ++ leBytes 4 k.flags.word.toNat ++
    leBytes 4 (k.cal.pend.getD k.cal.trim * 256 + k.cal.trim)) 0 64
  let threads := (List.range 8).flatMap fun t => threadRecord (k.thread t)
  let vecs := (List.range 32).flatMap fun r => (List.range 64).flatMap fun i => leBytes 4 (k.vec.lane r i).toNat
  let pois := (List.range 32).flatMap fun r => leBytes 8 (poisonWord k.vec r)
  let masks := (List.range 8).flatMap fun m => leBytes 8 (k.vec.mask m).toNat
  let ctrs := (List.range 32).flatMap fun c => leBytes 4 (k.counter c).toNat
  let tiles := leBytes 8 ((List.range 16).map fun i => (k.plinth.slot i).st.code * 16 ^ i).sum
  let heads := (List.range 16).flatMap fun r => leBytes 4 (tabGet 0 k.land.heads r)
  let tails := (List.range 16).flatMap fun r => leBytes 4 (tabGet 0 k.land.tails r)
  let opens := leBytes 4 ((List.range 32).map fun i => b2n (tabGet false k.land.opens i) * 2 ^ i).sum
  sliceAt (head ++ threads ++ vecs ++ pois ++ masks ++ ctrs ++ tiles ++ heads ++ tails ++ opens) 0 16384

/-- The record of a core in confidential mode, 64 B (R706). -/
def Work.coreRecordConf (w : Work) (p : Nat) : List Byte :=
  let who := w.coreWho p
  sliceAt (leBytes 4 (who.1 / 256 * 256) ++ leBytes 4 who.2.1 ++ leBytes 4 who.2.2 ++
    ((List.range 8).flatMap fun t => ((w.core p).thread t).st.castBytes.take 1) ++
    ((List.range 8).flatMap fun t => ((w.core p).thread t).st.castBytes.drop 1)) 0 64

/-- Section 3. -/
def castCores (w : Work) : List Byte :=
  w.d.inService.flatMap fun p => if w.d.sec.conf then w.coreRecordConf p else w.coreRecord p

/-- Section 4: an excerpt of each stream that is not FREE (R704); in confidential mode only id, STATE and GENERATION (R706). -/
def castContexts (w : Work) : List Byte :=
  (w.d.arm.ctx.filter fun kv => kv.2.st != .free).flatMap fun (s, c) =>
    let ws := c.words
    let ws := if w.d.sec.conf then [w32 c.st.code, c.gen, 0, 0, 0, 0, 0, 0] else ws
    leBytes 2 s ++ List.replicate 30 0 ++ ws.flatMap fun v => leBytes 4 v.toNat

/-- Section 5 (R705). -/
def castLedger (w : Work) : List Byte :=
  leBytes 8 w.d.led.seq ++ w.d.led.head ++ List.replicate 24 0 ++ w.d.led.last.flatten

/-- The bytes of a section. -/
def Work.castSection (w : Work) (c : Cast) (sect : Nat) : List Byte :=
  match sect with
  | 1 => castErrors c
  | 2 => if w.d.sec.conf then [] else castRegs w c
  | 3 => castCores w
  | 4 => castContexts w
  | _ => castLedger w

/-- Header bytes 00h to 8Fh (R700). -/
def Work.castHeader (w : Work) (c : Cast) : List Byte :=
  leBytes 4 0x54534143 ++ leBytes 4 (0x10000 + b2n w.d.sec.conf * 2 + b2n (c.done == 31)) ++ leBytes 4 c.log.fcode.toNat ++
  leBytes 4 0x03020000 ++ leBytes 4 0x4F17D25B ++ leBytes 4 0x6E3A0C91 ++ leBytes 4 w.d.boot.fwver.toNat ++
  leBytes 4 (c.done * 256 + w.d.inService.length) ++ leBytes 8 c.tb.now.toNat ++ List.replicate 24 0 ++
  (List.range 5).flatMap fun i =>
    let x := nth (0, 0) c.sums i
    leBytes 4 (castOffset (i + 1)) ++ leBytes 4 x.1 ++ leBytes 8 x.2

/-- Writes at an offset of the cast region. -/
def Work.castWrite (w : Work) (off : Nat) (bs : List Byte) : Work :=
  w.writeHost .cast (w.cfgAddr 0x120 + off) bs none (2 ^ 64 - 1) 7

def Work.setCast (w : Work) (c : Cast) : Work := w.mod fun d => { d with saf := { d.saf with cast := some c } }

/-- Goes on to a section, or ends the dump in the safe state (R608). -/
def Work.castNext (w : Work) (c : Cast) (sect : Nat) : Work :=
  if 5 < sect then { w.setCast { c with finished := true } with ev := .safe :: w.ev }
  else (w.setCast { c with sect := 2 * sect - 1, bad := false }).castWrite (castOffset sect) (w.castSection c sect)

/-- CAST_SECTION_WRITTEN: what was being written has been accepted or has failed (R698). `sect` 0 is the first header, 2s - 1 the
data of section s, 2s the header rewritten for it. -/
def castSectionWritten (w : Work) : Work :=
  if !w.log.fatal || w.log.safe || w.pendingUser .cast then w
  else match w.d.saf.cast with
    | none => w
    | some c =>
      let lost := fun (w : Work) => if c.bad then w.logCode 0x3109 0 else w
      if !c.started then
        (w.setCast { c with started := true }).castWrite 0 (w.castHeader c ++ List.replicate 112 0)
      else if c.sect % 2 = 0 then (lost w).castNext c (c.sect / 2 + 1)
      else
        let s := (c.sect + 1) / 2
        if c.bad then (lost w).castNext { c with sums := c.sums ++ [(0, 0)] } (s + 1)
        else
          let bs := w.castSection c s
          let c := { c with done := c.done ||| 2 ^ (s - 1), sums := c.sums ++ [(bs.length, crc64 bs)], sect := 2 * s }
          (w.setCast c).castWrite 0 (w.castHeader c)

/-- CAST_TIMEOUT: the safe state, whether or not the dump is complete. -/
def castTimeout (w : Work) : Work :=
  if !w.log.fatal || w.log.safe then w else { w with ev := .safe :: w.ev }

/-- CAST_SECTION_WRITTEN (R698). -/
def execCastSectionWritten (s : State) : Host.Outcome State Fault Refusal := lift (onPort castSectionWritten) s
/-- CAST_TIMEOUT (R608). -/
def execCastTimeout (s : State) : Host.Outcome State Fault Refusal := lift (onPort castTimeout) s

end Sys2Proof.Machine
end

