-- ==== Sys2Proof/Machine/BootRows.lean ====
section
/-! DEFINITION. Start-up (15 R671 to R692, 16 R730 to R732) and resets (R746 to R748). -/

-- Declarations are elaborated one after another: side by side, each would hold a thread and its stack.
set_option Elab.async false

namespace Sys2Proof.Machine

def Work.modBoot (w : Work) (f : Boot → Boot) : Work := w.mod fun d => { d with boot := f d.boot }

/-- Physical cores in sprue-chain order (R29). -/
def sprueOrder : List Nat :=
  List.range 8 ++ (List.range 8).map (15 - ·) ++ (List.range 8).map (16 + ·) ++ (List.range 8).map (31 - ·)

-- KEYS (R631, R633, R730 to R732) -----------------------------------------------------------------------------------------------------

/-- Macros of a core memory (R375). -/
def macrosOf (mem : Nat) : Nat :=
  match mem with
  | 0 => 20
  | 1 => 8
  | 2 => 4
  | _ => 0

/-- Does a repair entry name a macro that exists (R378, R732)? -/
def repairEntryOk (e : W32) : Bool := decide (fld e 20 5 < macrosOf (fld e 25 2))

/-- Is a key record good (R731, R732)? -/
def keyRecordOk (b : List Byte) : Bool :=
  let n := word32 b 0 % 65536
  word32 b 0 / 65536 == 1 && decide (n ≤ 1024) && b.length == 572 + 4 * n &&
    crc32 (b.take (568 + 4 * n)) == word32 b (568 + 4 * n)

/-- The shipped built-in tables, in both banks of every core (R221). -/
def CoreTables.shipped : CoreTables :=
  let b := List.replicate 4 TabImg.shipped ++ List.replicate 8 .empty
  { CoreTables.init with bank0 := b, bank1 := b }

/-- KEYS ends: SELFTEST begins and places the built-in tables. -/
def Work.toSelftest (w : Work) : Work :=
  (w.mod fun d => { d with cores := d.cores.map fun k => { k with tables := CoreTables.shipped } }).modBoot fun b => { b with state := 2 }

/-- KEY_RECORD_RECEIVED: the key port is ignored outside KEYS, and always after unveiling (R668, R730). -/
def keyRecordReceived (b : List Byte) (w : Work) : Work :=
  if w.d.boot.state ≠ 1 || w.d.sec.unveiled then w
  else if !keyRecordOk b then (w.logCode 0x710F 0).toSelftest
  else
    let n := word32 b 0 % 65536
    let w := w.modSec fun s => { s with
      keys := some ⟨sliceAt b 4 64, sliceAt b 0x44 32, sliceAt b 0x64 32⟩, arv := w32 (word32 b 0x84),
      creds := (List.range 12).map fun c => (word32 b (0x88 + 36 * c) % 4, sliceAt b (0x8C + 36 * c) 32) }
    (w.modSaf fun s => { s with testMap := ((List.range n).map fun i => w32 (word32 b (0x238 + 4 * i))).filter repairEntryOk }).toSelftest

/-- KEY_RECORD_TIMEOUT. -/
def keyRecordTimeout (w : Work) : Work := if w.d.boot.state ≠ 1 then w else (w.logCode 0x710F 0).toSelftest

-- SELFTEST (R674 to R677) ---------------------------------------------------------------------------------------------------------------

/-- Excludes a core for this start (R675). -/
def Work.exclude (w : Work) (p unit : Nat) : Work :=
  (w.modBoot fun b => { b with excluded := p % 32 :: b.excluded.filter (· != p % 32) }).raiseSafety 0x8109 (unitDetail unit p 0) [] none

/-- Takes spares for repair entries in order: one that finds its macro's eight spares taken is dropped, with SPARE_OUT (R375, R379,
R380). `used` are the entries that have theirs. -/
def Work.takeSpares (w : Work) (used : List W32) : List W32 → List W32 × Work
  | [] => ([], w)
  | e :: es =>
    if 8 ≤ (used.filter fun u => macroOf u == macroOf e).length then (w.logCode 0x3104 0).takeSpares used es
    else
      let r := w.takeSpares (used ++ [e]) es
      (e :: r.1, r.2)

/-- SELFTEST_DONE: the test repair map is applied (R376, R379); excluded cores as (core, unit); a fault of a shared unit ends in the safe state (R676). A held GO then acts
(R672). -/
def selftestDone (bad : List (Nat × Nat)) (shared : Bool) (w : Work) : Work :=
  if w.d.boot.state ≠ 2 then w
  else if shared then w.raise [(0xF108, unitDetail 0x14 0 0)] none
  else
    let t := w.takeSpares [] w.d.saf.testMap
    let w := t.2.modSaf fun s => { s with testMap := t.1 }
    let w := bad.foldl (fun w x => w.exclude x.1 x.2) (w.modSec fun s => { s with rngOk := true })
    let w := w.modBoot fun b => { b with state := 3 }
    if w.d.boot.go then w.startLoading else w

-- LOADING (R678 to R689) ----------------------------------------------------------------------------------------------------------------

/-- A repair record's entries and SEQ; none where MAGIC or CRC fails (R378, R379). -/
def readRepair (b : List Byte) : Option (List W32 × W32) :=
  let n := word32 b 4
  if word32 b 0 = 0x52504652 && decide (n ≤ 1024) &&
      crc32 (patchBytes (sliceAt b 0 (16 + 4 * n)) 12 [0, 0, 0, 0]) == word32 b 12 then
    some ((List.range n).map fun i => w32 (word32 b (16 + 4 * i)), w32 (word32 b 8))
  else none

/-- A finished read of a boot record: none where there is no record; else its bytes, none where they did not arrive. -/
def Work.bootRecord (w : Work) (k : JobKey) : Option (Option (List Byte)) × Work :=
  match w.takeJob k with
  | none => (none, w)
  | some (b, w) => (some b, w)

/-- The entries scheduled since the start that the host's record does not hold yet (R377). -/
def Saf.waiting (s : Saf) (host : List W32) : List W32 :=
  let mine := s.repairs.drop (s.repairs.length - s.repPend)
  if s.repRead then mine.filter fun e => !host.any (· == e) else mine

/-- The host's record is taken up: `es` are its entries that got a spare (R379); entries that waited follow them, and the record is
rewritten with these (R377). -/
def Work.takeRecord (w : Work) (host es : List W32) (seq : W32) : Work :=
  let wait := w.d.saf.waiting host
  let w := w.modSaf fun s => { s with repairs := es ++ wait, repSeq := seq, repRead := true }
  if wait.isEmpty then w else w.writeRepairs

/-- The field repair record is applied (R379); macros it repairs are tested again, and a core that fails is excluded (R678). Without a
record the entries of this start are kept until power-off (R377). -/
def Work.applyRepairs (w : Work) (failedRetests : List Nat) : Work :=
  let r := w.bootRecord .repairRec
  match r.1 with
  | none => r.2.modSaf fun s => { s with repRead := true }
  | some b =>
    match b.bind readRepair with
    | none => (r.2.takeRecord [] [] 0).logCode 0x3103 0
    | some (es, seq) =>
      let t := r.2.takeSpares r.2.d.saf.testMap es
      (failedRetests.filter fun p => t.1.any fun e => fld e 27 5 == p).foldl (fun w p => w.exclude p 5) (t.2.takeRecord es t.1 seq)

/-- The retirement record is applied and the core map built (R46, R680). -/
def Work.buildMap (w : Work) : Work :=
  let r := w.bootRecord .retireRec
  let map := fun (mask : Nat) => sprueOrder.filter fun p => !bitOf mask p && !(w.d.boot.excluded.any (· == p))
  let bytes := (r.1.getD none).getD []
  let good := r.1.isSome && retireRecOk bytes && !(map (word32 bytes 4)).isEmpty
  let w := r.2.modSaf fun s => { s with retRec := bytes }
  let w := w.modBoot fun b => { b with coreMap := if good then map (word32 bytes 4) else map 0 }
  let w := if r.1.isSome && !good then w.logCode 0x3108 0 else w
  if w.d.boot.coreMap.isEmpty then w.raise [(0xF106, unitDetail 0x14 0 0)] none else w

/-- What is signed (R683). -/
def signedImage (b : List Byte) : List Byte := ascii "SQ32-FW-v1" ++ patchBytes b 0x40 (List.replicate 64 0)

/-- The checks of R684 in order: 0000h where the image passes. -/
def Work.imageCode (w : Work) (image : Option (List Byte)) : W16 :=
  match image with
  | none => 0x3107
  | some b =>
    let len := word32 b 0x10
    let entry := word32 b 0x14
    if word32 b 0 ≠ 0x57465153 || word32 b 0xC ≠ 0x03020000 || !zeroRange b 0x18 0x20 || len ≠ fld (w.cfg 0x110) 0 19 ||
        len % 64 ≠ 0 || len < 128 || 458752 < len || entry < 0x80 || len ≤ entry || entry % 2 ≠ 0 then 0x7120
    else if w.d.sec.keys.isNone then 0x710D
    else if !(w.d.sec.creds.any fun c => c == (3, sha256 (sliceAt b 0x20 32))) then 0x7121
    else if !Config.ed25519Verify (sliceAt b 0x20 32) (signedImage b) (sliceAt b 0x40 64) then 0x7121
    else if word32 b 8 < w.d.sec.arv.toNat then 0x7122
    else 0

/-- Atelier SRAM after the checks: a good image stands at its start, a failed one is zeroed (R682, R687; log entry 97). -/
def Work.placeImage (w : Work) (image : List Byte) : Work :=
  let w := w.clearRange 0 4 0 524288
  { w with wr := ((runFrom 0 image).map fun b => RamOp.byte 4 b.1 b.2).reverse ++ w.wr }

/-- FW_CHECKS_DONE: the records are applied, the map is built, the image is judged; TRIM or BOOT_FAIL. -/
def fwChecksDone (failedRetests : List Nat) (w : Work) : Work :=
  let ready := fun (k : JobKey) => match w.jobFor k with
    | some j => j.ready
    | none => true
  if w.d.boot.state ≠ 4 || !(ready .repairRec && ready .retireRec && ready .firmware) then w
  else
    let w := (w.applyRepairs failedRetests).buildMap
    let r := w.bootRecord .firmware
    let image := r.1.getD none
    let c := r.2.imageCode image
    let w := r.2
    let b := image.getD []
    if c = 0 then
      ((w.placeImage b).modBoot fun x => { x with state := 5, fwver := w32 (word32 b 4), arv := w32 (word32 b 8), meas := sha256 b }).mod fun d =>
        { d with cal := { d.cal with busy := true } }
    else ((w.placeImage []).modBoot fun x => { x with state := 7, code := c, fails := satAdd 255 x.fails 1 }).logCode c 0

-- Resets (R692, R746 to R748) --------------------------------------------------------------------------------------------------------------

/-- Everything is lost but the model's own queue and its counters of free values and random draws; that the block is unveiled
stands until the next power-off (R668, R730; DEDUCED, log entry 111). -/
def State.lose (s : State) (powered unveiled : Bool) : State :=
  { s with tb := Timebase.reset, ram := Ram.reset, log := ErrLog.reset,
           dev := { Dev.reset with boot := { Boot.reset with powered := powered }, free := s.dev.free,
                                   sec := { Sec.reset with draws := s.dev.sec.draws, unveiled := unveiled } } }

/-- KEY_RECORD_RECEIVED (R731). -/
def execKeyRecordReceived (record : List Byte) (s : State) : Host.Outcome State Fault Refusal := run (keyRecordReceived record) s
/-- KEY_RECORD_TIMEOUT (R732). -/
def execKeyRecordTimeout (s : State) : Host.Outcome State Fault Refusal := run keyRecordTimeout s
/-- SELFTEST_DONE (R674). -/
def execSelftestDone (badCores : List (Nat × Nat)) (sharedFault : Bool) (s : State) : Host.Outcome State Fault Refusal :=
  run (selftestDone badCores sharedFault) s
/-- FW_CHECKS_DONE (R684). -/
def execFwChecksDone (failedRetests : List Nat) (s : State) : Host.Outcome State Fault Refusal := run (fwChecksDone failedRetests) s
/-- RST_N_FALL (R748). -/
def execRstNFall (s : State) : Host.Outcome State Fault Refusal := .next (s.lose false s.dev.sec.unveiled)
/-- RST_N_RISE (R671): KEYS begins; with rst_n already high nothing rises. -/
def execRstNRise (s : State) : Host.Outcome State Fault Refusal := .next (if s.dev.boot.powered then s else s.lose true s.dev.sec.unveiled)
/-- PWR_OK_FALL (R746): as rst_n low. -/
def execPwrOkFall (s : State) : Host.Outcome State Fault Refusal := .next (s.lose false false)

end Sys2Proof.Machine
end

