-- ==== Sys2Proof/Machine/TapRows.lean ====
section
/-! DEFINITION. The debug TAP (16 R743, R744, 14 R665): each row is one scan of the data register under its instruction. -/

-- Declarations are elaborated one after another: side by side, each would hold a thread and its stack.
set_option Elab.async false

namespace Sys2Proof.Machine

def Work.modTap (w : Work) (f : Tap → Tap) : Work := w.mod fun d => { d with tap := f d.tap }

/-- BYPASS: the bit shifted in last. -/
def tapBypass (b : Bool) (w : Work) : Work := w.modTap fun t => { t with ir := 0xFF, dr := b2n b }

/-- An instruction that executes only after unveiling; before it the code selects BYPASS, whose one bit takes the last bit
shifted in (R665). -/
def tapOpen (lastBit : Bool) (f : Work → Work) (w : Work) : Work := if w.d.sec.unveiled then f w else tapBypass lastBit w

/-- IDCODE. -/
def tapIdcode (w : Work) : Work :=
  w.modTap fun t => { t with ir := 1, dr := 2 * 2 ^ 28 + 0x5332 * 2 ^ 12 + Config.tapMfg.toNat * 2 + 1 }

/-- SQSTAT: BOOT_STATUS and SAFE_STATUS. -/
def tapSqstat (w : Work) : Work :=
  let v := (w.regValue 0x104).toNat * 2 ^ 32 + (w.regValue 0x300).toNat
  w.modTap fun t => { t with ir := 2, dr := v }

/-- SQCFG: Capture-DR takes what the access before read; Update-DR makes the access that was shifted in. -/
def tapSqcfg (x : Nat) (w : Work) : Work :=
  let off := 4 * bitsOf x 32 14
  let w := w.modTap fun t => { t with ir := 0x10, dr := t.rdata.toNat }
  if bitOf x 47 then
    let err := w.d.cp.err
    (writeRow off (w32 x) w).mod fun d => { d with cp := { d.cp with err := err } }
  else
    let r := w.regRead off
    r.2.modTap fun t => { t with rdata := r.1 }

/-- SQMEM: the named line; a line that does not exist captures nothing. -/
def tapSqmem (x : Nat) (w : Work) : Work :=
  let p := bitsOf x 539 5
  let mem := bitsOf x 537 2
  let line := bitsOf x 512 25
  let keep := x / 2 ^ 512 * 2 ^ 512
  if mem = 3 || memSize mem ≤ 64 * line then w.modTap fun t => { t with ir := 0x11, dr := x }
  else
    let v := leNat (w.mreadN p mem (64 * line) 64)
    w.modTap fun t => { t with ir := 0x11, dr := keep + v }

/-- SQHALT. -/
def tapSqhalt (b : Bool) (w : Work) : Work :=
  (w.modRings fun g => { g with halted := b }).modTap fun t => { t with ir := 0x12, dr := b2n b }

/-- BYPASS (R744). -/
def execBypass (bit : Bool) (s : State) : Host.Outcome State Fault Refusal := lift (onPort (tapBypass bit)) s
/-- IDCODE (R744). -/
def execIdcode (s : State) : Host.Outcome State Fault Refusal := lift (onPort tapIdcode) s
/-- SQSTAT (R744). -/
def execSqstat (s : State) : Host.Outcome State Fault Refusal := lift (onPort tapSqstat) s
/-- SQCFG (R744). -/
def execSqcfg (dr : BitVec 48) (s : State) : Host.Outcome State Fault Refusal :=
  lift (onPort (tapOpen (dr.getLsbD 47) (tapSqcfg dr.toNat))) s
/-- SQMEM (R744). -/
def execSqmem (dr : BitVec 544) (s : State) : Host.Outcome State Fault Refusal :=
  lift (onPort (tapOpen (dr.getLsbD 543) (tapSqmem dr.toNat))) s
/-- SQHALT (R744). -/
def execSqhalt (bit : Bool) (s : State) : Host.Outcome State Fault Refusal := lift (onPort (tapOpen bit (tapSqhalt bit))) s
/-- TAP_RESET (R743). -/
def execTapReset (s : State) : Host.Outcome State Fault Refusal := lift (onPort (fun w => w.modTap fun t => { t with ir := 1 })) s

end Sys2Proof.Machine
end

