-- ==== Sys2Proof/Machine/Dispatch.lean ====
section
/-! DEFINITION. One arm per command: a direct call of its meaning. -/

namespace Sys2Proof.Machine

/-- The effect of one command on everything but the queue. -/
def exec (i : Instr) (s : State) : Host.Outcome State Fault Refusal :=
  match i with
  | .step ring => Sys2Proof.Machine.execStep ring s
  | .chunk ring => Sys2Proof.Machine.execChunk ring s
  | .biwin ring => Sys2Proof.Machine.execBiwin ring s
  | .bind ring => Sys2Proof.Machine.execBind ring s
  | .release ring => Sys2Proof.Machine.execRelease ring s
  | .fill ring => Sys2Proof.Machine.execFill ring s
  | .spill ring => Sys2Proof.Machine.execSpill ring s
  | .wload ring => Sys2Proof.Machine.execWload ring s
  | .tload ring => Sys2Proof.Machine.execTload ring s
  | .tfence ring => Sys2Proof.Machine.execTfence ring s
  | .fence ring => Sys2Proof.Machine.execFence ring s
  | .kill ring => Sys2Proof.Machine.execKill ring s
  | .nop ring => Sys2Proof.Machine.execNop ring s
  | .tableRead ring => Sys2Proof.Machine.execTableRead ring s
  | .streamDrift ring => Sys2Proof.Machine.execStreamDrift ring s
  | .streamRestore ring => Sys2Proof.Machine.execStreamRestore ring s
  | .winCounts ring => Sys2Proof.Machine.execWinCounts ring s
  | .challenge ring => Sys2Proof.Machine.execChallenge ring s
  | .auth ring => Sys2Proof.Machine.execAuth ring s
  | .close ring => Sys2Proof.Machine.execClose ring s
  | .attest ring => Sys2Proof.Machine.execAttest ring s
  | .propose ring => Sys2Proof.Machine.execPropose ring s
  | .countersign ring => Sys2Proof.Machine.execCountersign ring s
  | .withdraw ring => Sys2Proof.Machine.execWithdraw ring s
  | .perfRead ring => Sys2Proof.Machine.execPerfRead ring s
  | .retireRead ring => Sys2Proof.Machine.execRetireRead ring s
  | .retire ring => Sys2Proof.Machine.execRetire ring s
  | .castRegion ring => Sys2Proof.Machine.execCastRegion ring s
  | .doorbellPollTimer => Sys2Proof.Machine.execDoorbellPollTimer s
  | .nudge => Sys2Proof.Machine.execNudge s
  | .doorbellPageRead => Sys2Proof.Machine.execDoorbellPageRead s
  | .descriptorFetch ring => Sys2Proof.Machine.execDescriptorFetch ring s
  | .batchListRead ring seq => Sys2Proof.Machine.execBatchListRead ring seq s
  | .descriptorResume ring seq => Sys2Proof.Machine.execDescriptorResume ring seq s
  | .coresGranted hold => Sys2Proof.Machine.execCoresGranted s hold
  | .coreStepEnd core => Sys2Proof.Machine.execCoreStepEnd core s
  | .commitPoint ring seq => Sys2Proof.Machine.execCommitPoint ring seq s
  | .deadlinePassed ring seq => Sys2Proof.Machine.execDeadlinePassed ring seq s
  | .fillVerified stream => Sys2Proof.Machine.execFillVerified stream s
  | .fillFailed stream => Sys2Proof.Machine.execFillFailed stream s
  | .spillWritesAccepted stream => Sys2Proof.Machine.execSpillWritesAccepted stream s
  | .spillFail stream => Sys2Proof.Machine.execSpillFail stream s
  | .pageZeroed page => Sys2Proof.Machine.execPageZeroed page s
  | .digestPassDone stream => Sys2Proof.Machine.execDigestPassDone stream s
  | .contextPatrol ctxBad stateBad => Sys2Proof.Machine.execContextPatrol ctxBad stateBad s
  | .portReadResponse port id data status poison tags => Sys2Proof.Machine.execPortReadResponse port id data status poison tags s
  | .portWriteResponse port id status => Sys2Proof.Machine.execPortWriteResponse port id status s
  | .retryBudgetExpiry port id => Sys2Proof.Machine.execRetryBudgetExpiry port id s
  | .ledgerEntryAccepted => Sys2Proof.Machine.execLedgerEntryAccepted s
  | .tloadDone ring seq => Sys2Proof.Machine.execTloadDone ring seq s
  | .tfenceProcessed ring seq => Sys2Proof.Machine.execTfenceProcessed ring seq s
  | .bankSwitch core => Sys2Proof.Machine.execBankSwitch core s
  | .resyncDone core => Sys2Proof.Machine.execResyncDone core s
  | .csrAccess core thread => Sys2Proof.Machine.execCsrAccess core thread s
  | .baseInstruction core thread shadowOk => Sys2Proof.Machine.execBaseInstruction core thread s shadowOk
  | .fadd core thread => Sys2Proof.Machine.execFadd core thread s
  | .fsub core thread => Sys2Proof.Machine.execFsub core thread s
  | .fmul core thread => Sys2Proof.Machine.execFmul core thread s
  | .fma core thread => Sys2Proof.Machine.execFma core thread s
  | .fnma core thread => Sys2Proof.Machine.execFnma core thread s
  | .fmin core thread => Sys2Proof.Machine.execFmin core thread s
  | .fmax core thread => Sys2Proof.Machine.execFmax core thread s
  | .fsgnj core thread => Sys2Proof.Machine.execFsgnj core thread s
  | .iadd core thread => Sys2Proof.Machine.execIadd core thread s
  | .isub core thread => Sys2Proof.Machine.execIsub core thread s
  | .imul core thread => Sys2Proof.Machine.execImul core thread s
  | .imin core thread => Sys2Proof.Machine.execImin core thread s
  | .imax core thread => Sys2Proof.Machine.execImax core thread s
  | .vand core thread => Sys2Proof.Machine.execVand core thread s
  | .vor core thread => Sys2Proof.Machine.execVor core thread s
  | .vxor core thread => Sys2Proof.Machine.execVxor core thread s
  | .vsll core thread => Sys2Proof.Machine.execVsll core thread s
  | .vsrl core thread => Sys2Proof.Machine.execVsrl core thread s
  | .vsra core thread => Sys2Proof.Machine.execVsra core thread s
  | .fcmplt core thread => Sys2Proof.Machine.execFcmplt core thread s
  | .fcmple core thread => Sys2Proof.Machine.execFcmple core thread s
  | .fcmpeq core thread => Sys2Proof.Machine.execFcmpeq core thread s
  | .icmplt core thread => Sys2Proof.Machine.execIcmplt core thread s
  | .icmpeq core thread => Sys2Proof.Machine.execIcmpeq core thread s
  | .fcvti core thread => Sys2Proof.Machine.execFcvti core thread s
  | .icvtf core thread => Sys2Proof.Machine.execIcvtf core thread s
  | .fabs core thread => Sys2Proof.Machine.execFabs core thread s
  | .fneg core thread => Sys2Proof.Machine.execFneg core thread s
  | .vmov core thread => Sys2Proof.Machine.execVmov core thread s
  | .laneid core thread => Sys2Proof.Machine.execLaneid core thread s
  | .vsplat core thread => Sys2Proof.Machine.execVsplat core thread s
  | .vsel core thread => Sys2Proof.Machine.execVsel core thread s
  | .reduceFsum core thread => Sys2Proof.Machine.execReduceFsum core thread s
  | .reduceFmax core thread => Sys2Proof.Machine.execReduceFmax core thread s
  | .reduceFmin core thread => Sys2Proof.Machine.execReduceFmin core thread s
  | .reduceIsum core thread => Sys2Proof.Machine.execReduceIsum core thread s
  | .reduceImax core thread => Sys2Proof.Machine.execReduceImax core thread s
  | .reduceImin core thread => Sys2Proof.Machine.execReduceImin core thread s
  | .mpop core thread => Sys2Proof.Machine.execMpop core thread s
  | .mfirst core thread => Sys2Proof.Machine.execMfirst core thread s
  | .mand core thread => Sys2Proof.Machine.execMand core thread s
  | .mor core thread => Sys2Proof.Machine.execMor core thread s
  | .mandn core thread => Sys2Proof.Machine.execMandn core thread s
  | .mxor core thread => Sys2Proof.Machine.execMxor core thread s
  | .mnot core thread => Sys2Proof.Machine.execMnot core thread s
  | .mset core thread => Sys2Proof.Machine.execMset core thread s
  | .mclr core thread => Sys2Proof.Machine.execMclr core thread s
  | .vfn core thread => Sys2Proof.Machine.execVfn core thread s
  | .vgact core thread => Sys2Proof.Machine.execVgact core thread s
  | .vld core thread => Sys2Proof.Machine.execVld core thread s
  | .vst core thread => Sys2Proof.Machine.execVst core thread s
  | .prd core thread => Sys2Proof.Machine.execPrd core thread s
  | .pwr core thread => Sys2Proof.Machine.execPwr core thread s
  | .vlds core thread => Sys2Proof.Machine.execVlds core thread s
  | .vsts core thread => Sys2Proof.Machine.execVsts core thread s
  | .vrng core thread => Sys2Proof.Machine.execVrng core thread s
  | .vldb core thread => Sys2Proof.Machine.execVldb core thread s
  | .xmma core thread => Sys2Proof.Machine.execXmma core thread s
  | .xrel core thread => Sys2Proof.Machine.execXrel core thread s
  | .xchain core thread => Sys2Proof.Machine.execXchain core thread s
  | .xtally core thread => Sys2Proof.Machine.execXtally core thread s
  | .xstout core thread => Sys2Proof.Machine.execXstout core thread s
  | .xstin core thread => Sys2Proof.Machine.execXstin core thread s
  | .xstrd core thread => Sys2Proof.Machine.execXstrd core thread s
  | .fetch core thread => Sys2Proof.Machine.execFetch core thread s
  | .store core thread => Sys2Proof.Machine.execStore core thread s
  | .stage core thread => Sys2Proof.Machine.execStage core thread s
  | .rfree core thread => Sys2Proof.Machine.execRfree core thread s
  | .wopen core thread => Sys2Proof.Machine.execWopen core thread s
  | .wclose core thread => Sys2Proof.Machine.execWclose core thread s
  | .xsetvl core thread => Sys2Proof.Machine.execXsetvl core thread s
  | .xwait core thread => Sys2Proof.Machine.execXwait core thread s
  | .xcnt core thread => Sys2Proof.Machine.execXcnt core thread s
  | .xstart core thread => Sys2Proof.Machine.execXstart core thread s
  | .xend core thread => Sys2Proof.Machine.execXend core thread s
  | .xjoin core thread => Sys2Proof.Machine.execXjoin core thread s
  | .xfence core thread => Sys2Proof.Machine.execXfence core thread s
  | .xcset core thread => Sys2Proof.Machine.execXcset core thread s
  | .threadWake core thread => Sys2Proof.Machine.execThreadWake core thread s
  | .xwaitLimit core thread => Sys2Proof.Machine.execXwaitLimit core thread s
  | .mmaComputeStart core => Sys2Proof.Machine.execMmaComputeStart core s
  | .mmaDrainDone core => Sys2Proof.Machine.execMmaDrainDone core s
  | .tallyCompute core slot => Sys2Proof.Machine.execTallyCompute core slot s
  | .chainMerge core chain => Sys2Proof.Machine.execChainMerge core chain s
  | .fetchPassComplete port slot => Sys2Proof.Machine.execFetchPassComplete port slot s
  | .fetchLineLand port slot => Sys2Proof.Machine.execFetchLineLand port slot s
  | .sprueLineAccept core => Sys2Proof.Machine.execSprueLineAccept core s
  | .gatherDrain core line => Sys2Proof.Machine.execGatherDrain core line s
  | .remoteStoreArrival core => Sys2Proof.Machine.execRemoteStoreArrival core s
  | .remoteStoreAck core => Sys2Proof.Machine.execRemoteStoreAck core s
  | .meshFlitArrival fromCore toCore ok replayOk kind src dst => Sys2Proof.Machine.execMeshFlitArrival fromCore toCore ok replayOk s kind src dst
  | .caliperComparison core isMatch confirmMatch maquette => Sys2Proof.Machine.execCaliperComparison core isMatch confirmMatch s maquette
  | .probeCountReached core => Sys2Proof.Machine.execProbeCountReached core s
  | .trimProcedureDone trims => Sys2Proof.Machine.execTrimProcedureDone trims s
  | .brateWindowEnd counts => Sys2Proof.Machine.execBrateWindowEnd counts s
  | .timebaseUpdate ns valid => Sys2Proof.Machine.execTimebaseUpdate ns valid s
  | .tbInvalid => Sys2Proof.Machine.execTbInvalid s
  | .stall unit core inst => Sys2Proof.Machine.execStall unit core inst s
  | .codewordInvalid unit core inst => Sys2Proof.Machine.execCodewordInvalid unit core inst s
  | .maquetteSchedule => Sys2Proof.Machine.execMaquetteSchedule s
  | .maquetteForce core => Sys2Proof.Machine.execMaquetteForce core s
  | .maquetteDone core ok unit => Sys2Proof.Machine.execMaquetteDone core ok unit s
  | .safetyReactionStart => Sys2Proof.Machine.execSafetyReactionStart s
  | .retestDone core ok => Sys2Proof.Machine.execRetestDone core ok s
  | .eccFinding f => Sys2Proof.Machine.execEccFinding f s
  | .patrolScrub f => Sys2Proof.Machine.execPatrolScrub f s
  | .lockScrubDone core failed => Sys2Proof.Machine.execLockScrubDone core s failed
  | .fatalError code => Sys2Proof.Machine.execFatalError code s
  | .castSectionWritten => Sys2Proof.Machine.execCastSectionWritten s
  | .castTimeout => Sys2Proof.Machine.execCastTimeout s
  | .sfAliveToggle confirmed => Sys2Proof.Machine.execSfAliveToggle confirmed s
  | .sfSafeReq => Sys2Proof.Machine.execSfSafeReq s
  | .helloTimer => Sys2Proof.Machine.execHelloTimer s
  | .hello link frame => Sys2Proof.Machine.execHello link frame s
  | .proof link frame => Sys2Proof.Machine.execProof link frame s
  | .heartbeatTimer => Sys2Proof.Machine.execHeartbeatTimer s
  | .heartbeat link frame => Sys2Proof.Machine.execHeartbeat link frame s
  | .digestSendTimer => Sys2Proof.Machine.execDigestSendTimer s
  | .digest link frame => Sys2Proof.Machine.execDigest link frame s
  | .digestWaitExpiry stream gen => Sys2Proof.Machine.execDigestWaitExpiry stream gen s
  | .linkSilence link pos => Sys2Proof.Machine.execLinkSilence link pos s
  | .rejoinReq link frame => Sys2Proof.Machine.execRejoinReq link frame s
  | .rejoinPassStep => Sys2Proof.Machine.execRejoinPassStep s
  | .stateFrame link frame => Sys2Proof.Machine.execStateFrame link frame s
  | .held link frame => Sys2Proof.Machine.execHeld link frame s
  | .fillReq link frame => Sys2Proof.Machine.execFillReq link frame s
  | .installAck link frame => Sys2Proof.Machine.execInstallAck link frame s
  | .spanData link frame => Sys2Proof.Machine.execSpanData link frame s
  | .spanAck link frame => Sys2Proof.Machine.execSpanAck link frame s
  | .spanAckTimeout sid link dst => Sys2Proof.Machine.execSpanAckTimeout sid s link dst
  | .spanHeldExpiry => Sys2Proof.Machine.execSpanHeldExpiry s
  | .frameDiscard link frame => Sys2Proof.Machine.execFrameDiscard link frame s
  | .gclEntryChange => Sys2Proof.Machine.execGclEntryChange s
  | .linkFaultReceived link kind => Sys2Proof.Machine.execLinkFaultReceived link kind s
  | .ethTxClockStop link => Sys2Proof.Machine.execEthTxClockStop link s
  | .authLockoutExpiry => Sys2Proof.Machine.execAuthLockoutExpiry s
  | .proposalExpiry => Sys2Proof.Machine.execProposalExpiry s
  | .quiesceComplete => Sys2Proof.Machine.execQuiesceComplete s
  | .rngFail => Sys2Proof.Machine.execRngFail s
  | .telemetryWindow power => Sys2Proof.Machine.execTelemetryWindow power s
  | .keyRecordReceived record => Sys2Proof.Machine.execKeyRecordReceived record s
  | .keyRecordTimeout => Sys2Proof.Machine.execKeyRecordTimeout s
  | .selftestDone badCores sharedFault => Sys2Proof.Machine.execSelftestDone badCores sharedFault s
  | .fwChecksDone failedRetests => Sys2Proof.Machine.execFwChecksDone failedRetests s
  | .bootCtrlGo value => Sys2Proof.Machine.execBootCtrlGo value s
  | .stCtrlRetrim value => Sys2Proof.Machine.execStCtrlRetrim value s
  | .stCtrlOpp value => Sys2Proof.Machine.execStCtrlOpp value s
  | .armtCtxSelWrite value => Sys2Proof.Machine.execArmtCtxSelWrite value s
  | .numsigLoRead => Sys2Proof.Machine.execNumsigLoRead s
  | .ledgerSeqLoRead => Sys2Proof.Machine.execLedgerSeqLoRead s
  | .sqEnable ring value => Sys2Proof.Machine.execSqEnable ring value s
  | .sqDisable ring value => Sys2Proof.Machine.execSqDisable ring value s
  | .cqEnable ring value => Sys2Proof.Machine.execCqEnable ring value s
  | .cqDisable ring value => Sys2Proof.Machine.execCqDisable ring value s
  | .irqPendClear hi value => Sys2Proof.Machine.execIrqPendClear hi value s
  | .errqPendClear value => Sys2Proof.Machine.execErrqPendClear value s
  | .safeStatusErrClear value => Sys2Proof.Machine.execSafeStatusErrClear value s
  | .pop value => Sys2Proof.Machine.execPop value s
  | .safeInjectGo value => Sys2Proof.Machine.execSafeInjectGo value s
  | .pair value => Sys2Proof.Machine.execPair value s
  | .rejoin value => Sys2Proof.Machine.execRejoin value s
  | .promote value => Sys2Proof.Machine.execPromote value s
  | .demote value => Sys2Proof.Machine.execDemote value s
  | .peerResyncGo value => Sys2Proof.Machine.execPeerResyncGo value s
  | .configWrite offset value => Sys2Proof.Machine.execConfigWrite offset value s
  | .bypass bit => Sys2Proof.Machine.execBypass bit s
  | .idcode => Sys2Proof.Machine.execIdcode s
  | .sqstat => Sys2Proof.Machine.execSqstat s
  | .sqcfg dr => Sys2Proof.Machine.execSqcfg dr s
  | .sqmem dr => Sys2Proof.Machine.execSqmem dr s
  | .sqhalt bit => Sys2Proof.Machine.execSqhalt bit s
  | .tapReset => Sys2Proof.Machine.execTapReset s
  | .rstNFall => Sys2Proof.Machine.execRstNFall s
  | .rstNRise => Sys2Proof.Machine.execRstNRise s
  | .pwrOkFall => Sys2Proof.Machine.execPwrOkFall s
  | .portRequestGrant port id ready => Sys2Proof.Machine.execPortRequestGrant port id ready s
  | .frameTransmitEnd link => Sys2Proof.Machine.execFrameTransmitEnd link s

end Sys2Proof.Machine
end

