-- ==== Sys2Proof/WellFormed.lean ====
section
/-! DEFINITION. Well-formed commands: every operand lies in the range the spec gives it (rings and doorbells R491, cores R27,
threads R162, streams R294, ports and request ids R712, pages R298, links and positions R544, R552, register offsets R752). -/

-- Declarations are elaborated one after another: side by side, each would hold a thread and its stack.
set_option Elab.async false

namespace Sys2Proof

def ringOk (r : Nat) : Bool := decide (r < 64)
/-- Sequence numbers, generations and frame numbers are 32 bits wide (R493, R294, R554). -/
def seqOk (s : Nat) : Bool := decide (s < 2 ^ 32)
/-- A begun descriptor as the model names it: its number in the low 32 bits, the count of its ring's disables above. -/
def keyOk (k : Nat) : Bool := decide (k < 2 ^ 64)
/-- A set of physical cores as a mask. -/
def maskOk (m : Nat) : Bool := decide (m < 2 ^ 32)
/-- A store, a load or an acknowledgement crosses the link. -/
def flitKindOk (k : Nat) : Bool := decide (k < 3)
/-- A line of WS, AS or plinth. -/
def lockedLineOk (x : Nat × Nat) : Bool := decide (x.1 < 3) && decide (x.2 < 20480)
def coreOk (p : Nat) : Bool := decide (p < 32)
def threadOk (t : Nat) : Bool := decide (t < 8)
def streamOk (s : Nat) : Bool := decide (s < 65536)
def portOk (p : Nat) : Bool := decide (p < 8)
def idOk (i : Nat) : Bool := decide (i < 256)
/-- mpN_rsp_status and mpN_bv_status: 0 OK, else ERROR (R715). -/
def statusOk (s : Nat) : Bool := decide (s < 2)
def pageOk (k : Nat) : Bool := decide (k < 8192)
def linkOk (l : Nat) : Bool := decide (l < 2)
def posOk (b : Nat) : Bool := decide (b < 4)
def fetchSlotOk (s : Nat) : Bool := decide (s < 256)
def tileSlotOk (s : Nat) : Bool := decide (s < 16)
def chainOk (c : Nat) : Bool := decide (c < 4)
def lineOk (l : Nat) : Bool := decide (l < 8192)
def unitOk (u : Nat) : Bool := decide (u < 256)
def instOk (i : Nat) : Bool := decide (i < 256)
def nsOk (n : Nat) : Bool := decide (n < 2 ^ 64)
def codeOk (c : Nat) : Bool := decide (c < 65536)
/-- No fault, local fault or remote fault (R741). -/
def faultKindOk (k : Nat) : Bool := decide (k < 3)
def powerOk (p : Nat) : Bool := decide (p < 256)
def offsetOk (o : Nat) : Bool := decide (o < 65536) && o % 4 == 0

/-- A frame fits an Ethernet frame of 1,040 payload bytes, its MAC address 48 bits (R544, R551). -/
def frameOk (f : RxFrame) : Bool := decide (f.bytes.length ≤ 1500) && decide (f.dst < 2 ^ 48) && decide (f.vid < 4096) && decide (f.etherType < 65536)

/-- A finding names a memory of the table, a core, a line of that memory (for 3 and 4 a stream) and a granule of the line. -/
def findingOk (f : EccFinding) : Bool :=
  decide (f.mem < 8) && coreOk f.core && decide (f.granule < 4) &&
    decide (f.line < (match f.mem with
      | 0 => 20480
      | 1 => 8192
      | 2 => 4096
      | _ => 65536))

/-- The well-formed commands. -/
def wellFormed (i : Instr) : Bool :=
  match i with
  | .step ring => ringOk ring
  | .chunk ring => ringOk ring
  | .biwin ring => ringOk ring
  | .bind ring => ringOk ring
  | .release ring => ringOk ring
  | .fill ring => ringOk ring
  | .spill ring => ringOk ring
  | .wload ring => ringOk ring
  | .tload ring => ringOk ring
  | .tfence ring => ringOk ring
  | .fence ring => ringOk ring
  | .kill ring => ringOk ring
  | .nop ring => ringOk ring
  | .tableRead ring => ringOk ring
  | .streamDrift ring => ringOk ring
  | .streamRestore ring => ringOk ring
  | .winCounts ring => ringOk ring
  | .challenge ring => ringOk ring
  | .auth ring => ringOk ring
  | .close ring => ringOk ring
  | .attest ring => ringOk ring
  | .propose ring => ringOk ring
  | .countersign ring => ringOk ring
  | .withdraw ring => ringOk ring
  | .perfRead ring => ringOk ring
  | .retireRead ring => ringOk ring
  | .retire ring => ringOk ring
  | .castRegion ring => ringOk ring
  | .doorbellPollTimer => true
  | .nudge => true
  | .doorbellPageRead => true
  | .descriptorFetch ring => ringOk ring
  | .batchListRead ring seq => ringOk ring && keyOk seq
  | .descriptorResume ring seq => ringOk ring && keyOk seq
  | .coresGranted hold => maskOk hold
  | .coreStepEnd core => coreOk core
  | .commitPoint ring seq => ringOk ring && keyOk seq
  | .deadlinePassed ring seq => ringOk ring && keyOk seq
  | .fillVerified stream => streamOk stream
  | .fillFailed stream => streamOk stream
  | .spillWritesAccepted stream => streamOk stream
  | .spillFail stream => streamOk stream
  | .pageZeroed page => pageOk page
  | .digestPassDone stream => streamOk stream
  | .contextPatrol ctxBad stateBad => ctxBad.all streamOk && stateBad.all streamOk
  | .portReadResponse port id data status _ tags => portOk port && idOk id && decide (data.length ≤ 256) && statusOk status && decide (tags.length ≤ 32)
  | .portWriteResponse port id status => portOk port && idOk id && statusOk status
  | .retryBudgetExpiry port id => portOk port && idOk id
  | .ledgerEntryAccepted => true
  | .tloadDone ring seq => ringOk ring && keyOk seq
  | .tfenceProcessed ring seq => ringOk ring && keyOk seq
  | .bankSwitch core => coreOk core
  | .resyncDone core => coreOk core
  | .csrAccess core thread => coreOk core && threadOk thread
  | .baseInstruction core thread _ => coreOk core && threadOk thread
  | .fadd core thread => coreOk core && threadOk thread
  | .fsub core thread => coreOk core && threadOk thread
  | .fmul core thread => coreOk core && threadOk thread
  | .fma core thread => coreOk core && threadOk thread
  | .fnma core thread => coreOk core && threadOk thread
  | .fmin core thread => coreOk core && threadOk thread
  | .fmax core thread => coreOk core && threadOk thread
  | .fsgnj core thread => coreOk core && threadOk thread
  | .iadd core thread => coreOk core && threadOk thread
  | .isub core thread => coreOk core && threadOk thread
  | .imul core thread => coreOk core && threadOk thread
  | .imin core thread => coreOk core && threadOk thread
  | .imax core thread => coreOk core && threadOk thread
  | .vand core thread => coreOk core && threadOk thread
  | .vor core thread => coreOk core && threadOk thread
  | .vxor core thread => coreOk core && threadOk thread
  | .vsll core thread => coreOk core && threadOk thread
  | .vsrl core thread => coreOk core && threadOk thread
  | .vsra core thread => coreOk core && threadOk thread
  | .fcmplt core thread => coreOk core && threadOk thread
  | .fcmple core thread => coreOk core && threadOk thread
  | .fcmpeq core thread => coreOk core && threadOk thread
  | .icmplt core thread => coreOk core && threadOk thread
  | .icmpeq core thread => coreOk core && threadOk thread
  | .fcvti core thread => coreOk core && threadOk thread
  | .icvtf core thread => coreOk core && threadOk thread
  | .fabs core thread => coreOk core && threadOk thread
  | .fneg core thread => coreOk core && threadOk thread
  | .vmov core thread => coreOk core && threadOk thread
  | .laneid core thread => coreOk core && threadOk thread
  | .vsplat core thread => coreOk core && threadOk thread
  | .vsel core thread => coreOk core && threadOk thread
  | .reduceFsum core thread => coreOk core && threadOk thread
  | .reduceFmax core thread => coreOk core && threadOk thread
  | .reduceFmin core thread => coreOk core && threadOk thread
  | .reduceIsum core thread => coreOk core && threadOk thread
  | .reduceImax core thread => coreOk core && threadOk thread
  | .reduceImin core thread => coreOk core && threadOk thread
  | .mpop core thread => coreOk core && threadOk thread
  | .mfirst core thread => coreOk core && threadOk thread
  | .mand core thread => coreOk core && threadOk thread
  | .mor core thread => coreOk core && threadOk thread
  | .mandn core thread => coreOk core && threadOk thread
  | .mxor core thread => coreOk core && threadOk thread
  | .mnot core thread => coreOk core && threadOk thread
  | .mset core thread => coreOk core && threadOk thread
  | .mclr core thread => coreOk core && threadOk thread
  | .vfn core thread => coreOk core && threadOk thread
  | .vgact core thread => coreOk core && threadOk thread
  | .vld core thread => coreOk core && threadOk thread
  | .vst core thread => coreOk core && threadOk thread
  | .prd core thread => coreOk core && threadOk thread
  | .pwr core thread => coreOk core && threadOk thread
  | .vlds core thread => coreOk core && threadOk thread
  | .vsts core thread => coreOk core && threadOk thread
  | .vrng core thread => coreOk core && threadOk thread
  | .vldb core thread => coreOk core && threadOk thread
  | .xmma core thread => coreOk core && threadOk thread
  | .xrel core thread => coreOk core && threadOk thread
  | .xchain core thread => coreOk core && threadOk thread
  | .xtally core thread => coreOk core && threadOk thread
  | .xstout core thread => coreOk core && threadOk thread
  | .xstin core thread => coreOk core && threadOk thread
  | .xstrd core thread => coreOk core && threadOk thread
  | .fetch core thread => coreOk core && threadOk thread
  | .store core thread => coreOk core && threadOk thread
  | .stage core thread => coreOk core && threadOk thread
  | .rfree core thread => coreOk core && threadOk thread
  | .wopen core thread => coreOk core && threadOk thread
  | .wclose core thread => coreOk core && threadOk thread
  | .xsetvl core thread => coreOk core && threadOk thread
  | .xwait core thread => coreOk core && threadOk thread
  | .xcnt core thread => coreOk core && threadOk thread
  | .xstart core thread => coreOk core && threadOk thread
  | .xend core thread => coreOk core && threadOk thread
  | .xjoin core thread => coreOk core && threadOk thread
  | .xfence core thread => coreOk core && threadOk thread
  | .xcset core thread => coreOk core && threadOk thread
  | .threadWake core thread => coreOk core && threadOk thread
  | .xwaitLimit core thread => coreOk core && threadOk thread
  | .mmaComputeStart core => coreOk core
  | .mmaDrainDone core => coreOk core
  | .tallyCompute core slot => coreOk core && tileSlotOk slot
  | .chainMerge core chain => coreOk core && chainOk chain
  | .fetchPassComplete port slot => portOk port && fetchSlotOk slot
  | .fetchLineLand port slot => portOk port && fetchSlotOk slot
  | .sprueLineAccept core => coreOk core
  | .gatherDrain core line => coreOk core && lineOk line
  | .remoteStoreArrival core => coreOk core
  | .remoteStoreAck core => coreOk core
  | .meshFlitArrival fromCore toCore _ _ kind src dst => coreOk fromCore && coreOk toCore && flitKindOk kind && coreOk src && coreOk dst
  | .caliperComparison core _ _ _ => coreOk core
  | .probeCountReached core => coreOk core
  | .trimProcedureDone trims => trims.length == 32
  | .brateWindowEnd counts => counts.length == 32
  | .timebaseUpdate ns _ => nsOk ns
  | .tbInvalid => true
  | .stall unit core inst => unitOk unit && coreOk core && instOk inst
  | .codewordInvalid unit core inst => unitOk unit && coreOk core && instOk inst
  | .maquetteSchedule => true
  | .maquetteForce core => coreOk core
  | .maquetteDone core _ unit => coreOk core && unitOk unit
  | .safetyReactionStart => true
  | .retestDone core _ => coreOk core
  | .eccFinding f => findingOk f
  | .patrolScrub f => f.all findingOk
  | .lockScrubDone core failed => coreOk core && failed.all lockedLineOk
  | .fatalError code => codeOk code
  | .castSectionWritten => true
  | .castTimeout => true
  | .sfAliveToggle _ => true
  | .sfSafeReq => true
  | .helloTimer => true
  | .hello link frame => linkOk link && frameOk frame
  | .proof link frame => linkOk link && frameOk frame
  | .heartbeatTimer => true
  | .heartbeat link frame => linkOk link && frameOk frame
  | .digestSendTimer => true
  | .digest link frame => linkOk link && frameOk frame
  | .digestWaitExpiry stream gen => streamOk stream && seqOk gen
  | .linkSilence link pos => linkOk link && posOk pos
  | .rejoinReq link frame => linkOk link && frameOk frame
  | .rejoinPassStep => true
  | .stateFrame link frame => linkOk link && frameOk frame
  | .held link frame => linkOk link && frameOk frame
  | .fillReq link frame => linkOk link && frameOk frame
  | .installAck link frame => linkOk link && frameOk frame
  | .spanData link frame => linkOk link && frameOk frame
  | .spanAck link frame => linkOk link && frameOk frame
  | .spanAckTimeout sid link dst => seqOk sid && linkOk link && posOk dst
  | .spanHeldExpiry => true
  | .frameDiscard link frame => linkOk link && frameOk frame
  | .gclEntryChange => true
  | .linkFaultReceived link kind => linkOk link && faultKindOk kind
  | .ethTxClockStop link => linkOk link
  | .authLockoutExpiry => true
  | .proposalExpiry => true
  | .quiesceComplete => true
  | .rngFail => true
  | .telemetryWindow power => powerOk power
  | .keyRecordReceived record => decide (record.length ≤ 4672)
  | .keyRecordTimeout => true
  | .selftestDone badCores _ => (badCores.all fun x => coreOk x.1 && unitOk x.2)
  | .fwChecksDone failedRetests => failedRetests.all coreOk
  | .bootCtrlGo _ => true
  | .stCtrlRetrim _ => true
  | .stCtrlOpp _ => true
  | .armtCtxSelWrite _ => true
  | .numsigLoRead => true
  | .ledgerSeqLoRead => true
  | .sqEnable ring _ => ringOk ring
  | .sqDisable ring _ => ringOk ring
  | .cqEnable ring _ => ringOk ring
  | .cqDisable ring _ => ringOk ring
  | .irqPendClear _ _ => true
  | .errqPendClear _ => true
  | .safeStatusErrClear _ => true
  | .pop _ => true
  | .safeInjectGo _ => true
  | .pair _ => true
  | .rejoin _ => true
  | .promote _ => true
  | .demote _ => true
  | .peerResyncGo _ => true
  | .configWrite offset _ => offsetOk offset
  | .bypass _ => true
  | .idcode => true
  | .sqstat => true
  | .sqcfg _ => true
  | .sqmem _ => true
  | .sqhalt _ => true
  | .tapReset => true
  | .rstNFall => true
  | .rstNRise => true
  | .pwrOkFall => true
  | .portRequestGrant port id _ => portOk port && idOk id
  | .frameTransmitEnd link => linkOk link

end Sys2Proof
end

