-- ==== Sys2Proof/Safety.lean ====
section
/-! DEFINITION. What counts as a safe state of the block, and the terms in which the statements speak: a state in which the
block acts, a thread that issues an instruction, a state that differs in one core only, the table of operations of R187. -/

-- Declarations are elaborated one after another: side by side, each would hold a thread and its stack.
set_option Elab.async false

namespace Sys2Proof.Machine

-- Safe states -----------------------------------------------------------------------------------------------------------

/-- The SRAM tables are in canonical form. -/
def State.memoryOk (s : State) : Bool := s.ram.wf

/-- The error record queue holds at most 64 entries (R612). -/
def State.errqOk (s : State) : Bool := decide (s.log.errq.length ≤ 64)

/-- At most 16 class 8h events await their reaction, and none while a fatal error is handled (R605, R611). -/
def State.reactOk (s : State) : Bool := decide (s.log.react.length ≤ 16) && (!s.log.fatal || s.log.react.isEmpty)

/-- The interrupt lines stand as the pending bits and their routes give them (R540). -/
def State.linesOk (s : State) : Bool := decide (s.dev.irq.lines = irqLines s.dev)

/-- Every waiting command is well-formed. -/
def State.queueOk (s : State) : Bool := s.pending.all wellFormed

/-- A safe state. -/
def State.safeState (s : State) : Bool := s.memoryOk && s.errqOk && s.reactOk && s.linesOk

-- States the statements speak of ------------------------------------------------------------------------------------------

/-- The block acts: it has power, it handles no fatal error, and its interrupt lines stand (the last is an invariant). -/
def State.acts (s : State) : Bool := !s.log.fatal && s.dev.boot.powered && s.linesOk

/-- A core and a thread of a state. -/
def State.core (s : State) (p : Nat) : Core := nth Core.init s.dev.cores p
def State.thread (s : State) (p t : Nat) : Thread := (s.core p).thread t

/-- The state in which core `p` is `k` and everything else is the same. -/
def State.withCore (s : State) (p : Nat) (k : Core) : State :=
  { s with dev := { s.dev with cores := setNth s.dev.cores p k } }

/-- The state in which the units but timebase, SRAMs and log are `d`. -/
def State.withDev (s : State) (d : Dev) : State := { s with dev := d }

/-- Thread `t` of core `p` runs in a running step, the 32-bit word at its pc belongs to the row, and no control-core fault is
armed on the core (R623). -/
def State.issues (s : State) (p t : Nat) (row : Row) (word : Nat) : Bool :=
  s.acts && decide ((s.work.current p t).map Prod.snd = some (some (word, 4))) && decide (rowOf word = row) &&
    (s.work.takeArmed 2 p).isNone

/-- What the running step gives the thread's core. -/
def State.ctx? (s : State) (p : Nat) : Option Ctx := s.work.ctxOf p

/-- The core after thread `t` completed a 32-bit instruction: its pc has moved on, an issue to the vector engine is
counted (R663). -/
def Core.advanced (k : Core) (row : Row) (t : Nat) : Core :=
  { k with
    threads := setNth k.threads t { k.thread t with pc := (k.thread t).pc + 4 }
    perf := if row.isVector then { k.perf with vops := (k.perf.vops + 1) % 2 ^ 64 } else k.perf }

/-- A thread of a core changed. -/
def Core.withThread (k : Core) (t : Nat) (th : Thread) : Core := { k with threads := setNth k.threads t th }

/-- The state in which the SRAMs are `r` and everything else is the same. -/
def State.withRam (s : State) (r : Ram) : State := { s with ram := r }

/-- The byte an address holds after a list of (address, byte) writes, a later one winning. -/
def written (bs : List (Nat × Byte)) (old : Byte) (a : Nat) : Byte := ((bs.reverse.find? fun b => b.1 == a).map Prod.snd).getD old

/-- The rule for stored bytes: the memory holds `bs` at their addresses, every other byte of every memory is unchanged. -/
def stores (before after : Ram) (mem : Nat) (bs : List (Nat × Byte)) : Prop :=
  ∀ m a, m < 5 → after.get m a = if m = mem then written bs (before.get m a) a else before.get m a

/-- The rule of R371 for granule poison: a granule with a poisoned byte stored is poisoned, one stored whole without is clean,
every other keeps what it had. -/
def storesPoison (before after : Ram) (mem : Nat) (bs : List (Nat × Byte)) (pois : List Nat) : Prop :=
  ∀ m g, m < 2 → after.poisoned m g =
    if m = mem ∧ pois.any (fun a => a / 16 == g) = true then true
    else if m = mem ∧ (List.range 16).all (fun j => bs.any fun b => b.1 == 16 * g + j) = true then false
    else before.poisoned m g

/-- No granule poison changes. -/
def keepsPoison (before after : Ram) : Prop := after.wsP = before.wsP ∧ after.asP = before.asP

-- Commands that raise errors --------------------------------------------------------------------------------------------------

/-- A chain of error records for a descriptor, or for none (R612, R613). -/
def raised (codes : List (W16 × W32)) (who : Option (Nat × Nat × W16)) : Ev := .chain codes who false []

/-- The state a command leaves that changes the units to `d` and raises `evs`, in that order: their records enter the error
record queue (R612), ERRQ_PEND and the interrupt lines follow (R539, R540), a first fatal error or the entry of the safe state
has its consequences (R608, R629). Timebase, SRAMs and queue are unchanged. -/
def State.after (s : State) (d : Dev) (evs : List Ev) : State := commitWork s { s.work with d := d, ev := evs.reverse }

/-- The state in which the units are as a working copy has them and everything else is the same. -/
def State.withPt (s : State) (pt : Pt) : State := s.withDev { s.dev with pt := pt }

/-- The streams with the one of its engine and slot replaced. -/
def Pt.putStream (pt : Pt) (x : PtStream) : Pt :=
  { pt with streams := pt.streams.map fun y => if y.port = x.port ∧ y.slot = x.slot then x else y }
/-- The streams without the one of its engine and slot. -/
def Pt.endStream (pt : Pt) (x : PtStream) : Pt :=
  { pt with streams := pt.streams.filter fun y => !(y.port == x.port && y.slot == x.slot) }

/-- Every core a running step has is released by its end: threads ended, queues empty, no step (R178). -/
def released (k : Core) : Bool := k.cur.isNone && k.queue.isEmpty && k.mmas.isEmpty && k.threads.all fun t => t.st == .ended

-- Calipers ------------------------------------------------------------------------------------------------------------------------

/-- Core `p` stands at a step boundary: it holds no step, or one that has ended on it (R42, R175, R465). -/
def Core.atBoundary (k : Core) : Bool := match k.cur with
  | some c => c.ended
  | none => true

/-- The state once a trim has taken effect on a core: the probe count starts again, confirm-all mode ends but for a core at its
limit, nothing is pending, and the change is counted (R464, R465, R467). -/
def State.retrimmed (s : State) (p t : Nat) : State :=
  let k := s.core p
  let d := (s.withCore p { k with cal := { k.cal with trim := t, pend := none, probes := 0, confirmAll := k.cal.limit } }).dev
  s.withDev { d with cal := { d.cal with
    longer := (if k.cal.trim < t then min 65535 (d.cal.longer + 1) else d.cal.longer),
    shorter := (if t < k.cal.trim then min 65535 (d.cal.shorter + 1) else d.cal.shorter) } }

-- Peer ports ------------------------------------------------------------------------------------------------------------------------

/-- The state in which the peer ports are `x` and everything else is the same. -/
def State.withPeer (s : State) (x : Peer) : State := s.withDev { s.dev with peer := x }

/-- A frame of a type that the rules of R545, R553 to R555 and R560 let a link accept, with its header. -/
def State.receives (s : State) (link typ : Nat) (fr : RxFrame) (h : Hdr) : Bool :=
  s.acts && decide (s.work.judge link fr = .accept h) && decide (h.typ = typ)

/-- The peer ports once a frame is accepted: the link is not silent towards its sender, a block of the pairing (R569), its SEQ is
among those seen, of which the 256 below the highest are kept (R554). -/
def Peer.heard (x : Peer) (link : Nat) (h : Hdr) : Peer :=
  let r := tabGet RxSeq.init x.rxSeq (link * 4 + h.src)
  let top := if r.some? then max r.top h.seq else h.seq
  { x with
    up := tabSet false x.up (4 * link + h.src) true
    mute := tabSet false x.mute (4 * link + h.src) false
    rxSeq := tabSet RxSeq.init x.rxSeq (link * 4 + h.src) ⟨true, top, h.seq :: r.seen.filter fun q => decide (top ≤ q + 256)⟩ }

/-- A working copy of the state with other units, as the functions that queue frames take one. -/
def State.workOn (s : State) (d : Dev) : Work := { s.work with d := d }

/-- The state in which a frame more is queued, on one link or on both (R546, R551, R554). -/
def State.sending (s : State) (x : Peer) (link dst typ : Nat) (a : FrameArgs) (payload : List Byte) : State :=
  s.withDev ((s.workOn { s.dev with peer := x }).send link dst typ a payload).d
def State.sendingBoth (s : State) (x : Peer) (dst typ : Nat) (a : FrameArgs) (payload : List Byte) : State :=
  s.withDev ((s.workOn { s.dev with peer := x }).sendBoth dst typ a payload).d

/-- What is known of a position. -/
def Peer.at (x : Peer) (b : Nat) : PeerPos := tabGet PeerPos.init x.pos b
def Peer.putAt (x : Peer) (b : Nat) (y : PeerPos) : Peer := { x with pos := tabSet PeerPos.init x.pos b y }

-- Descriptors ------------------------------------------------------------------------------------------------------------------------

/-- The descriptor rows: ring, opcode (R505) and, of MGMT (40h), function (R516, R772). -/
def descCommand : Instr → Option (Nat × Nat × Nat)
  | .step r => some (r, 0x01, 0)
  | .chunk r => some (r, 0x02, 0)
  | .biwin r => some (r, 0x03, 0)
  | .bind r => some (r, 0x10, 0)
  | .release r => some (r, 0x11, 0)
  | .fill r => some (r, 0x12, 0)
  | .spill r => some (r, 0x13, 0)
  | .wload r => some (r, 0x20, 0)
  | .tload r => some (r, 0x21, 0)
  | .tfence r => some (r, 0x22, 0)
  | .fence r => some (r, 0x30, 0)
  | .kill r => some (r, 0x31, 0)
  | .nop r => some (r, 0x3F, 0)
  | .tableRead r => some (r, 0x40, 1)
  | .streamDrift r => some (r, 0x40, 2)
  | .streamRestore r => some (r, 0x40, 3)
  | .winCounts r => some (r, 0x40, 4)
  | .challenge r => some (r, 0x40, 0x100)
  | .auth r => some (r, 0x40, 0x101)
  | .close r => some (r, 0x40, 0x102)
  | .attest r => some (r, 0x40, 0x103)
  | .propose r => some (r, 0x40, 0x104)
  | .countersign r => some (r, 0x40, 0x105)
  | .withdraw r => some (r, 0x40, 0x106)
  | .perfRead r => some (r, 0x40, 0x107)
  | .retireRead r => some (r, 0x40, 0x200)
  | .retire r => some (r, 0x40, 0x201)
  | .castRegion r => some (r, 0x40, 0x202)
  | _ => none

/-- Is it a descriptor of the row? -/
def descMatches (opc func : Nat) (d : List Byte) : Bool := dOpc d == opc && (opc != 0x40 || dFunc d == func)

/-- Descriptor `q` is the next of ring `r` and may begin: the block runs and does not quiesce (R643), no FENCE of the ring waits
(R531), no KILL of its job awaits its ledger entry (log entry 108), a STEP has its batch list (R509) and steps are not halted, and
its completion ring has a free entry that no begun descriptor has reserved (R520). -/
def State.mayStart (s : State) (r : Nat) (q : QDesc) : Bool :=
  let w := s.work
  let k := fld (s.dev.cfgW (0x1008 + 32 * r)) 16 6
  let n := 2 ^ fld (s.dev.cfgW (0x2008 + 16 * k)) 0 4
  s.acts && decide ((w.sq r).queue.head? = some q) && decide (s.dev.boot.state = 6) && s.dev.sec.quiesce.isNone &&
    !(isStepOpc (dOpc q.desc) && s.dev.rings.halted) && !w.killHeld (dJob q.desc) && !(s.dev.rings.execs.any fun e => e.ring == r && isFence e) &&
    (dOpc q.desc != 1 || q.batch.isSome) && decide ((w.cq k).reserved < n - 1 - (((w.cq k).tail + n - (w.cq k).chead) % n)) &&
    (w.exec? r q.seq).isNone

/-- The record of a descriptor as it begins: B fields sampled, the session's role and credential (R22, R629). -/
def State.begunExec (s : State) (r : Nat) (q : QDesc) : Exec :=
  { Exec.fresh r q.seq q.desc s.dev.rings.nextOrder s.dev.rings.fences (fld (s.dev.cfgW 0x400) 4 4) with
    redun := s.work.redundant (dModel q.desc), role := ((s.work.session r).map Session.role).getD 0, cred := ((s.work.session r).map Session.cred).getD 15 }

/-- Its deadline has not passed, and its ring's session allows it (R510, R630). -/
def State.begins (s : State) (r : Nat) (q : QDesc) : Bool :=
  s.mayStart r q && decide (s.work.roleCheck r q.desc = 0) && !(s.begunExec r q).passed s.tb

/-- The units without the ring's next descriptor. -/
def State.popped (s : State) (r : Nat) : Dev :=
  { s.dev with rings := { s.dev.rings with
      sq := tabSet SqRing.init s.dev.rings.sq r { s.work.sq r with queue := (s.work.sq r).queue.drop 1 } } }

/-- The units once it has begun and its record has become `e`: it has left the queue and reserved a completion entry (R520). -/
def State.begun (s : State) (r : Nat) (e : Exec) : Dev :=
  let k := fld (s.dev.cfgW (0x1008 + 32 * r)) 16 6
  let d := s.popped r
  { d with rings := { d.rings with
      execs := d.rings.execs ++ [e], nextOrder := d.rings.nextOrder + 1,
      cq := tabSet CqRing.init d.rings.cq k { s.work.cq k with reserved := (s.work.cq k).reserved + 1 } } }

/-- In state `u` the descriptor has its outcome: its record follows once its effects are accepted (R521). -/
def State.completes (u : State) (r seq : Nat) (o : Outc) : Prop :=
  ∃ x, u.work.exec? r seq = some x ∧ x.out = o ∧ (x.ph = .effects ∨ x.ph = .record)

/-- The two states differ in rings, begun descriptors and port requests only. -/
def State.onlyRings (s u : State) : Prop := u = s.withDev { s.dev with rings := u.dev.rings, ports := u.dev.ports }

/-- In state `u` the ledger entry `it` is on its way, and but for it only rings and port requests differ (R644 to R646). -/
def State.asksLedger (s u : State) (it : LedItem) : Prop :=
  u = s.withDev { s.dev with
    rings := u.dev.rings
    ports := u.dev.ports
    led := { s.dev.led with
      items := [it], entry := some (ledgerBytes s.dev.led.seq s.tb.now.toNat it s.dev.led.head), accepted := false } } ∧
  ∃ q ∈ u.dev.ports.cands, q.user = .ledger ∧ q.isWrite = true

/-- A ledger is configured, has taken its first entry, and waits for none (R645, R690). -/
def State.ledgerReady (s : State) : Bool :=
  s.work.ledgerOn && decide (s.dev.led.seq ≠ 0) && s.dev.led.items.isEmpty && s.dev.led.entry.isNone

-- Vector results ------------------------------------------------------------------------------------------------------------

/-- The rule of R182 for a destination vector register: active lanes take `f`, masked-off lanes below VL become clean +0 where
MZ is set, all other lanes, all other registers and the mask registers keep what they held. -/
def lanesWritten (before after : VecState) (vl : Nat) (me mz : Bool) (msk vd : Nat) (f : Nat → W32 × Bool) : Prop :=
  after.m = before.m ∧ ∀ r l, l < 64 →
    (after.lane r l, after.poisoned r l) =
      if r = vd ∧ laneActive before vl me msk l = true then f l
      else if r = vd ∧ mz = true ∧ l < vl then (0, false)
      else (before.lane r l, before.poisoned r l)

/-- The rule of R182 and R188 for a destination mask register. -/
def maskWritten (before after : VecState) (vl : Nat) (me mz : Bool) (msk md : Nat) (f : Nat → Bool) : Prop :=
  after.v = before.v ∧ after.p = before.p ∧ ∀ r l, l < 64 →
    (after.mask r).getLsbD l =
      if r = md ∧ laneActive before vl me msk l = true then f l
      else if r = md ∧ mz = true ∧ l < vl then false
      else (before.mask r).getLsbD l

/-- The flags of several operations together. -/
def flagsOver (fs : List Flags) : Flags := ⟨fs.any Flags.nv, fs.any Flags.ovf, fs.any Flags.uf⟩

/-- The active lanes in ascending order (R181). -/
def active (vs : VecState) (vl : Nat) (me : Bool) (msk : Nat) : List Nat := (List.range 64).filter (laneActive vs vl me msk)

-- The step-program rows as the statements group them ---------------------------------------------------------------------------

/-- Two-source operations of R187: the row with its operation on one lane. -/
def Row.binOp : Row → Option (W32 → W32 → W32 × Flags)
  | .fadd => some f32Add
  | .fsub => some f32Sub
  | .fmul => some f32Mul
  | .fmin => some fun a b => (f32MinMax false a b, Flags.none)
  | .fmax => some fun a b => (f32MinMax true a b, Flags.none)
  | .fsgnj => some fun a b => (f32Sgnj a b, Flags.none)
  | .iadd => some fun a b => sat32 (a.toInt + b.toInt)
  | .isub => some fun a b => sat32 (a.toInt - b.toInt)
  | .imul => some fun a b => sat32 (a.toInt * b.toInt)
  | .imin => some fun a b => (if a.toInt < b.toInt then a else b, Flags.none)
  | .imax => some fun a b => (if a.toInt < b.toInt then b else a, Flags.none)
  | .vand => some fun a b => (a &&& b, Flags.none)
  | .vor => some fun a b => (a ||| b, Flags.none)
  | .vxor => some fun a b => (a ^^^ b, Flags.none)
  | .vsll => some fun a b => (a <<< (b.toNat % 32), Flags.none)
  | .vsrl => some fun a b => (a >>> (b.toNat % 32), Flags.none)
  | .vsra => some fun a b => (a.sshiftRight (b.toNat % 32), Flags.none)
  | _ => none

/-- One-source operations of R189 but LANEID. -/
def Row.unOp : Row → Option (W32 → W32 × Flags)
  | .fcvti => some fun a => (ofInt32 (f32ToInt 32 a).1, (f32ToInt 32 a).2)
  | .icvtf => some fun a => (intToF32 a.toInt, Flags.none)
  | .fabs => some fun a => (a &&& 0x7FFFFFFF, Flags.none)
  | .fneg => some fun a => (a ^^^ 0x80000000, Flags.none)
  | .vmov => some fun a => (a, Flags.none)
  | _ => none

/-- Comparisons of R187: a float comparison with a NaN operand yields 0 (R188). -/
def Row.cmpOp : Row → Option (W32 → W32 → Bool)
  | .fcmplt => some (f32Cmp true false)
  | .fcmple => some (f32Cmp true true)
  | .fcmpeq => some (f32Cmp false true)
  | .icmplt => some fun a b => decide (a.toInt < b.toInt)
  | .icmpeq => some fun a b => decide (a = b)
  | _ => none

/-- Mask logic of R190. -/
def Row.maskLogic : Row → Option (Bool → Bool → Bool)
  | .mand => some fun a b => a && b
  | .mor => some fun a b => a || b
  | .mandn => some fun a b => a && !b
  | .mxor => some fun a b => xor a b
  | .mnot => some fun a _ => !a
  | .mset => some fun _ _ => true
  | .mclr => some fun _ _ => false
  | _ => none

/-- The result of a reduction over the values of the active lanes in ascending order (R192, R193), with its flags. -/
def Row.reduction (row : Row) (xs : List W32) : Option (W32 × Flags) :=
  let fold := fun (op : W32 → W32 → W32 × Flags) (start : W32) =>
    xs.foldl (fun (a : W32 × Flags) x => ((op a.1 x).1, Flags.or a.2 (op a.1 x).2)) (start, Flags.none)
  let best := fun (op : W32 → W32 → W32) (none : W32) => (xs.foldl op ((xs.head?.map fun x => op x x).getD none), Flags.none)
  match row with
  | .rfsum => some (fold f32Add 0)
  | .rfmax => some (best (f32MinMax true) 0xFF800000)
  | .rfmin => some (best (f32MinMax false) 0x7F800000)
  | .risum => some (fold (fun a b => sat32 (a.toInt + b.toInt)) 0)
  | .rimax => some (best (fun a b => if a.toInt < b.toInt then b else a) 0x80000000)
  | .rimin => some (best (fun a b => if a.toInt < b.toInt then a else b) 0x7FFFFFFF)
  | _ => none

/-- The VOP rows: the command's row, core and thread. -/
def vopCommand : Instr → Option (Row × Nat × Nat)
  | .fadd p t => some (.fadd, p, t)
  | .fsub p t => some (.fsub, p, t)
  | .fmul p t => some (.fmul, p, t)
  | .fma p t => some (.fma, p, t)
  | .fnma p t => some (.fnma, p, t)
  | .fmin p t => some (.fmin, p, t)
  | .fmax p t => some (.fmax, p, t)
  | .fsgnj p t => some (.fsgnj, p, t)
  | .iadd p t => some (.iadd, p, t)
  | .isub p t => some (.isub, p, t)
  | .imul p t => some (.imul, p, t)
  | .imin p t => some (.imin, p, t)
  | .imax p t => some (.imax, p, t)
  | .vand p t => some (.vand, p, t)
  | .vor p t => some (.vor, p, t)
  | .vxor p t => some (.vxor, p, t)
  | .vsll p t => some (.vsll, p, t)
  | .vsrl p t => some (.vsrl, p, t)
  | .vsra p t => some (.vsra, p, t)
  | .fcmplt p t => some (.fcmplt, p, t)
  | .fcmple p t => some (.fcmple, p, t)
  | .fcmpeq p t => some (.fcmpeq, p, t)
  | .icmplt p t => some (.icmplt, p, t)
  | .icmpeq p t => some (.icmpeq, p, t)
  | .fcvti p t => some (.fcvti, p, t)
  | .icvtf p t => some (.icvtf, p, t)
  | .fabs p t => some (.fabs, p, t)
  | .fneg p t => some (.fneg, p, t)
  | .vmov p t => some (.vmov, p, t)
  | .reduceFsum p t => some (.rfsum, p, t)
  | .reduceFmax p t => some (.rfmax, p, t)
  | .reduceFmin p t => some (.rfmin, p, t)
  | .reduceIsum p t => some (.risum, p, t)
  | .reduceImax p t => some (.rimax, p, t)
  | .reduceImin p t => some (.rimin, p, t)
  | .mand p t => some (.mand, p, t)
  | .mor p t => some (.mor, p, t)
  | .mandn p t => some (.mandn, p, t)
  | .mxor p t => some (.mxor, p, t)
  | .mnot p t => some (.mnot, p, t)
  | .mset p t => some (.mset, p, t)
  | .mclr p t => some (.mclr, p, t)
  | _ => none

end Sys2Proof.Machine
end

