-- ==== Sys2Proof/Certificates/Slice0/Obligations.lean ====
section
/-! DEFINITION. The statements for the provers. A statement about a command that completes gives the next state; where the next
state is given by an equation, everything the equation does not name is unchanged. -/

-- Declarations are elaborated one after another: side by side, each would hold a thread and its stack.
set_option Elab.async false

open Sys2Proof Sys2Proof.Machine

-- Vector arithmetic -------------------------------------------------------------------------------------------------------------

/-- The lane arithmetic. FADD, FSUB, FMUL, FMIN, FMAX, FSGNJ, IADD, ISUB, IMUL, IMIN, IMAX, AND, OR, XOR, SLL, SRL, SRA: an issued
one completes. The destination register is written as R182 gives, each lane with the row's operation on the lanes of VS1 and VS2;
a lane is poisoned when a source lane is; the active lanes' flags join XFLAGS and the report (R184, R171); the thread goes on at
the next word, the issue is counted, and nothing else changes. FCVTI, ICVTF, FABS, FNEG, VMOV: the same with the operation of R189
on VS1. FMA, FNMA: the same with vs1 * vs2 + vd or -(vs1 * vs2) + vd rounded once, and three sources.
Of the model: log entries 21, 99. -/
def Obligations.VectorArithmetic : Prop :=
  ∀ (p t word : Nat) (s : State),
    let k := s.core p
    let v := vopFields word
    let vl := (s.thread p t).vl
    let writes := fun (i : Instr) (row : Row) (res : Nat → W32 × Flags) (bad : Nat → Bool) =>
      ∃ vec, exec i s = .next (s.withCore p { k.advanced row t with
            vec := vec
            flags := k.flags.record (flagsOver ((active k.vec vl v.me v.msk).map fun l => (res l).2)) }) ∧
        lanesWritten k.vec vec vl v.me v.mz v.msk v.vd fun l => ((res l).1, bad l)
    (∀ (i : Instr) (row : Row) (op : W32 → W32 → W32 × Flags),
      vopCommand i = some (row, p, t) → row.binOp = some op → s.issues p t row word = true →
      writes i row (fun l => op (k.vec.lane v.vs1 l) (k.vec.lane v.vs2 l))
        fun l => k.vec.poisoned v.vs1 l || k.vec.poisoned v.vs2 l) ∧
    (∀ (i : Instr) (row : Row) (op : W32 → W32 × Flags),
      vopCommand i = some (row, p, t) → row.unOp = some op → s.issues p t row word = true →
      writes i row (fun l => op (k.vec.lane v.vs1 l)) fun l => k.vec.poisoned v.vs1 l) ∧
    (∀ neg : Bool, s.issues p t (if neg then .fnma else .fma) word = true →
      writes (if neg then .fnma p t else .fma p t) (if neg then .fnma else .fma)
        (fun l => f32Fma neg (k.vec.lane v.vs1 l) (k.vec.lane v.vs2 l) (k.vec.lane v.vd l))
        fun l => k.vec.poisoned v.vs1 l || k.vec.poisoned v.vs2 l || k.vec.poisoned v.vd l)

/-- LANEID, VSPLAT, VSEL: LANEID writes the lane number and VSPLAT the scalar's bits, both clean, in the active lanes; VSEL
writes every lane below VL, whatever ME and MZ hold, from VS1 where its bit of MSK is set and from VS2 where it is not, with the
poison of the lane taken. No flag changes. Of the model: log entry 21. -/
def Obligations.VectorPlacement : Prop :=
  ∀ (p t word : Nat) (s : State),
    let k := s.core p
    let v := vopFields word
    let vl := (s.thread p t).vl
    let x := (s.thread p t).reg v.vs1
    let pick := fun l => if (k.vec.mask v.msk).getLsbD l then v.vs1 else v.vs2
    (s.issues p t .laneid word = true →
      ∃ vec, exec (.laneid p t) s = .next (s.withCore p { k.advanced .laneid t with vec := vec }) ∧
        lanesWritten k.vec vec vl v.me v.mz v.msk v.vd fun l => (BitVec.ofNat 32 l, false)) ∧
    (s.issues p t .vsplat word = true →
      ∃ vec, exec (.vsplat p t) s = .next (s.withCore p { k.advanced .vsplat t with vec := vec }) ∧
        lanesWritten k.vec vec vl v.me v.mz v.msk v.vd fun _ => (x, false)) ∧
    (s.issues p t .vsel word = true →
      ∃ vec, exec (.vsel p t) s = .next (s.withCore p { k.advanced .vsel t with vec := vec }) ∧
        lanesWritten k.vec vec vl false false 0 v.vd fun l => (k.vec.lane (pick l) l, k.vec.poisoned (pick l) l))

/-- FCMPLT, FCMPLE, FCMPEQ, ICMPLT, ICMPEQ: an issued one completes. Bit i of mask VD [2:0] is the comparison of lane i in the
active lanes, 0 in the masked-off lanes below VL where MZ is set, and kept elsewhere; no flag is set; PS sets when an active
lane reads a poisoned source (R170, R188).
MPOP and MFIRST write x[VD] with the number and with the lowest of the active lanes whose bit of mask VS1 [2:0] is set, 64 for
none (R192). MAND, MOR, MANDN, MXOR, MNOT, MSET, MCLR write the bits of mask VD below VL with the row's logic on masks VS1 and
VS2 (R190). Nothing else changes. Of the model: log entry 18. -/
def Obligations.VectorMasks : Prop :=
   (∀ (i : Instr) (row : Row) (p t word : Nat) (op : W32 → W32 → Bool) (s : State),
      vopCommand i = some (row, p, t) → row.cmpOp = some op → s.issues p t row word = true →
      let k := s.core p
      let v := vopFields word
      let vl := (s.thread p t).vl
      let bad := (active k.vec vl v.me v.msk).any fun l => k.vec.poisoned v.vs1 l || k.vec.poisoned v.vs2 l
      ∃ vec, exec i s = .next (s.withCore p { k.advanced row t with
            vec := vec
            flags := { k.flags with ps := k.flags.ps || bad } }) ∧
        maskWritten k.vec vec vl v.me v.mz v.msk (v.vd % 8) fun l => op (k.vec.lane v.vs1 l) (k.vec.lane v.vs2 l)) ∧
   (∀ (p t word : Nat) (s : State),
      let k := s.core p
      let v := vopFields word
      let th := s.thread p t
      let set := (active k.vec th.vl v.me v.msk).filter fun l => (k.vec.mask (v.vs1 % 8)).getLsbD l
      (s.issues p t .mpop word = true →
        exec (.mpop p t) s = .next (s.withCore p
          ((k.withThread t (th.setReg v.vd (BitVec.ofNat 32 set.length))).advanced .mpop t))) ∧
      (s.issues p t .mfirst word = true →
        exec (.mfirst p t) s = .next (s.withCore p
          ((k.withThread t (th.setReg v.vd (BitVec.ofNat 32 (set.headD 64)))).advanced .mfirst t))) ∧
      (∀ i row op, vopCommand i = some (row, p, t) → row.maskLogic = some op → s.issues p t row word = true →
        ∃ vec, exec i s = .next (s.withCore p { k.advanced row t with vec := vec }) ∧
          maskWritten k.vec vec th.vl false false 0 v.vd fun l =>
            op ((k.vec.mask v.vs1).getLsbD l) ((k.vec.mask v.vs2).getLsbD l)))

/-- REDUCE FSUM, FMAX, FMIN, ISUM, IMAX, IMIN: an issued one completes. x[VD] takes the row's reduction of the active lanes of
VS1 in ascending order (a write of x0 is discarded), its flags join XFLAGS and the report, PS sets when an active lane is
poisoned (R192 to R194); nothing else changes. That FMAX and FMIN set no flag, and give the canonical NaN where every active lane
is a NaN, is the model's choice (log entry 99). -/
def Obligations.VectorReduce : Prop :=
  ∀ (i : Instr) (row : Row) (p t word : Nat) (s : State) (r : W32 × Flags),
    vopCommand i = some (row, p, t) → s.issues p t row word = true →
    let k := s.core p
    let v := vopFields word
    let ls := active k.vec (s.thread p t).vl v.me v.msk
    let bad := ls.any fun l => k.vec.poisoned v.vs1 l
    row.reduction (ls.map fun l => k.vec.lane v.vs1 l) = some r →
    exec i s = .next (s.withCore p (({ k with flags := { k.flags.record r.2 with ps := k.flags.ps || bad } }.withThread t
      ((s.thread p t).setReg v.vd r.1)).advanced row t))

-- Function unit and memory engine ---------------------------------------------------------------------------------------------------

/-- VFN and VGACT on a slot whose active image is `b`: an issued one completes with the table's value of each active lane of
VS1, rounded once, or with VD times the table's exact value, rounded once (R232, R249); the poison of the sources, the
flags, the thread noted as last granted the function unit. A thread that the unit does not grant sleeps until it is (R224).
The unit grants, round-robin after the thread granted last, the first one whose instruction is for it. A shipped image is
monotone in the direction of R241 by the check R246 makes, and with it VFN EXP of a lane of +0 or -0 is 1.0 without a flag
(R243). A slot without an image is stated apart. Of the model: log entry 12. -/
def Obligations.FunctionLookup : Prop :=
  ∀ (p t word : Nat) (gate : Bool) (s : State) (c : Ctx) (b : List Byte),
    s.issues p t (if gate then .vgact else .vfn) word = true → s.ctx? p = some c →
    let k := s.core p
    let v := vopFields word
    let vl := (s.thread p t).vl
    let row : Row := if gate then .vgact else .vfn
    k.tables.active v.vs2 = some b →
    let x := fun l => lookup v.vs2 b (k.vec.lane v.vs1 l)
    let res := fun l => if gate then (x l).gate (k.vec.lane v.vd l) else (x l).round
    let ready := fun u => s.work.fuReady p c.img u = true
    -- the thread whose turn it is: no ready thread stands between the one granted last and it
    let turn := ∀ u, u < 8 → ready u → (t + 8 - (k.tables.lastFu + 1) % 8) % 8 ≤ (u + 8 - (k.tables.lastFu + 1) % 8) % 8
    (¬ turn → exec (if gate then .vgact p t else .vfn p t) s =
      .next (s.withCore p (k.withThread t { s.thread p t with st := .sleeping .fu }))) ∧
    (v.vs2 < 4 → b = shippedImage v.vs2 → builtinMonoOk v.vs2 b = true) ∧
    (v.vs2 = 0 → b = shippedImage 0 → ∀ l, (k.vec.lane v.vs1 l) &&& 0x7FFFFFFF = 0 →
      (x l).round = (0x3F800000, Flags.none)) ∧
    (turn → ∃ vec, exec (if gate then .vgact p t else .vfn p t) s = .next (s.withCore p { k.advanced row t with
          vec := vec
          flags := k.flags.record (flagsOver ((active k.vec vl v.me v.msk).map fun l => (res l).2))
          tables := { k.tables with lastFu := t } }) ∧
      lanesWritten k.vec vec vl v.me v.mz v.msk v.vd fun l =>
        ((res l).1, k.vec.poisoned v.vs1 l || (gate && k.vec.poisoned v.vd l)))

/-- VLD and VLDB (VLDB takes the one element at the address for every lane): where every active lane's element is aligned and lies
in the core's memory, within the declared lines of the activation store, or within a valid window of this block, the destination
takes the converted elements and their poison (R196 to R199, R359), a NaN that VLDB delivers canonical (R61); nothing else
changes.
Of the model: log entry 99. -/
def Obligations.VectorLoad : Prop :=
  ∀ (p t word : Nat) (bcast : Bool) (s : State) (c : Ctx),
    s.issues p t (if bcast then .vldb else .vld) word = true → s.ctx? p = some c →
    let k := s.core p
    let v := vmemFields word
    let th := s.thread p t
    let n := fmtWidth v.fmt
    let o := fun l => if bcast then 0 else l * n
    let ls := active k.vec th.vl v.me v.msk
    let canon := fun (w : W32) => if bcast = true ∧ v.fmt = 5 ∧ (f32v w).isNan = true then nan32 else w
    let completes := fun (f : Nat → W32 × Bool) =>
      ∃ vec, exec (if bcast then .vldb p t else .vld p t) s = .next (s.withCore p { k.advanced .vld t with vec := vec }) ∧
        lanesWritten k.vec vec th.vl v.me v.mz v.msk v.vd fun l => (canon (f l).1, (f l).2)
    (∀ m off, memAddr (th.reg v.rs1).toNat = .mem m off →
      (∀ l ∈ ls, (off + o l) % n = 0 ∧ off + o l + n ≤ memSize m ∧ (m = 1 → c.img.declared ((off + o l) / 64) 1 = true)) →
      completes fun l => (loadElem v.fmt (s.work.mreadN p m (off + o l) n), s.work.mpoisonN p m (off + o l) n)) ∧
    (∀ slot win off x, memAddr (th.reg v.rs1).toNat = .window 0 slot win off → c.window? slot win = some x →
      (∀ l ∈ ls, (off + o l) % n = 0 ∧ off + o l + n ≤ x.len * 64) →
      let q := c.coreOf slot
      let a := fun l => x.base * 64 + (off + o l)
      (x.mem = 2 → (s.core q).plinth.fmt = .promoted →
        completes fun l => (loadElem v.fmt (s.work.meshPlinth q (a l) n).1, (s.work.meshPlinth q (a l) n).2)) ∧
      (x.mem ≠ 2 →
        let m := if x.mem = 0 then 1 else 0
        completes fun l => (loadElem v.fmt (s.work.mreadN q m (a l) n), s.work.mpoisonN q m (a l) n)))

/-- VLDS and VRNG at a state address whose row lies in the step: VLDS takes the elements of the active half, or poisoned zeros for
an absent lane (R204, R306); VRNG the random words of the lane's stream and step (R209), both for elements within the stream's
state (R204). Nothing else changes.
Of the model: log entry 23. -/
def Obligations.VectorStateRead : Prop :=
  ∀ (p t word : Nat) (s : State) (c : Ctx),
    s.ctx? p = some c →
    let k := s.core p
    let v := vmemFields word
    let th := s.thread p t
    let a := (th.reg v.rs1).toNat
    let row := bitsOf a 24 8
    let l := c.laneOf row
    let x := s.work.ctx l.stream
    let pages := (s.work.sslot x.sslot).pagesOf x.half
    let place := fun i => elemAt c.m.layers 0 (bitsOf a 0 21 + i)
    bitsOf a 21 3 = 0 → row < c.len →
    (s.issues p t .vlds word = true → (∀ i ∈ active k.vec th.vl v.me v.msk, (place i).isSome = true) →
      ∃ vec, exec (.vlds p t) s = .next (s.withCore p { k.advanced .vlds t with vec := vec }) ∧
        lanesWritten k.vec vec th.vl v.me v.mz v.msk v.vd fun i =>
          let e := (place i).getD (0, 0)
          if l.ph = .absent then (0, true) else (loadElem e.1 (s.work.halfBytes pages e.2 (fmtWidth e.1)), false)) ∧
    (s.issues p t .vrng word = true → (∀ i ∈ active k.vec th.vl v.me v.msk, bitsOf a 0 21 + i < c.m.elems) →
      ∃ vec, exec (.vrng p t) s = .next (s.withCore p { k.advanced .vrng t with vec := vec }) ∧
        lanesWritten k.vec vec th.vl v.me v.mz v.msk v.vd fun i =>
          (BitVec.ofNat 32 (randomWord c.m.seed (c.stepIdx row) th.layer.toNat v.site 1 l.stream (bitsOf a 0 21 + i)), false))

/-- PRD and PWR on plinth row `a` of a slot the plinth has, in FMT 5 (binary32) or 6 (int32). PRD of a slot that does not
accumulate takes the row as R139 and R200 read it, with the row's poison and the flags of its roundings. PWR of a slot that is
FREE, PRELOADED or DONE writes the active lanes in promoted format; a slot that was FREE holds +0 elsewhere and becomes PRELOADED
(R139); the row is poisoned when an active lane is (R201), and with it the position of a CHUNK or BIWIN (R282, R325).
Of the model: log entries 11, 19, 22, 40, 105. -/
def Obligations.PlinthAccess : Prop :=
  ∀ (p t word : Nat) (s : State),
    let k := s.core p
    let v := vmemFields word
    let th := s.thread p t
    let a := (th.reg v.rs1).toNat
    let slot := a / 64
    let row := a % 64
    let sl := k.plinth.slot slot
    let kind : Kind := if v.fmt = 5 then .fp else .int
    let ls := active k.vec th.vl v.me v.msk
    a < 1024 → (v.fmt = 5 ∨ v.fmt = 6) →
    (s.issues p t .prd word = true → slot < k.plinth.fmt.slots → sl.st ≠ .accum →
      (sl.st = .free ∨ (k.plinth.fmt = .promoted ∧ sl.kind = kind) ∨ (k.plinth.fmt ≠ .promoted ∧ (v.fmt = 5 ∨ sl.kind = .int))) →
      let r := fun i => s.work.plRead p slot row i (v.fmt == 6)
      ∃ vec, exec (.prd p t) s = .next (s.withCore p { k.advanced .prd t with
            vec := vec
            flags := k.flags.record (flagsOver (ls.map fun i => (r i).2)) }) ∧
        lanesWritten k.vec vec th.vl v.me v.mz v.msk v.vd fun i => ((r i).1, sl.poison.getLsbD row)) ∧
    (s.issues p t .pwr word = true → (k.plinth.fmt = .promoted ∨ k.plinth.allFree = true) → k.locks.plinth = false →
      (sl.st = .free ∨ ((sl.st = .pre ∨ sl.st = .done) ∧ sl.kind = kind)) →
      let bs := ls.flatMap fun i => runFrom (p * 262144 + ((64 * slot + row) * 64 + i) * 4) (leBytes 4 (k.vec.lane v.vd i).toNat)
      let bad := (ls.any fun i => k.vec.poisoned v.vd i) = true
      let pz := if bad then sl.poison ||| BitVec.ofNat 64 (2 ^ row) else sl.poison
      let sl' : TileSlot := { sl with st := (if sl.st = .free then .pre else sl.st), kind := kind, poison := pz }
      let tags := if sl.st = .free then tabKeep (fun key => key / 4096 != slot) k.plinth.tags else k.plinth.tags
      let s' := s.withCore p { k.advanced .pwr t with
        plinth := PlinthState.setSlot { k.plinth with fmt := .promoted, tags := tags } slot sl' }
      ∃ r, exec (.pwr p t) s = .next ((s'.withRam r).withDev { s'.dev with
            rings := if bad then (s.work.poisonPosition p).d.rings else s.dev.rings }) ∧
        keepsPoison s.ram r ∧
        (∀ m b, m < 5 → r.get m b =
          if m = 2 then written bs (if sl.st = .free ∧ (b - p * 262144) / 16384 = slot ∧ p * 262144 ≤ b then 0 else s.ram.get 2 b) b
          else s.ram.get m b))

/-- VST of at least one lane. To the core's own activation store, where every lane is aligned, within the declared lines and not
locked: the converted bytes stand in the store, poison by granule (R371), the gather buffer takes the bytes (R341), the roundings'
flags join XFLAGS. To a window of this block, where its lines have room among the eight queued at the mesh port: one remote store
leaves with those bytes and the flits are counted (R360, R368); the sending core's memory is unchanged. Where they have none, the
thread sleeps.
VSTS at a state address of the step's own copy, the lane present: the converted elements stand in the inactive half, their
elements count as written (R205, R208, R321), the thread's digest folds them (R597), the roundings' flags join XFLAGS, and the
lane is poisoned when a stored lane is. The checker copy and an absent lane write nothing (R596, R306): they fold and flag only.
Of the model: log entries 25, 98, 99. -/
def Obligations.VectorStores : Prop :=
   (∀ (p t word : Nat) (s : State) (c : Ctx),
      s.issues p t .vst word = true → s.ctx? p = some c →
      let k := s.core p
      let v := vmemFields word
      let th := s.thread p t
      let n := fmtWidth v.fmt
      let ls := active k.vec th.vl v.me v.msk
      let row := fld th.ctx 24 8
      let sr := th.sr && decide (1 ≤ v.fmt) && decide (v.fmt ≤ 4)
      let conv := fun i => storeElem v.fmt (if sr then c.roundingAt th row v.site (fld th.ctx 0 21 + i) else .rne) (k.vec.lane v.vd i)
      let flags := k.flags.record (flagsOver (ls.map fun i => (conv i).2))
      let bs := fun off => ls.flatMap fun i => runFrom (off + i * n) (conv i).1
      let bad := fun off => (ls.filter fun i => k.vec.poisoned v.vd i).flatMap fun i => (List.range n).map fun j => off + i * n + j
      ls ≠ [] → (sr = true → row < c.len) →
      (∀ off, memAddr (th.reg v.rs1).toNat = .mem 1 off →
        (∀ i ∈ ls, (off + i * n) % n = 0 ∧ off + i * n + n ≤ 524288 ∧ c.img.declared ((off + i * n) / 64) 1 = true ∧
          k.lineLocked 1 ((off + i * n) / 64) = false) →
        ∃ r, exec (.vst p t) s = .next ((s.withRam r).withCore p { k.advanced .vst t with
              flags := flags
              gather := (k.gatherPut false (bs off) (bad off)).gather }) ∧
          stores s.ram r 1 (bs (p * 524288 + off)) ∧ storesPoison s.ram r 1 (bs (p * 524288 + off)) (bad (p * 524288 + off))) ∧
      (∀ slot win off, memAddr (th.reg v.rs1).toNat = .window 0 slot win off → (∀ i ∈ ls, (off + i * n) % n = 0) →
        let lines := ((bs off).map fun b => b.1 / 64).eraseDups
        let x : RStore :=
          { fromCore := p, toCore := (if slot < c.m.slots.length then c.coreOf slot else p), thread := t, ring := c.cur.ring,
            seq := c.cur.seq, checker := c.cur.checker, slot := slot, win := win, off := off, bytes := bs off, poison := bad off,
            hi := ((bs off).map fun b => b.1 + 1).foldl max 0, lines := lines, target := c.window? slot win,
            queued := lines.length }
        let k' := k.advanced .vst t
        let s' := s.withCore p { k' with flags := flags, perf := { k'.perf with flits := (k.perf.flits + lines.length) % 2 ^ 64 } }
        (8 < s.work.meshLines p + lines.length →
          exec (.vst p t) s = .next (s.withCore p (k.withThread t { th with st := .sleeping .mesh }))) ∧
        (s.work.meshLines p + lines.length ≤ 8 →
          exec (.vst p t) s = .next (s'.withDev { s'.dev with mesh := { s.dev.mesh with stores := s.dev.mesh.stores ++ [x] } })))) ∧
   (∀ (p t word : Nat) (s : State) (c : Ctx),
      s.issues p t .vsts word = true → s.ctx? p = some c →
      let k := s.core p
      let v := vmemFields word
      let th := s.thread p t
      let a := (th.reg v.rs1).toNat
      let row := bitsOf a 24 8
      let l := c.laneOf row
      let x := s.work.ctx l.stream
      let pages := (s.work.sslot x.sslot).pagesOf (!x.half)
      let ls := active k.vec th.vl v.me v.msk
      let place := fun i => (elemAt c.m.layers 0 (bitsOf a 0 21 + i)).getD (4, 0)
      let conv := fun i => storeElem (place i).1 (c.roundingAt th row 15 (bitsOf a 0 21 + i)) (k.vec.lane v.vd i)
      let th' := { th with digest := ls.foldl (fun d i => foldElem d (k.vec.lane v.vd i) (k.vec.poisoned v.vd i)) th.digest }
      let k' := ({ k with flags := k.flags.record (flagsOver (ls.map fun i => (conv i).2)) }.withThread t th').advanced .vsts t
      let s' := s.withCore p k'
      bitsOf a 21 3 = 0 → row < c.len → (∀ i ∈ ls, (elemAt c.m.layers 0 (bitsOf a 0 21 + i)).isSome = true) →
      ((c.cur.checker = true ∨ l.ph = .absent) → exec (.vsts p t) s = .next s') ∧
      (c.cur.checker = false → l.ph ≠ .absent →
        let li := if dOpc c.e.desc = 1 then row else 0
        let arm := { s.dev.arm with slots := tabMod SSlot.init s.dev.arm.slots x.sslot fun y =>
          { y with written := ls.foldl (fun w i => tabSet false w (bitsOf a 0 21 + i) true) y.written } }
        let rings := if (ls.any fun i => k.vec.poisoned v.vd i) = true then { s.dev.rings with
            execs := modFirst (isExec c.cur.ring c.cur.seq) (fun e => { e with lanes := setNth e.lanes li { l with poisoned := true } })
              s.dev.rings.execs } else s.dev.rings
        ∃ r, exec (.vsts p t) s = .next ((s'.withRam r).withDev { s'.dev with arm := arm, rings := rings }) ∧
          keepsPoison s.ram r ∧
          stores s.ram r 3 (ls.flatMap fun i => (conv i).1.zipIdx.map fun b => (halfAddr pages ((place i).2 + b.2), b.1))))

-- Matrix array and statistic unit -----------------------------------------------------------------------------------------------------

/-- XMMA, XCHAIN, XREL: a well-formed MMA command within its ranges joins the array queue while that holds fewer than four,
and waits with the 16 bytes read, its thread asleep, while it is full and a command computes or drains (R167, R211, R212);
XCHAIN opens a closed chain for 1 to 256 records (R143); XREL frees a PRELOADED or DONE slot with its tags and record, and
does nothing to a FREE one (R139). Of the model: log entries 29, 103. -/
def Obligations.ArrayIssue : Prop :=
  ∀ (p t word : Nat) (s : State) (c : Ctx),
    s.ctx? p = some c →
    let k := s.core p
    let th := s.thread p t
    let a := (th.reg (xFields word).rs1).toNat
    let b := (th.reg (xFields word).rs2).toNat
    (∀ bs m, s.issues p t .xmma word = true → a % 16 = 0 → dmem c.img k.scratch a 16 = some bs → mmaOf t bs = some m →
      m.formatOk = true → m.rangeOk c.img = true →
      (k.queue.length < 4 →
        exec (.xmma p t) s = .next (s.withCore p { k.advanced .xmma t with queue := k.queue ++ [m] })) ∧
      (4 ≤ k.queue.length → k.mmas ≠ [] →
        exec (.xmma p t) s = .next (s.withCore p (k.withThread t { th with st := .sleeping (.queue bs) })))) ∧
    (s.issues p t .xchain word = true → a < 4 → 1 ≤ b → b ≤ 256 → (k.plinth.chain a).isOpen = false →
      exec (.xchain p t) s = .next (s.withCore p { k.advanced .xchain t with
        plinth := k.plinth.setChain a ⟨b, 0, true, [], [], [], []⟩ })) ∧
    (s.issues p t .xrel word = true → a < 16 →
      ((k.plinth.slot a).st = .free → exec (.xrel p t) s = .next (s.withCore p (k.advanced .xrel t))) ∧
      ((k.plinth.slot a).st = .pre ∨ (k.plinth.slot a).st = .done →
        exec (.xrel p t) s = .next (s.withCore p { k.advanced .xrel t with
          plinth := { k.plinth.setSlot a TileSlot.init with tags := tabKeep (fun key => key / 4096 != a) k.plinth.tags } })))

/-- MMA_COMPUTE_START completes. With no command waiting for chain lines, and a head whose slots may take it (R139, R117, R115), the
head leaves the queue for the array: its slots accumulate in its format and kind with the length counted, its beats are counted
(R110, R125, R663). A head that reads its weights from the weight store leaves in every valid element what the promotions of its
products give (R81 to R88), from +0 where the slot was FREE, marks the rows whose operands are poisoned (R130), and its flags join
XFLAGS (R127). One whose weights come over the sprue chain waits for its lines (R123): a slot that was FREE holds +0. Every other
slot, core and memory, and all else of the core, are unchanged; a row poisoned in a CHUNK or BIWIN poisons its position (R282,
R325). Without a command in the queue nothing changes. Of the model: log entries 7, 29, 40, 101, 105. -/
def Obligations.ArrayCompute : Prop :=
  ∀ (p : Nat) (s : State) (c : Ctx),
    s.acts = true → p < s.dev.cores.length → s.ctx? p = some c →
    let k := s.core p
    (k.queue = [] → exec (.mmaComputeStart p) s = .next s) ∧
    ∀ (m : Mma) (rest : List Mma),
      k.queue = m :: rest → k.computing = false → k.locks.plinth = false → m.slot + m.nrow < m.fmt.slots → m.vrows ≤ 64 →
      (k.plinth.fmt = m.fmt ∨ k.plinth.allFree = true) →
      (∀ i ∈ m.slots, let sl := k.plinth.slot i
        (sl.st = .free ∨ sl.kind = m.kind) ∧ (if m.first then sl.st = .free ∨ sl.st = .pre else sl.st = .accum) ∧
        (if m.first then 0 else sl.len) + m.klen ≤ 16777216) →
      let free := fun i => (k.plinth.slot i).st = .free
      let weight := fun q j => m.weightAt (fun i => (s.work.line p 0 (m.wbase + i)).1) q j
      let operand := fun r i q => leNat (s.work.mreadN p 1 (m.rowAt r i q).1 (m.rowAt r i q).2)
      let old := fun r i j => if free (m.slot + r) then 0 else s.work.plElem p m.fmt (m.slot + r) i j
      let result := fun r i j =>
        m.element (old r i j) ((List.range m.klen).map (operand r i)) ((List.range m.klen).map fun q => weight q j)
      let rows := fun r => if r = m.nrow then m.vrows else 64
      let wbad := ∃ i, i < m.weightLines ∧ (s.work.line p 0 (m.wbase + i)).2 = true
      let bad := fun r i => wbad ∨ (i < rows r ∧ ∃ q, q < m.klen ∧
        (s.work.mpoisonN p 1 (m.rowAt r i q).1 (m.rowAt r i q).2 = true ∨ rowMasked c.img k ((m.rowAt r i q).1 / 64) i = true))
      let spoilt := m.wsrc = false ∧ ∃ r i, r ≤ m.nrow ∧ i < 64 ∧ bad r i
      let flags := if m.wsrc then k.flags else k.flags.record (flagsOver ((List.range (m.nrow + 1)).flatMap fun r =>
        (List.range (rows r)).flatMap fun i => (List.range 64).map fun j => (result r i j).2.1))
      ∃ u, exec (.mmaComputeStart p) s = .next u ∧
        -- the units: this core, and the lanes of the step where a row is poisoned
        u = (s.withRam u.ram).withDev { (s.withCore p { k with
              queue := rest, mmas := k.mmas ++ [m], flags := flags, plinth := (u.core p).plinth,
              perf := { k.perf with mmaBeats := (k.perf.mmaBeats + m.beats) % 2 ^ 64 } }).dev with rings := u.dev.rings } ∧
        (spoilt → u.dev.rings = (s.work.poisonPosition p).d.rings) ∧ (¬ spoilt → u.dev.rings = s.dev.rings) ∧
        -- the slots
        (u.core p).plinth.fmt = m.fmt ∧ (u.core p).plinth.chains = k.plinth.chains ∧
        (∀ i, let sl := k.plinth.slot i
          let sl' := (u.core p).plinth.slot i
          if i ∈ m.slots then
            sl' = { sl with st := .accum, kind := m.kind, len := (if m.first then 0 else sl.len) + m.klen, poison := sl'.poison }
          else sl' = sl) ∧
        (∀ r i, r ≤ m.nrow → i < 64 → (((u.core p).plinth.slot (m.slot + r)).poison.getLsbD i = true ↔
          (k.plinth.slot (m.slot + r)).poison.getLsbD i = true ∨ (m.wsrc = false ∧ bad r i))) ∧
        -- the elements and the memories
        (∀ r i j, r ≤ m.nrow → i < rows r → j < 64 → m.wsrc = false →
          u.work.plElem p m.fmt (m.slot + r) i j = (result r i j).1 % 2 ^ (8 * m.fmt.bytes)) ∧
        (∀ r i j, r ≤ m.nrow → i < 64 → j < 64 → m.wsrc = true ∨ rows r ≤ i →
          u.work.plElem p m.fmt (m.slot + r) i j = old r i j) ∧
        (∀ x a, x < 5 → (x = 2 ∧ p * 262144 + elemOff m.fmt m.slot 0 0 ≤ a ∧
            a < p * 262144 + elemOff m.fmt (m.slot + m.nrow + 1) 0 0) ∨ u.ram.get x a = s.ram.get x a) ∧
        keepsPoison s.ram u.ram

/-- MMA_DRAIN_DONE: the oldest command leaves the array once it waits for no chain line; with FINAL its accumulating slots become
DONE (R124, R139); every other slot and everything else is unchanged. A thread of the core that runs rules a deadlock out. -/
def Obligations.ArrayDrain : Prop :=
  ∀ (p t : Nat) (s : State) (m : Mma) (rest : List Mma),
    s.acts = true → t < 8 → (s.thread p t).st = .running →
    let k := s.core p
    k.mmas = m :: rest → m.need = 0 →
    ∃ pl, exec (.mmaDrainDone p) s = .next (s.withCore p { k with mmas := rest, plinth := pl }) ∧
      pl.fmt = k.plinth.fmt ∧ pl.tags = k.plinth.tags ∧ pl.chains = k.plinth.chains ∧
      ∀ i, pl.slot i = if m.isFinal = true ∧ i ∈ m.slots ∧ (k.plinth.slot i).st = .accum
        then { k.plinth.slot i with st := .done } else k.plinth.slot i

/-- XTALLY on a DONE slot and TALLY_COMPUTE for the thread that slept on one: the slot's record holds count, mean and M2 of each
row over the first VCOLS columns with the row's poison (R145, R150), it is offered to the chain, HOLD holds the slot (R147), the
flags of the arithmetic join XFLAGS, and the thread goes on. XTALLY on an accumulating slot takes the ordinal and sleeps (R149). The
slot is one of the plinth's format. Of the model: log entries 27, 30, 106. -/
def Obligations.TallyRecords : Prop :=
  ∀ (p t word : Nat) (s : State) (f : TallyF),
    let k := s.core p
    let th := s.thread p t
    let ch := k.plinth.chain f.chain
    let sl := k.plinth.slot f.slot
    let rows := (List.range 64).map fun i =>
      tallyRow ((List.range f.vcols).map fun j => s.work.plReadF p f.slot i j) (sl.poison.getLsbD i)
    let flags := k.flags.record (flagsOver (rows.map Prod.snd))
    let tallied := fun (offered : List Nat) =>
      (k.plinth.setChain f.chain { ch with
        offered := offered, waiting := ch.waiting ++ [⟨f.ord, rows.map Prod.fst⟩],
        held := (if f.hold then ch.held ++ [f.slot] else ch.held) }).setSlot f.slot
          { sl with record := rows.map Prod.fst, st := (if f.hold then .held else .done) }
    tallyFields (th.reg (xFields word).rs1) = some f →
    (s.issues p t .xtally word = true → ch.takes f.ord = true → f.slot < k.plinth.fmt.slots →
      (sl.st = .done → ∃ pl, exec (.xtally p t) s = .next (s.withCore p { k.advanced .xtally t with
          flags := flags, plinth := pl }) ∧ pl.fmt = k.plinth.fmt ∧ pl.tags = k.plinth.tags ∧
          (∀ i, pl.slot i = (tallied (ch.offered ++ [f.ord])).slot i) ∧
          (∀ i, pl.chain i = (tallied (ch.offered ++ [f.ord])).chain i)) ∧
      (sl.st = .accum → k.mmas ≠ [] →
        exec (.xtally p t) s = .next (s.withCore p { k.withThread t { th with st := .sleeping (.tally f.slot) } with
          plinth := k.plinth.setChain f.chain { ch with offered := ch.offered ++ [f.ord] } }))) ∧
    (∀ c, s.acts = true → s.ctx? p = some c → th.st = .sleeping (.tally f.slot) → (s.work.tallying p f.slot).head? = some t →
      fetchAt c.img th.pc = some (word, 4) → sl.st = .done →
      exec (.tallyCompute p f.slot) s = .next (s.withCore p ({ k with flags := flags, plinth := tallied ch.offered }.withThread t
        { th with pc := th.pc + 4, st := .running })))

/-- CHAIN_MERGE of the record whose turn it is, in an open chain whose core has a running thread: the first record is taken over
row by row, a later one merged into the accumulator (R146) with the flags of the arithmetic; the last one closes the chain and
makes the slots it held DONE (R148). Of the model: log entry 28. -/
def Obligations.ChainMerges : Prop :=
  ∀ (p t chain : Nat) (s : State) (o : Offer),
    s.acts = true → t < 8 → (s.thread p t).st = .running →
    let k := s.core p
    let ch := k.plinth.chain chain
    ch.isOpen = true → ch.waiting.find? (fun x => x.ordinal == ch.merged) = some o →
    let merged := if ch.merged = 0 then o.rows.map fun r => (r, Flags.none)
      else (ch.acc.zip o.rows).map fun x => mergeRow x.1 x.2
    let last := ch.merged + 1 == ch.total
    ∃ pl, exec (.chainMerge p chain) s = .next
        (s.withCore p { k with flags := k.flags.record (flagsOver (merged.map Prod.snd)), plinth := pl }) ∧
      pl.fmt = k.plinth.fmt ∧ pl.tags = k.plinth.tags ∧
      (∀ i, pl.chain i = if i = chain then { ch with
          merged := ch.merged + 1, isOpen := !last, acc := merged.map Prod.fst,
          waiting := ch.waiting.filter (fun x => x.ordinal != o.ordinal), held := (if last then [] else ch.held) }
        else k.plinth.chain i) ∧
      (∀ i, pl.slot i = if last = true ∧ i ∈ ch.held ∧ (k.plinth.slot i).st = .held
        then { k.plinth.slot i with st := .done } else k.plinth.slot i)

/-- XSTOUT, XSTIN, XSTRD: XSTOUT writes a slot's record as three PSUM32 rows of 64 words at its line of the activation store, the
words of a poisoned row poisoned (R152); XSTIN offers 64 rows read back to an open chain that takes the ordinal; XSTRD of a closed
chain writes mean and variance (M2 over the count) of all 64 rows to VD and VD + 1, poisoned where the row is (R148), a NaN
canonical (R61). Of the model: log entries 27, 28, 103, 106. -/
def Obligations.StatisticTransfers : Prop :=
  ∀ (p t word : Nat) (s : State) (c : Ctx),
    s.ctx? p = some c →
    let k := s.core p
    let th := s.thread p t
    let x := xFields word
    let a := (th.reg x.rs1).toNat
    let b := th.reg x.rs2
    (∀ r, s.issues p t .xstout word = true → a < 16 → s.work.tallying p a = [] → (k.plinth.slot a).record = r → r ≠ [] →
      b.toNat + 12 ≤ 8192 → c.img.declared b.toNat 12 = true → (∀ l, k.lineLocked 1 l = false) →
      let base := p * 524288 + 64 * b.toNat
      ∃ m, exec (.xstout p t) s = .next ((s.withRam m).withCore p (k.advanced .xstout t)) ∧
        stores s.ram m 1 ((recordWords r).1.map fun z => (base + z.1, z.2)) ∧
        storesPoison s.ram m 1 ((recordWords r).1.map fun z => (base + z.1, z.2)) ((recordWords r).2.map fun z => base + z)) ∧
    (s.issues p t .xstin word = true → a + 12 ≤ 8192 → c.img.declared a 12 = true → fld b 16 16 = 0 → fld b 2 6 = 0 →
      (k.plinth.chain (fld b 0 2)).takes (fld b 8 8) = true →
      let rd := fun o => leNat (s.work.mreadN p 1 (64 * a + o) 4)
      let pz := fun o => s.work.mpoisonN p 1 (64 * a + o) 4
      let rows := (List.range 64).map fun i =>
        (⟨signExt 32 (rd (4 * i)), BitVec.ofNat 32 (rd (256 + 4 * i)), BitVec.ofNat 32 (rd (512 + 4 * i)),
          pz (4 * i) || pz (256 + 4 * i) || pz (512 + 4 * i)⟩ : StatRow)
      let ch := k.plinth.chain (fld b 0 2)
      exec (.xstin p t) s = .next (s.withCore p { k.advanced .xstin t with
        plinth := k.plinth.setChain (fld b 0 2) { ch with
          offered := ch.offered ++ [fld b 8 8], waiting := ch.waiting ++ [⟨fld b 8 8, rows⟩] } })) ∧
    (s.issues p t .xstrd word = true → a < 4 → x.rd % 2 = 0 →
      let ch := k.plinth.chain a
      ch.total ≠ 0 → ch.isOpen = false → ch.acc.length = 64 →
      let row := fun i => nth ⟨0, 0, 0, false⟩ ch.acc i
      let mean := fun i => if (f32v (row i).mean).isNan = true then nan32 else (row i).mean
      let var := fun i => f32DivInt (row i).m2 (row i).n
      ∃ vec, exec (.xstrd p t) s = .next (s.withCore p { k.advanced .xstrd t with
          vec := vec, flags := k.flags.record (flagsOver ((List.range 64).map fun i => (var i).2)) }) ∧
        vec.m = k.vec.m ∧ ∀ r i, i < 64 → (vec.lane r i, vec.poisoned r i) =
          if r = x.rd then (mean i, (row i).poison) else if r = x.rd + 1 then ((var i).1, (row i).poison)
          else (k.vec.lane r i, k.vec.poisoned r i))

-- Threads and the control core ---------------------------------------------------------------------------------------------------------

/-- XSETVL, XCNT, XCSET, XSTART, XWAIT, XJOIN, XFENCE, XEND (R213, R174 to R177, R770): VL takes the smaller of the register and 64;
a counter is read or set; an ended thread starts as R173 gives; XWAIT, XJOIN and XFENCE complete or put the thread to sleep; the
gather buffer drains at XFENCE; XEND ends the thread. A thread that goes to sleep under XJOIN leaves another that runs, as one
that ends does: else the step may stand still, which is stated apart.
THREAD_WAKE of a thread of a running step whose wait has ended: after XWAIT, XJOIN and XFENCE it goes on at the next word;
after a wait for a slot, a chain, the mesh port or the function unit it executes its instruction again (R163); nothing else changes.
An XMMA that waited joins the queue as the 16 bytes it read were (R167, R212).
Of the model: log entry 104. -/
def Obligations.Threads : Prop :=
   (∀ (p t word : Nat) (s : State),
      let k := s.core p
      let th := s.thread p t
      let x := xFields word
      let a := th.reg x.rs1
      let b := th.reg x.rs2
      let n := min a.toNat 64
      let other := ∃ u, u < 8 ∧ u ≠ t ∧ (s.thread p u).st = .running
      (s.issues p t .xsetvl word = true → exec (.xsetvl p t) s = .next (s.withCore p
        ((k.withThread t ({ th with vl := n }.setReg x.rd (BitVec.ofNat 32 n))).advanced .xsetvl t))) ∧
      (s.issues p t .xcnt word = true → exec (.xcnt p t) s = .next (s.withCore p
        ((k.withThread t (th.setReg x.rd (k.counter (fld a 0 5)))).advanced .xcnt t))) ∧
      (s.issues p t .xcset word = true → exec (.xcset p t) s = .next (s.withCore p
        ((k.setCounter (fld a 0 5) b).advanced .xcset t))) ∧
      (s.issues p t .xstart word = true → fld a 0 3 < k.threads.length → (s.thread p (fld a 0 3)).st = .ended →
        exec (.xstart p t) s = .next (s.withCore p
          ((k.withThread (fld a 0 3) { Thread.init with
            pc := b.toNat, st := .running, digest := (s.thread p (fld a 0 3)).digest,
            tbHi := (s.thread p (fld a 0 3)).tbHi }).advanced .xstart t))) ∧
      (s.issues p t .xwait word = true →
        exec (.xwait p t) s = .next (s.withCore p
          (if b.toNat ≤ (k.counter (fld a 0 5)).toNat then k.advanced .xwait t
           else k.withThread t { th with st := .sleeping (.counter (fld a 0 5) b.toNat) }))) ∧
      (s.issues p t .xjoin word = true →
        ((∀ u, u < 8 → bitOf (fld a 0 8) u = true → u ≠ t → (s.thread p u).st = .ended) →
          exec (.xjoin p t) s = .next (s.withCore p (k.advanced .xjoin t))) ∧
        ((∃ u, u < 8 ∧ bitOf (fld a 0 8) u = true ∧ u ≠ t ∧ (s.thread p u).st ≠ .ended) → other →
          exec (.xjoin p t) s = .next (s.withCore p (k.withThread t { th with st := .sleeping (.threads (fld a 0 8)) })))) ∧
      (s.issues p t .xfence word = true →
        exec (.xfence p t) s = .next (s.withCore p
          (if s.work.fenceClear p t then { k.advanced .xfence t with gather := [] }
           else { k.withThread t { th with st := .sleeping .fence } with gather := [] }))) ∧
      (s.issues p t .xend word = true → (other ∨ (k.queue = [] ∧ ∀ u, u < 8 → u ≠ t → (s.thread p u).st = .ended)) →
        exec (.xend p t) s = .next (s.withCore p (k.withThread t { th with st := .ended, pc := th.pc + 4 })))) ∧
   (∀ (p t : Nat) (s : State) (c : Ctx) (why : Sleep),
      s.acts = true → t < (s.core p).threads.length → s.ctx? p = some c → c.e.ph = .run →
      let th := s.thread p t
      th.st = .sleeping why → s.work.awake p t why = true →
      let next := match why with
        | .counter _ _ => some (th.pc + 4)
        | .threads _ => some (th.pc + 4)
        | .fence => some (th.pc + 4)
        | .slot _ => some th.pc
        | .chain _ => some th.pc
        | .mesh => some th.pc
        | .fu => some th.pc
        | _ => none
      (∀ bs m, why = .queue bs → mmaOf t bs = some m → m.formatOk = true → m.rangeOk c.img = true →
        exec (.threadWake p t) s = .next (s.withCore p
          { (s.core p).withThread t { th with pc := th.pc + 4, st := .running } with queue := (s.core p).queue ++ [m] })) ∧
      ∀ pc, next = some pc → exec (.threadWake p t) s = .next (s.withCore p ((s.core p).withThread t { th with pc := pc, st := .running })))

/-- CSR_ACCESS: reading 0800h to 0804h and CC0h to CC4h gives VL, SR, CTX, LAYER, XFLAGS, XSTEP, XNSLOT, the timebase's halves and
the beat rate; CC2h latches the upper half for CC3h (R170). A CSR instruction writes rd with the old value; where it writes at all
(CSRRW, or a set or clear whose rs1 field is not zero), 0801h to 0804h take the new one (R171: the step's report is not touched). -/
def Obligations.CsrAccess : Prop :=
  ∀ (p t word : Nat) (s : State) (c : Ctx),
    s.issues p t .csr word = true → s.ctx? p = some c →
    let k := s.core p
    let th := s.thread p t
    let f3 := bitsOf word 12 3
    let rs1 := bitsOf word 15 5
    let rd := bitsOf word 7 5
    let csr := bitsOf word 20 12
    let src := if 4 ≤ f3 then BitVec.ofNat 32 rs1 else th.reg rs1
    let new := fun (old : W32) => if f3 % 4 = 1 then src else if f3 % 4 = 2 then old ||| src else old &&& ~~~src
    let wr := f3 % 4 = 1 ∨ rs1 ≠ 0
    let completes := fun (th' : Thread) (fl : XFlags) (old : W32) =>
      exec (.csrAccess p t) s = .next (s.withCore p (({ k with flags := fl }.withThread t (th'.setReg rd old)).advanced .csr t))
    (¬ wr →
      (csr = 0x800 → completes th k.flags (BitVec.ofNat 32 th.vl)) ∧
      (csr = 0xCC0 → completes th k.flags (BitVec.ofNat 32 (dOpc c.e.desc * 2 ^ 24 + dLen c.e.desc * 2 ^ 8 + c.cur.slot))) ∧
      (csr = 0xCC1 → completes th k.flags (BitVec.ofNat 32 c.m.slots.length)) ∧
      (csr = 0xCC2 → completes { th with tbHi := BitVec.ofNat 32 (s.tb.now.toNat / 2 ^ 32) } k.flags
        (BitVec.ofNat 32 s.tb.now.toNat)) ∧
      (csr = 0xCC3 → completes th k.flags th.tbHi) ∧
      (csr = 0xCC4 → completes th k.flags (s.dev.brate p))) ∧
    (csr = 0x801 → let old : W32 := if th.sr then 1 else 0
      completes (if wr then { th with sr := (new old).getLsbD 0 } else th) k.flags old) ∧
    (csr = 0x802 → completes (if wr then { th with ctx := new th.ctx &&& 0xFF1FFFFF } else th) k.flags th.ctx) ∧
    (csr = 0x803 → completes (if wr then { th with layer := (new (th.layer.setWidth 32)).setWidth 16 } else th) k.flags
      (th.layer.setWidth 32)) ∧
    (csr = 0x804 → let old := k.flags.word
      completes th (if wr then { k.flags with
        ps := (new old).getLsbD 3, cur := ⟨(new old).getLsbD 0, (new old).getLsbD 1, (new old).getLsbD 2⟩ } else k.flags) old)

/-- BASE_INSTRUCTION on the RV32IM words (R156, R161): LUI, AUIPC, JAL, JALR, a branch, a scalar load from the data memory,
a store to its scratch region, the immediate and register operations, FENCE. `i` is the core after an instruction that
writes `v` to rd and goes on at `pc`; nothing else changes. Where the control core and its shadow disagree, LOCKSTEP_FAIL is
raised and the step fails (R168, R169). Of the model: log entries 6, 20. -/
def Obligations.BaseInstructions : Prop :=
  ∀ (p t word : Nat) (s : State) (c : Ctx),
    s.issues p t .base word = true → s.ctx? p = some c →
    (let detail := BitVec.ofNat 32 (0x04 * 65536 + p * 256 + t)
     ∃ u, exec (.baseInstruction p t false) s = .next u ∧ u.completes c.cur.ring c.cur.seq ⟨0x8105, 0, detail⟩ ∧ u.log.err = true ∧
      u.ram = s.ram ∧ u.tb = s.tb) ∧
    let k := s.core p
    let th := s.thread p t
    let f3 := bitsOf word 12 3
    let f7 := bitsOf word 25 7
    let rd := bitsOf word 7 5
    let a := th.reg (bitsOf word 15 5)
    let b := th.reg (bitsOf word 20 5)
    let pc := BitVec.ofNat 32 th.pc
    let upper := BitVec.ofNat 32 (bitsOf word 12 20 * 4096)
    let i := fun (k : Core) (v : W32) (pc : Nat) => exec (.baseInstruction p t true) s =
      .next (s.withCore p (k.withThread t { th.setReg rd v with pc := pc }))
    let j := fun (pc : Nat) => exec (.baseInstruction p t true) s = .next (s.withCore p (k.withThread t { th with pc := pc }))
    let alu := fun (y : W32) (alt : Bool) =>
      (f3 = 0 → i k (if alt then a - y else a + y) (th.pc + 4)) ∧
      (f3 = 1 → i k (a <<< (y.toNat % 32)) (th.pc + 4)) ∧
      (f3 = 2 → i k (if a.toInt < y.toInt then 1 else 0) (th.pc + 4)) ∧
      (f3 = 3 → i k (if a.toNat < y.toNat then 1 else 0) (th.pc + 4)) ∧
      (f3 = 4 → i k (a ^^^ y) (th.pc + 4)) ∧
      (f3 = 5 → i k (if alt then a.sshiftRight (y.toNat % 32) else a >>> (y.toNat % 32)) (th.pc + 4)) ∧
      (f3 = 6 → i k (a ||| y) (th.pc + 4)) ∧
      (f3 = 7 → i k (a &&& y) (th.pc + 4))
    (bitsOf word 0 7 = 0x37 → i k upper (th.pc + 4)) ∧
    (bitsOf word 0 7 = 0x17 → i k (pc + upper) (th.pc + 4)) ∧
    (bitsOf word 0 7 = 0x6F → i k (BitVec.ofNat 32 (th.pc + 4)) (pc + immJ word).toNat) ∧
    (bitsOf word 0 7 = 0x67 → f3 = 0 → i k (BitVec.ofNat 32 (th.pc + 4)) ((a + immI word) &&& 0xFFFFFFFE).toNat) ∧
    (bitsOf word 0 7 = 0x63 →
      let goes := fun (cond : Prop) => (cond → j (pc + immB word).toNat) ∧ (¬ cond → j (th.pc + 4))
      (f3 = 0 → goes (a = b)) ∧ (f3 = 1 → goes (a ≠ b)) ∧ (f3 = 4 → goes (a.toInt < b.toInt)) ∧
      (f3 = 5 → goes (b.toInt ≤ a.toInt)) ∧ (f3 = 6 → goes (a.toNat < b.toNat)) ∧ (f3 = 7 → goes (b.toNat ≤ a.toNat))) ∧
    (bitsOf word 0 7 = 0x03 → ∀ bs,
      let addr := (a + immI word).toNat
      let from_ := fun n => addr % n = 0 ∧ dmem c.img k.scratch addr n = some bs
      (f3 = 0 → from_ 1 → i k (BitVec.ofInt 32 (signExt 8 (leNat bs))) (th.pc + 4)) ∧
      (f3 = 1 → from_ 2 → i k (BitVec.ofInt 32 (signExt 16 (leNat bs))) (th.pc + 4)) ∧
      (f3 = 2 → from_ 4 → i k (BitVec.ofNat 32 (leNat bs)) (th.pc + 4)) ∧
      (f3 = 4 → from_ 1 → i k (BitVec.ofNat 32 (leNat bs)) (th.pc + 4)) ∧
      (f3 = 5 → from_ 2 → i k (BitVec.ofNat 32 (leNat bs)) (th.pc + 4))) ∧
    (bitsOf word 0 7 = 0x23 → f3 < 3 →
      let addr := (a + immS word).toNat
      let base := c.img.consts.length
      addr % 2 ^ f3 = 0 → base ≤ addr → addr + 2 ^ f3 ≤ base + c.img.scratch →
      exec (.baseInstruction p t true) s = .next (s.withCore p
        ({ k with scratch := tabSetRun 0 k.scratch (addr - base) (leBytes (2 ^ f3) b.toNat) }.withThread t
          { th with pc := th.pc + 4 }))) ∧
    (bitsOf word 0 7 = 0x13 → (f3 = 1 → f7 = 0) → (f3 = 5 → f7 = 0 ∨ f7 = 0x20) →
      alu (immI word) (f3 == 5 && f7 == 0x20)) ∧
    (bitsOf word 0 7 = 0x33 → f7 = 0 → alu b false) ∧
    (bitsOf word 0 7 = 0x33 → f7 = 0x20 → (f3 = 0 ∨ f3 = 5) → alu b true) ∧
    (bitsOf word 0 7 = 0x33 → f7 = 1 →
      (f3 = 0 → i k (a * b) (th.pc + 4)) ∧
      (f3 = 1 → i k (BitVec.ofInt 32 (a.toInt * b.toInt / 2 ^ 32)) (th.pc + 4)) ∧
      (f3 = 2 → i k (BitVec.ofInt 32 (a.toInt * (b.toNat : Int) / 2 ^ 32)) (th.pc + 4)) ∧
      (f3 = 3 → i k (BitVec.ofNat 32 (a.toNat * b.toNat / 2 ^ 32)) (th.pc + 4)) ∧
      (f3 = 4 → i k (if b = 0 then 0xFFFFFFFF else a.sdiv b) (th.pc + 4)) ∧
      (f3 = 5 → i k (if b = 0 then 0xFFFFFFFF else a / b) (th.pc + 4)) ∧
      (f3 = 6 → i k (if b = 0 then a else a.srem b) (th.pc + 4)) ∧
      (f3 = 7 → i k (if b = 0 then a else a % b) (th.pc + 4))) ∧
    (bitsOf word 0 7 = 0x0F → f3 = 0 → j (th.pc + 4))

-- Pointing engines and mesh ------------------------------------------------------------------------------------------------------------

/-- FETCH, STORE, STAGE, RFREE, WOPEN, WCLOSE, named by an XPT at 32 readable bytes (R390, R391). FETCH and STORE that R394,
R396 and R351 let pass open a stream in the engine's lowest free slot with the slot's epoch, which then counts on (R388,
R425), or put the thread to sleep while no slot is free (R395), or no room at the chain's injection point for a FETCH that
uses the chain (R418); THREAD_WAKE then issues the command as its 32 bytes were read (R163, R390). A STORE's records fold
into the thread's digest, and the checker copy's only fold (R596, R597). STAGE copies lines and their poison into the weight
store (R414); RFREE moves a region's tail (R350); WOPEN and WCLOSE open and close a window (R357). Of the model: log entries
6, 36, 46, 103, 107. -/
def Obligations.PointingCommands : Prop :=
  ∀ (p t word : Nat) (s : State) (c : Ctx) (b : List Byte),
    s.ctx? p = some c →
    let k := s.core p
    let th := s.thread p t
    let a := (th.reg (xFields word).rs1).toNat
    let x := ptCmdOf (ptOpc b == 3) b
    let port := ptPort b
    let reg := bitsOf (word32 b 0) 12 4
    let count := bitsOf (word32 b 4) 0 14
    let win := bitsOf (word32 b 0) 0 5
    let src := s.work.storeRecords p x
    let folded := k.withThread t { th with digest := foldStore th.digest src }
    let opened := fun (k' : Core) (n : Nat) (src : List (List Byte × List Nat)) =>
      let key := 256 * port + n
      let ep := tabGet 0 s.dev.pt.epochs key
      let y : PtStream :=
        { port := port, slot := n, epoch := ep, order := s.dev.pt.order, core := p, thread := t, ring := c.cur.ring,
          seq := c.cur.seq, lslot := c.cur.slot, checker := c.cur.checker, cmd := x, idxs := s.work.indexWords p c x,
          idxReq := 0, fed := 0, lineQ := [], got := [], landed := 0, passes := 0, bad := [], dec := none, paid := false,
          src := src, carry := [] }
      (s.withCore p k').withPt { s.dev.pt with
        streams := s.dev.pt.streams ++ [y], order := s.dev.pt.order + 1,
        epochs := tabSet 0 s.dev.pt.epochs key ((ep + 1) % 16) }
    let sleeps := s.withCore p (k.withThread t { th with st := .sleeping (.engine port b) })
    let room := x.dest = 0 ∨ s.work.chainRoom = true
    (s.acts = true → t < 8 → c.e.ph = .run → th.st = .sleeping (.engine port b) →
      s.work.awake p t (.engine port b) = true → x.declaredOk c.img = true → x.rangeOk c.e.desc = true →
      ∀ n, s.work.freeStream port = some n →
        let go := fun (k : Core) (th : Thread) => k.withThread t { th with pc := th.pc + 4, st := .running }
        (ptOpc b = 2 → fetchFormatOk c b x = true → room → exec (.threadWake p t) s = .next (opened (go k th) n [])) ∧
        (ptOpc b = 3 → storeFormatOk c b x = true → c.cur.checker = false →
          exec (.threadWake p t) s = .next (opened (go k { th with digest := foldStore th.digest src }) n src))) ∧
    (s.issues p t .xpt word = true → a % 32 = 0 → dmem c.img k.scratch a 32 = some b →
    (ptOpc b = 2 → fetchFormatOk c b x = true → x.rangeOk c.e.desc = true → x.declaredOk c.img = true →
      (∀ n, room → s.work.freeStream port = some n → exec (.fetch p t) s = .next (opened (k.advanced .xpt t) n [])) ∧
      (¬ room ∨ s.work.freeStream port = none → exec (.fetch p t) s = .next sleeps)) ∧
    (ptOpc b = 3 → storeFormatOk c b x = true → x.rangeOk c.e.desc = true → x.declaredOk c.img = true →
      (c.cur.checker = true → exec (.store p t) s = .next (s.withCore p (folded.advanced .xpt t))) ∧
      (c.cur.checker = false →
        (∀ n, s.work.freeStream port = some n → exec (.store p t) s = .next (opened (folded.advanced .xpt t) n src)) ∧
        (s.work.freeStream port = none → exec (.store p t) s = .next sleeps))) ∧
    (ptOpc b = 4 → onlyFields b stageMasks = true →
      let from_ := bitsOf (word32 b 4) 0 13
      let dest := bitsOf (word32 b 8) 0 15
      let n := bitsOf (word32 b 12) 0 14
      let base := p * 1310720 + 64 * dest
      n ≠ 0 → n ≤ 8192 → from_ + n ≤ 8192 → dest + n ≤ 20480 → c.img.declared from_ n = true →
      (∀ l, k.lineLocked 0 l = false) →
      ∃ r, exec (.stage p t) s = .next ((s.withRam r).withCore p (k.advanced .xpt t)) ∧
        stores s.ram r 0 (runFrom base (s.work.mreadN p 1 (64 * from_) (64 * n))) ∧
        storesPoison s.ram r 0 (runFrom base (s.work.mreadN p 1 (64 * from_) (64 * n)))
          ((s.work.poisonOffs p 1 (64 * from_) (64 * n)).map fun o => base + o)) ∧
    (ptOpc b = 6 → onlyFields b rfreeMasks = true → (c.img.region reg).valid = true →
      tabGet 0 k.land.tails reg + count ≤ tabGet 0 k.land.heads reg →
      exec (.rfree p t) s = .next (s.withCore p { k.advanced .xpt t with land := { k.land with
        tails := tabSet 0 k.land.tails reg (tabGet 0 k.land.tails reg + count) } })) ∧
    (onlyFields b windowMasks = true → (nth Window.init c.img.windows win).valid = true →
      (ptOpc b = 7 → exec (.wopen p t) s = .next (s.withCore p { k.advanced .xpt t with
        land := { k.land with opens := tabSet false k.land.opens win true } })) ∧
      (ptOpc b = 8 → exec (.wclose p t) s = .next (s.withCore p { k.advanced .xpt t with
        land := { k.land with opens := tabSet false k.land.opens win false } }))))

/-- FETCH_PASS_COMPLETE, FETCH_LINE_LAND and SPRUE_LINE_ACCEPT of streams all of whose records have entered request
formation. The next pass buffer fills once its lines are there (R406). The next line of the stream whose turn it is lands in
every receiver with room that has begun the step: its bytes and poison at the head of the region, head and counter one on,
the row-poison mask joined (R349, R353, R404, R405); with its last line the stream's slot frees (R395). The core that
computes takes the chain's next line while more are to come (R123, R417). -/
def Obligations.StreamLanding : Prop :=
  ∀ (port slot p : Nat) (s : State) (x : PtStream) (e : Exec) (m : Model),
    s.acts = true → s.work.stream? port slot = some x → s.work.stepOf x = some (e, m) →
    let n := x.landed + 1
    let keep := fun key =>
      key / 2 ^ 42 == idxTag || (x.carry.any fun k => gotKey k.1 k.2 == key) || (if x.cmd.lay then decide (n ≤ x.cmd.lastLineOf (key / 2 ^ 42 / 256)) else decide (n / x.cmd.lpr ≤ key / 2 ^ 42))
    let landed := if x.cmd.total ≤ n then s.dev.pt.endStream x else s.dev.pt.putStream { x with
      landed := n, got := tabKeep keep x.got, dec := (if x.cmd.lay = false ∧ n % x.cmd.lpr = 0 then none else x.dec) }
    (x.cmd.lay = true → x.passes < x.cmd.passCount → x.passReady e.desc x.passes = true →
      exec (.fetchPassComplete port slot) s = .next (s.withPt (s.dev.pt.putStream { x with passes := x.passes + 1 }))) ∧
    (∀ bytes pois, x.cmd.isStore = false → x.cmd.dest ≠ 2 → x.cmd.items ≤ x.fed → s.work.ptTurn x = true →
      (x.cmd.cmp ≠ 0 → x.dec = none → x.isBad (x.fed - 1) = true) →
      (if x.cmd.lay then (x.operandLine e.desc x.landed).map fun b => (b, []) else x.linearLine e.desc x.landed) = some (bytes, pois) →
      let rs := x.receivers e m
      let head := fun q => tabGet 0 (s.core q).land.heads x.cmd.reg
      let mem := fun (r : Region) => if r.mem = 0 then 1 else 0
      let place := fun q (r : Region) => 64 * (r.base + head q % max 1 r.len)
      let key := fun q (r : Region) => 4 * x.cmd.reg + head q % max 1 r.len / max 1 x.cmd.tlines
      let mask := fun q r => if x.cmd.lay = false then 0 else if x.landed % x.cmd.tlines = 0 then x.maskBits x.landed
        else tabGet 0 (s.core q).land.masks (key q r) ||| x.maskBits x.landed
      let bs := fun m => (rs.filter fun z => mem z.2 == m).flatMap fun z => runFrom (z.1 * memSize m + place z.1 z.2) bytes
      (rs.map Prod.fst).Nodup → (s.dev.pt.streams.map fun y => (y.port, y.slot)).Nodup →
      (∀ z ∈ rs, z.1 < s.dev.cores.length ∧ s.work.onStep x z.1 = true ∧ head z.1 < z.2.len + tabGet 0 (s.core z.1).land.tails x.cmd.reg ∧
        (x.cmd.lay = true → x.landed = 0 → head z.1 % x.cmd.tlines = 0) ∧ (∀ l, (s.core z.1).lineLocked (mem z.2) l = false)) →
      ∃ u, exec (.fetchLineLand port slot) s = .next u ∧
        (∀ a i, i < 5 → u.ram.get i a = written (bs i) (s.ram.get i a) a) ∧
        (x.cmd.dest = 0 → ∀ z ∈ rs, storesPoison s.ram u.ram (mem z.2) (bs (mem z.2))
          (pois.map fun o => z.1 * memSize (mem z.2) + place z.1 z.2 + o)) ∧
        (∀ z ∈ rs, u.core z.1 = let k := s.core z.1
          let k' := k.setCounter z.2.ctr (k.counter z.2.ctr + 1)
          { k' with land := { k'.land with
              heads := tabSet 0 k.land.heads x.cmd.reg (head z.1 + 1),
              masks := tabSet 0 k.land.masks (key z.1 z.2) (mask z.1 z.2) } }) ∧
        (∀ q, (∀ z ∈ rs, z.1 ≠ q) → u.core q = s.core q) ∧
        u.dev.pt = landed ∧ u.log = s.log ∧ u.tb = s.tb) ∧
    (∀ bytes pois y ys, s.work.chainHead = some x → x.cmd.dest = 2 → x.cmd.cmp = 0 → x.cmd.items ≤ x.fed →
      (s.dev.pt.streams.map fun y => (y.port, y.slot)).Nodup →
      p = nth 0 (if x.checker then e.checker else e.cores) (x.landed / max 1 x.cmd.tlines % max 1 m.slots.length) →
      x.linearLine e.desc x.landed = some (bytes, pois) → (s.core p).mmas = y :: ys → 1 < y.need →
      exec (.sprueLineAccept p) s = .next
        ((s.withCore p { s.core p with mmas := { y with lines := y.lines ++ [(bytes, !pois.isEmpty)] } :: ys }).withPt landed))

/-- REMOTE_STORE_ARRIVAL, REMOTE_STORE_ACK, MESH_FLIT_ARRIVAL, GATHER_DRAIN. The store whose turn it is, the oldest of the
core's early queue whose wait is over or else the oldest on its way to the core, lands whole through the gather buffer and
raises its window's counter by its lines (R353, R360, R361), or is dropped with the code of its first failing check, a
LATE_WINDOW drop counted and logged (R364); either way its acknowledgement leaves (R362). A store for a step that the core
is granted and has not begun waits in the early queue, or in the mesh where the eight lines of that queue have no room for
it (R365). An acknowledgement without a code completes its store. A flit of no access, or on a link that is not on its way,
changes nothing. One that passes, or passes on its replay, has left its core's port on the first link of a store's way
(R368) and changes nothing elsewhere. One that fails its check and its replay, or for which a fault is armed (R623), raises
MESH_FLIT with the two cores of the link, its access and the access's step fail, and ROUTER_FAIL, which is fatal, follows
where the link raised one within the last second (R599, R600). A drained entry leaves the gather buffer, whose bytes stand
in the store (R343, R345). Of the model: log entries 5, 35, 41, 98. -/
def Obligations.MeshTraffic : Prop :=
   (∀ (p line : Nat) (s : State),
      s.acts = true → p < s.dev.cores.length →
      let k := s.core p
      let arrives := exec (.remoteStoreArrival p) s
      let due := fun (y : RStore) => y.toCore == p && !k.holdsBack y
      let without := { s.dev.mesh with stores := dropFirst (fun y => y.toCore == p) s.dev.mesh.stores }
      let next := s.dev.mesh.stores.find? fun y => y.toCore == p
      (∀ x m,
        s.dev.mesh.early.find? due = some x ∧ m = { s.dev.mesh with early := dropFirst due s.dev.mesh.early } ∨
          s.dev.mesh.early.find? due = none ∧ next = some x ∧ k.holdsBack x = false ∧ m = without →
        let mesh := fun (code : W16) (detail : W32) =>
          { m with acks := m.acks ++ [(⟨p, x.fromCore, x.thread, x.ring, x.seq, code, detail⟩ : RAck)] }
        (∀ v, storeVerdict k x = .ok v → v.mem = 0 →
          let at_ := fun (base : Nat) => x.bytes.map fun b => (base + b.1, b.2)
          let bad := fun (base : Nat) => x.poison.map fun o => base + o
          let base := p * 524288 + 64 * v.base
          let k' := (k.gatherPut true (at_ (64 * v.base)) (bad (64 * v.base))).setCounter v.ctr
            (k.counter v.ctr + BitVec.ofNat 32 x.lines.length)
          let s' := s.withCore p { k' with perf := { k'.perf with landed := (k.perf.landed + 1) % 2 ^ 64 } }
          (∀ b ∈ x.bytes, k.lineLocked 1 (v.base + b.1 / 64) = false) →
          ∃ r, arrives = .next ((s'.withRam r).withDev { s'.dev with mesh := mesh 0 0 }) ∧
            stores s.ram r 1 (at_ base) ∧ storesPoison s.ram r 1 (at_ base) (bad base)) ∧
        (∀ code, storeVerdict k x = .error code → code ≠ 0x2107 →
          arrives = .next (s.withDev { s.dev with mesh := mesh code 0 })) ∧
        (storeVerdict k x = .error 0x2107 →
          let detail := BitVec.ofNat 32 (x.slot % 32 * 2 ^ 24 + x.win % 32 * 2 ^ 19 + p % 32 * 2 ^ 8)
          let d := (s.withCore p { k with late := min 65535 (k.late + 1) }).dev
          arrives = .next (s.after { d with mesh := mesh 0x2107 detail } [raised [(0x2107, detail)] (s.work.whoIs x.ring x.seq)]))) ∧
      (∀ x, s.dev.mesh.early.find? due = none → next = some x → k.holdsBack x = true →
        arrives = .next (if s.work.earlyLines p + x.lines.length ≤ 8
          then s.withDev { s.dev with mesh := { without with early := s.dev.mesh.early ++ [{ x with queued := 0 }] } } else s)) ∧
      (∀ a, s.dev.mesh.acks.find? (fun y => y.core == p) = some a → a.code = 0 →
        exec (.remoteStoreAck p) s = .next
          (s.withDev { s.dev with mesh := { s.dev.mesh with acks := dropFirst (fun y => y.core == p) s.dev.mesh.acks } })) ∧
      exec (.gatherDrain p line) s =
        .next (s.withCore p { k with gather := k.gather.filter fun g => g.line != line })) ∧
   (∀ (p q kind src dst : Nat) (ok replayOk : Bool) (s : State),
      s.acts = true →
      let go := exec (.meshFlitArrival p q ok replayOk kind src dst) s
      let onItsWay := meshLink p q = true ∧ flitOnWay kind src dst p q = true
      let armed := (s.work.takeArmed 5 p).isSome = true
      (s.work.flitOwner kind src dst = none ∨ ¬ onItsWay → go = .next s) ∧
      (s.work.flitOwner kind src dst ≠ none → onItsWay → ¬ armed → ok = true ∨ replayOk = true →
        go = .next (if kind = 0 ∧ p = src then s.withDev { s.dev with mesh := injectLine src dst s.dev.mesh } else s)) ∧
      (∀ r seq e, s.work.flitOwner kind src dst = some (r, seq) → onItsWay → armed ∨ ok = false ∧ replayOk = false →
        s.log.react.length < 16 → s.work.exec? r seq = some e → e.ph = .run →
        let detail := BitVec.ofNat 32 (0x08 * 65536 + p * 256 + q)
        let recent := s.dev.mesh.flitErrs.filter fun e => decide (s.tb.now.toNat < e.2.2 + 1000000000)
        let again := (recent.any fun e => (e.1, e.2.1) == (min p q, max p q)) = true
        ∃ u, go = .next u ∧ u.completes r seq ⟨0x8101, 0, detail⟩ ∧ u.log.err = true ∧ u.ram = s.ram ∧ u.tb = s.tb ∧
          u.dev.mesh.flitErrs = (min p q, max p q, s.tb.now.toNat) :: recent ∧
          (kind = 0 → u.dev.mesh.stores = dropFirst (fun x => x.fromCore == src && x.toCore == dst) s.dev.mesh.stores) ∧
          (kind = 1 → u.dev.mesh.stores = s.dev.mesh.stores ∧ u.dev.mesh.acks = s.dev.mesh.acks) ∧
          (2 ≤ kind → u.dev.mesh.acks = dropFirst (fun x => x.fromCore == src && x.core == dst) s.dev.mesh.acks) ∧
          (u.log.fatal = true ↔ again)))

/-- XWAIT_LIMIT of a thread still under XWAIT and REMOTE_STORE_ACK with a code fail the running step (R177, R363): on every core of
the step whose work is for it the threads have ended and the step is gone, the memories are as they were, and no other
descriptor's core is touched. CORE_STEP_END of a core whose threads have all ended with nothing outstanding, no chain open and
no slot accumulating, frees its slots, discards its chains, closes its windows, drains its gather buffer and takes a pending trim
(R175, R119, R357, R465). -/
def Obligations.StepEnds : Prop :=
  ∀ (p t : Nat) (s : State) (c : Ctx),
    s.acts = true → p < s.dev.cores.length → s.ctx? p = some c → c.e.ph = .run →
    let mine := fun q => q ∈ c.e.cores ++ c.e.checker ∧
      ((s.core q).cur.map fun x => (x.ring, x.seq)) = some (c.cur.ring, c.cur.seq)
    let fails := fun (i : Instr) => ∃ u, exec i s = .next u ∧ u.ram = s.ram ∧ u.tb = s.tb ∧
      (∀ q, mine q → q < s.dev.cores.length → released (u.core q) = true) ∧ (∀ q, ¬ mine q → u.core q = s.core q)
    (∀ n target, s.work.stillWaits p t = some (.counter n target) → fails (.xwaitLimit p t)) ∧
    (∀ a, s.dev.mesh.acks.find? (fun y => y.core == p) = some a → a.code ≠ 0 → a.ring = c.cur.ring → a.seq = c.cur.seq →
      fails (.remoteStoreAck p)) ∧
    (c.cur.begun = true → c.cur.ended = false → (∀ u, u < 8 → (s.thread p u).st = .ended) → s.work.coreQuiet p = true →
      ((s.core p).plinth.chains.all fun x => !x.2.isOpen) = true → ((s.core p).plinth.slots.all fun x => x.2.st != .accum) = true →
      let k := s.core p
      let s' := s.withCore p { k with
        gather := [], plinth := { k.plinth with slots := [], tags := [], chains := [] },
        land := { k.land with opens := [] }, cur := some { c.cur with ended := true } }
      (k.cal.pend = none → exec (.coreStepEnd p) s = .next s') ∧
      (∀ t, k.cal.pend = some t → k.lost = false → exec (.coreStepEnd p) s = .next (s'.retrimmed p t)))

-- Calipers, rates, timebase, watchdogs ---------------------------------------------------------------------------------------------------

/-- CALIPER_COMPARISON of a core in service outside the trim procedure, with no fault armed for it, of a group its array computes for
a step or for a maquette run or retest; there is none of any other group (R461). It is counted and the column moves on; the probe
matches count on with a matching probe and start again with a mismatch (R459). A match, and a probe whatever it shows, ends there
unless every comparison is confirmed and the confirmation fails. A guard mismatch whose confirmation matches sets a lengthening of 2
as pending, once, and confirm-all mode (R462, R464, R466); beyond 31 the trim is 31 and CALIPER_LIMIT is raised (R467); a core at a
step boundary applies it at once (R465). A failed confirmation raises COLUMN_FAULT, which fails the step whose group it was and
leaves the step alone where the group was a maquette's (R462, R468).
PROBE_COUNT_REACHED shortens by 1 at the next boundary (R459, R465). TRIM_PROCEDURE_DONE gives every core in service its trim, one
that computes a step at its end, clears NEED (R457, R469) and ends the initial trim (R671). BRATE_WINDOW_END, once the internal
timebase has passed the window, gives every core in service its count as XBRATE, never zero (R474, R475), and raises BRATE_LOW once,
for the lowest core below a floor (R477); a spoilt window is discarded (R475). Of the model: log entry 110. -/
def Obligations.CalipersAndTrims : Prop :=
   (∀ (p : Nat) (maquette isMatch confirmed : Bool) (s : State),
      s.acts = true → s.log.safe = false → p < s.dev.cores.length → p ∈ s.dev.inService → s.dev.cal.busy = false →
      let k := s.core p
      let go := exec (.caliperComparison p isMatch confirmed maquette) s
      (k.computes maquette = false → go = .next s) ∧
      (k.computes maquette = true → (s.dev.saf.armed.all fun a => !((a.1 == 3 || a.1 == 4) && a.2.1 == p)) = true →
        let probe := k.cal.compares % 16 == 15
        let counted : CoreCal := { k.cal with
          compares := (k.cal.compares + 1) % 16, col := (k.cal.col + 1) % 64,
          probes := (if isMatch = false then 0 else if probe then min 4096 (k.cal.probes + 1) else k.cal.probes) }
        let with' := fun (x : CoreCal) => s.withCore p { k with cal := x }
        let guardMiss := isMatch = false ∧ probe = false
        let asks := guardMiss ∨ k.cal.confirmAll = true
        let longer := min 31 (k.cal.trim + 2)
        let limit := k.cal.limit || decide (31 < k.cal.trim + 2)
        let evs := if 31 < k.cal.trim + 2 then [Ev.chain [(0x8108, unitDetail 0x16 p 0)] none false [p]] else []
        let pending := with' { counted with pend := some longer, confirmAll := true, limit := limit }
        let detail := unitDetail 0 p k.cal.col
        (¬ guardMiss → (asks → confirmed = true) → go = .next (with' counted)) ∧
        (guardMiss → confirmed = true → (∃ t, k.cal.pend = some t ∧ k.cal.trim ≤ t) → go = .next (with' counted)) ∧
        (guardMiss → confirmed = true → (∀ t, k.cal.pend = some t → t < k.cal.trim) → go = .next (s.after
          (if k.atBoundary = true ∧ k.lost = false then pending.retrimmed p longer else pending).dev evs)) ∧
        (asks → confirmed = false → maquette = true →
          go = .next (s.after (with' counted).dev [.chain [(0x8107, detail)] none false [p]])) ∧
        (∀ c e, asks → confirmed = false → maquette = false → k.cur = some c → s.work.exec? c.ring c.seq = some e → e.ph = .run →
          ∃ u, go = .next u ∧ u.completes c.ring c.seq ⟨0x8107, 0, detail⟩ ∧ u.log.err = true ∧ u.ram = s.ram ∧ u.tb = s.tb))) ∧
   (∀ (p : Nat) (ns : List Nat) (s : State),
      s.acts = true →
      let n := s.tb.now.toNat / 1000000
      let rates := fun (b : Bool) => { s.dev.cal with window := n, taint := b }
      (p < s.dev.cores.length → p ∈ s.dev.inService → 4096 ≤ (s.core p).cal.probes → (s.core p).cal.trim ≠ 0 →
        (s.core p).cal.pend = none →
        let k := s.core p
        exec (.probeCountReached p) s = .next (if k.atBoundary = true then s.retrimmed p (k.cal.trim - 1)
          else s.withCore p { k with cal := { k.cal with pend := some (k.cal.trim - 1) } })) ∧
      (s.dev.cal.busy = true →
        ∃ cores, exec (.trimProcedureDone ns) s = .next (s.withDev { s.dev with
            cores := cores, cal := { s.dev.cal with need := false, busy := false },
            boot := { s.dev.boot with state := if s.dev.boot.state = 5 then 6 else s.dev.boot.state } }) ∧
          cores.length = s.dev.cores.length ∧
          ∀ q, q < cores.length → nth Core.init cores q = let k := s.core q
            let t := min 31 (nth 31 ns q)
            let computing := (k.cur.any fun c => c.begun && !c.ended) = true
            if q ∈ s.dev.inService ∧ computing then { k with cal := { k.cal with pend := some t } }
            else if q ∈ s.dev.inService then
              { k with cal := { k.cal with trim := t, pend := none, probes := 0, confirmAll := k.cal.limit } }
            else k) ∧
      (n ≤ s.dev.cal.window → exec (.brateWindowEnd ns) s = .next s) ∧
      (s.dev.cal.window < n → s.dev.cal.taint = true → exec (.brateWindowEnd ns) s = .next (s.withDev { s.dev with
        cal := rates (!s.tb.valid || s.tb.held) })) ∧
      (s.dev.cal.window < n → s.dev.cal.taint = false →
        let floor := (s.dev.cfgW 0x20C).toNat
        let low := fun q => q ∈ s.dev.inService ∧ nth 0 ns q < floor
        ∃ cores,
          (∀ q, nth Core.init cores q = let k := s.core q
            if q ∈ s.dev.inService ∧ q < s.dev.cores.length then
              { k with cal := { k.cal with xbrate := BitVec.ofNat 32 (max 1 (min (2 ^ 32 - 1) (nth 0 ns q))), rated := true } }
            else k) ∧
          ((∀ q, ¬ low q) → exec (.brateWindowEnd ns) s = .next (s.withDev { s.dev with cores := cores, cal := rates false })) ∧
          (∀ q, low q → (∀ r, low r → q ≤ r) → exec (.brateWindowEnd ns) s =
            .next (s.after { s.dev with cores := cores, cal := rates false } [raised [(0x5105, BitVec.ofNat 32 (q * 256))] none]))))

/-- TIMEBASE_UPDATE and TB_INVALID. While tb_valid is high the timebase takes a sample that is not below it (R479); a lower one
holds it, and each such backward step is counted and raises TB_STEP once (R480). While tb_valid is low it holds its value (R481).
Either way the rate window is spoilt (R475). TB_INVALID is raised once until tb_valid has returned, while a ring is enabled. -/
def Obligations.TimebaseSamples : Prop :=
  ∀ (ns : Nat) (s : State),
    s.acts = true → ns < 2 ^ 64 →
    let spoilt := { s.dev with cal := { s.dev.cal with taint := true } }
    exec (.timebaseUpdate ns false) s = .next { s.withDev spoilt with tb := { s.tb with valid := false } } ∧
    (s.tb.now.toNat ≤ ns → exec (.timebaseUpdate ns true) s =
      .next { s with tb := { s.tb with now := BitVec.ofNat 64 ns, valid := true, held := false, invalid := false } }) ∧
    (ns < s.tb.now.toNat →
      (s.tb.held = true → exec (.timebaseUpdate ns true) s =
        .next { s.withDev spoilt with tb := { s.tb with valid := true, invalid := false } }) ∧
      (s.tb.held = false → exec (.timebaseUpdate ns true) s =
        .next { s.after spoilt [raised [(0x5104, 0)] none] with
          tb := { s.tb with valid := true, held := true, invalid := false, steps := min 65535 (s.tb.steps + 1) } })) ∧
    (s.tb.valid = false → s.tb.invalid = false → s.log.safe = false →
      (∃ r, r < 64 ∧ (bit (s.dev.cfgW (0x1008 + 32 * r)) 31 = true ∨ bit (s.dev.cfgW (0x2008 + 16 * r)) 31 = true)) →
      exec .tbInvalid s = .next { s.after s.dev [raised [(0x5103, 0)] none] with tb := { s.tb with invalid := true } })

/-- STALL and CODEWORD_INVALID raise STALL naming the unit, QUAL TIMEOUT or CODE (R447, R485, R606), for a core in service where
the unit stands in one. MAQUETTE_SCHEDULE, in READY, MAQUETTE_FORCE and MAQUETTE_DONE start, force and end the runs (R593, R689); a
wrong result raises MAQUETTE_FAIL naming core and unit (R594). RETEST_DONE that passes returns the core to use (R604). -/
def Obligations.WatchdogsAndMaquettes : Prop :=
  ∀ (unit p inst : Nat) (s : State),
    s.acts = true → s.log.safe = false → p < s.dev.cores.length →
    let k := s.core p
    let mq := fun (m : CoreMq) (saf : Saf) => { (s.withCore p { k with mq := m }).dev with saf := saf }
    (knownUnit unit = true → (unit < 8 → p ∈ s.dev.inService) →
      let evs := fun (qual : Nat) => [Ev.chain [(0x8106, unitDetail unit p inst + BitVec.ofNat 32 (qual * 2 ^ 28))]
        (if unit < 8 then s.work.whoOf p else none) false (if unit < 8 then [p] else [])]
      ((s.dev.saf.armed.all fun a => a != (7, p, unit)) = true → exec (.stall unit p inst) s = .next (s.after s.dev (evs 0))) ∧
      exec (.codewordInvalid unit p inst) s = .next (s.after s.dev (evs 1))) ∧
    (s.dev.boot.state = 6 → ∃ cores, exec .maquetteSchedule s = .next (s.withDev { s.dev with cores := cores }) ∧
      ∀ q, nth Core.init cores q = let c := s.core q
        if q ∈ s.dev.inService ∧ q < s.dev.cores.length ∧ c.mq.running = false
        then { c with mq := { c.mq with running := true, forced := false } } else c) ∧
    (k.mq.running = true → k.mq.forced = false → exec (.maquetteForce p) s =
      .next (s.withDev (mq { k.mq with forced := true } { s.dev.saf with forced := min 255 (s.dev.saf.forced + 1) }))) ∧
    (k.mq.running = true → (s.dev.saf.armed.all fun a => !(a.1 == 6 && a.2.1 == p)) = true →
      let ended := { k.mq with running := false, forced := false }
      let runs := min 65535 (s.dev.saf.runs + 1)
      exec (.maquetteDone p true unit) s = .next (s.withDev (mq ended { s.dev.saf with runs := runs })) ∧
      exec (.maquetteDone p false unit) s = .next (s.after
        (mq ended { s.dev.saf with runs := runs, fails := min 255 (s.dev.saf.fails + 1) })
        [.chain [(0x8102, unitDetail unit p 0)] none false [p]])) ∧
    (∀ n inj, k.mq.retest = some (n, inj) → exec (.retestDone p true) s = .next (s.withDev
      (mq { k.mq with retest := none, passed := some s.tb.now.toNat } { s.dev.saf with runs := min 65535 (s.dev.saf.runs + n) })))

/-- SAFETY_REACTION_START takes the oldest event of class 8h, one at a time: while a core is in its retest the next one waits
(R603). CALIPER_LIMIT, MESH_FLIT, MIRROR_MISMATCH and MIRROR_MISSING
have no further reaction; a fault of a core starts a retest of it, and a second one within 1 s of a passed retest takes the core
out of service (R604); CORE_LOST takes its cores out of service; a STALL outside the cores is UNIT_FAIL with STALL as its cause. A
RETEST_DONE that fails takes the core out of service too. -/
def Obligations.SafetyReactions : Prop :=
  ∀ (p : Nat) (s : State),
    s.acts = true → p < s.dev.cores.length →
    let k := s.core p
    let lost := fun (i : Instr) => ∃ u, exec i s = .next u ∧ (u.core p).lost = true ∧ u.ram = s.ram ∧ u.tb = s.tb
    (∀ n, k.mq.retest = some (n, false) → lost (.retestDone p false)) ∧
    ∀ (e : React) (es : List React), s.log.react = e :: es →
    let soon := ∃ t, k.mq.passed = some t ∧ s.tb.now.toNat < t + 1000000000
    let retests := e.code = 0x8102 ∨ e.code = 0x8103 ∨ e.code = 0x8105 ∨ e.code = 0x8107
    ((∃ c ∈ s.dev.cores, c.mq.retest.isSome = true) → exec .safetyReactionStart s = .next s) ∧
    ((∀ c ∈ s.dev.cores, c.mq.retest = none) →
    (e.code = 0x8101 ∨ e.code = 0x8108 ∨ e.code = 0x8110 ∨ e.code = 0x8111 →
      exec .safetyReactionStart s = .next { s with log := { s.log with react := es } }) ∧
    (retests → e.cores = [p] → k.lost = false → (soon → e.inj = true) →
      exec .safetyReactionStart s = .next { (s.withCore p { k with mq := { k.mq with retest := some (3, e.inj) } }) with
        log := { s.log with react := es } }) ∧
    (retests → e.cores = [p] → soon → e.inj = false → lost .safetyReactionStart) ∧
    (e.code = 0x8104 → p ∈ e.cores → lost .safetyReactionStart) ∧
    (e.code = 0x8106 → fld e.detail 16 8 < 8 → fld e.detail 8 5 = p → e.inj = false → lost .safetyReactionStart) ∧
    (e.code = 0x8106 → 8 ≤ fld e.detail 16 8 → exec .safetyReactionStart s =
      .next (s.after s.dev [.takeReact, .chain [(0xF104, e.detail), (0x8106, e.detail)] none e.inj []])))

-- Memory errors, fatal errors, the cast dump ------------------------------------------------------------------------------------------------

/-- ECC_FINDING, PATROL_SCRUB, LOCK_SCRUB_DONE. A corrected finding that does not persist is counted and logged as MEM_CE (R372);
an uncorrectable one of a core's weight or activation store is counted, its granule poisoned (R371, R373). A patrol without a
finding changes nothing (R374), one with a finding does what the finding does. After the scrub every locked line of the core reads
zero and clean, every other byte what it held, and no line is locked; a line that fails its read-back is poisoned, and its row
scheduled for repair where a spare is left (R377, R384). Of the model: log entries 3, 9. -/
def Obligations.MemoryFindings : Prop :=
  ∀ (p : Nat) (f : EccFinding) (s : State),
    s.acts = true → s.log.safe = false →
    let unarmed := fun (kind : Nat) => (s.dev.saf.armed.all fun a => a != (kind, f.core, f.mem)) = true
    (f.uncorrectable = false → f.persists = false → unarmed 0 →
      exec (.eccFinding f) s = .next (s.after
        { s.dev with saf := { s.dev.saf with ce := min 65535 (s.dev.saf.ce + 1) } } [raised [(0x3101, 0)] none])) ∧
    (f.uncorrectable = true → f.mem < 2 → unarmed 1 →
      ∃ u, exec (.eccFinding f) s = .next u ∧ u.dev.saf.ue = min 255 (s.dev.saf.ue + 1) ∧ u.dev.saf.ce = s.dev.saf.ce ∧
        (∀ m a, m < 5 → u.ram.get m a = s.ram.get m a) ∧
        (∀ m g, m < 2 → u.ram.poisoned m g =
          if m = f.mem ∧ g = (f.core * memSize f.mem + 64 * f.line + 16 * (f.granule % 4)) / 16 then true else s.ram.poisoned m g) ∧
        (s.log.errq.length < 62 → ∃ es, u.log.errq = s.log.errq ++ es ∧ (es.head?.map ErrEntry.code) = some 0x3102) ∧
        u.dev.cores = s.dev.cores ∧ u.tb = s.tb) ∧
    exec (.patrolScrub none) s = .next s ∧
    exec (.patrolScrub (some f)) s = exec (.eccFinding f) s ∧
    (p < s.dev.cores.length → let k := s.core p
      let off := fun m a => a - p * memSize m
      let locked := fun m a => p * memSize m ≤ a ∧ a < (p + 1) * memSize m ∧ k.lineLocked m (off m a / 64) = true
      (∀ r ∈ k.locks.lines, r.1 + r.2 ≤ 8192) → (∀ r ∈ k.locks.wlines, r.1 + r.2 ≤ 20480) →
      ∀ failed : List (Nat × Nat), (∀ x ∈ failed, x.1 < 2) →
      let s' := s.withCore p { k with locks := ⟨[], false, []⟩ }
      ∃ u, exec (.lockScrubDone p failed) s = .next u ∧ u.dev.cores = s'.dev.cores ∧ u.tb = s.tb ∧
        (failed = [] → u = s'.withRam u.ram) ∧
        (∀ m a, m < 3 → (locked m a → u.ram.get m a = 0) ∧ (¬ locked m a → u.ram.get m a = s.ram.get m a)) ∧
        (∀ a, u.ram.get 3 a = s.ram.get 3 a ∧ u.ram.get 4 a = s.ram.get 4 a) ∧
        (∀ m g, m < 2 → (locked m (16 * g) → (u.ram.poisoned m g = true ↔ (m, off m (16 * g) / 64) ∈ failed)) ∧
          (¬ locked m (16 * g) → u.ram.poisoned m g = s.ram.poisoned m g)) ∧
        (∀ m l, failed = [(m, l)] → k.lineLocked m l = true →
          let e := BitVec.ofNat 32 (p % 32 * 2 ^ 27 + m * 2 ^ 25 + rowField m l)
          let now := s.dev.saf.repairs.drop (s.dev.saf.repairs.length - s.dev.saf.repPend)
          e ∉ now → 0 < s.work.sparesLeft (macroOf e) → s.dev.saf.repairs.length < 1024 →
          u.dev.saf.repairs = s.dev.saf.repairs ++ [e]))

/-- FATAL_ERROR, SF_SAFE_REQ and SF_ALIVE_TOGGLE. A fatal error of R607 is raised with its unit; the first of a start sets FATAL
and FCODE, cancels what no port has granted and every queued frame, starts the dump, and leads to the safe state at once where
there is no cast region or no firmware runs (R608, R676, R695); every core, the timebase and the SRAMs stand. A second fatal error
is the safe state at once, FCODE kept (R610). SF_SAFE_REQ is SAFE_REQUEST (R622). sf_alive toggles in READY outside the safe state
when its conditions hold (R621). The two rails of sf_err always differ and show error from the fatal error on (R609, R620).
Of the model: log entry 54. -/
def Obligations.FatalErrors : Prop :=
  ∀ (code : Nat) (confirmed : Bool) (s : State),
    s.linesOk = true → s.dev.boot.powered = true → s.log.safe = false →
    (s.log.fatal = false → 0xF101 ≤ code → code ≤ 0xF107 → s.log.errq.length < 64 →
      ∃ u e, exec (.fatalError code) s = .next u ∧
        u.log.fatal = true ∧ u.log.fcode = BitVec.ofNat 16 code ∧ u.log.safe = noDump s.dev ∧ u.log.react = [] ∧
        u.log.errq = s.log.errq ++ [e] ∧ e.code = BitVec.ofNat 16 code ∧ u.log.fchain = [e] ∧
        u.dev.ports.cands = [] ∧ u.dev.ports.out = s.dev.ports.out.filter PortReq.sent ∧
        u.dev.peer.txq = [] ∧ u.dev.peer.sending = [] ∧
        u.sfErrP = false ∧ u.sfErrN = true ∧
        (noDump s.dev = true → u.dev.sec.sessions = [] ∧ u.dev.sec.attest = none ∧ u.dev.peer.pos = []) ∧
        u.dev.cores = s.dev.cores ∧ u.dev.rings = s.dev.rings ∧ u.dev.arm = s.dev.arm ∧ u.ram = s.ram ∧ u.tb = s.tb) ∧
    (s.log.fatal = true → 0xF101 ≤ code → code ≤ 0xF107 →
      ∃ u, exec (.fatalError code) s = .next u ∧ u.sfErrP = false ∧ u.sfErrN = true ∧ u.log.safe = true ∧ u.log.fcode = s.log.fcode ∧ u.log.fatal = true ∧
        u.dev.cores = s.dev.cores ∧ u.ram = s.ram ∧ u.tb = s.tb) ∧
    exec .sfSafeReq s = .next (s.after { s.dev with saf := { s.dev.saf with req := true } }
      [raised [(0xF103, BitVec.ofNat 32 0x140000)] none]) ∧
    s.sfErrP = !s.sfErrN ∧
    exec (.sfAliveToggle confirmed) s = .next (if s.dev.boot.state = 6 ∧ confirmed = true
      then s.withDev { s.dev with saf := { s.dev.saf with alive := !s.dev.saf.alive } } else s)

/-- CAST_SECTION_WRITTEN and CAST_TIMEOUT while a fatal error is handled. Once the writes under way are accepted, the header follows
the begin, a section's data is followed by the header with its DONE bit, length and CRC-64, and that by the next section; after the
last header the block enters the safe state (R608, R698). A section whose write failed is logged as CAST_FAIL and left out. At the
timeout the block enters the safe state, the dump as it stands. Of the model: log entry 91. -/
def Obligations.CastDump : Prop :=
  ∀ (s : State) (c : Cast),
    s.linesOk = true → s.dev.boot.powered = true → s.log.fatal = true → s.log.safe = false → s.dev.saf.cast = some c →
    let put := fun (c : Cast) (off : Nat) (bs : List Byte) => ((s.work.setCast c).castWrite off bs).d
    let sect := (c.sect + 1) / 2
    let bytes := s.work.castSection c sect
    let step := exec .castSectionWritten s
    exec .castTimeout s = .next (s.after s.dev [.safe]) ∧
    (s.work.pendingUser .cast = false →
      (c.started = false → step = .next (s.withDev (put { c with started := true } 0
        (s.work.castHeader c ++ List.replicate 112 0)))) ∧
      (c.started = true → c.sect % 2 = 1 → c.bad = false →
        let c' := { c with done := c.done ||| 2 ^ (sect - 1), sums := c.sums ++ [(bytes.length, crc64 bytes)], sect := 2 * sect }
        step = .next (s.withDev (put c' 0 (s.work.castHeader c')))) ∧
      (c.started = true → c.sect % 2 = 0 → c.bad = false → c.sect < 10 →
        let c' := { c with sect := c.sect + 1, bad := false }
        step = .next (s.withDev (put c' (castOffset (c.sect / 2 + 1)) (s.work.castSection c (c.sect / 2 + 1))))) ∧
      (c.started = true → c.sect = 10 → c.bad = false →
        step = .next (s.after { s.dev with saf := { s.dev.saf with cast := some { c with finished := true } } } [.safe])) ∧
      (c.started = true → c.sect % 2 = 1 → c.bad = true → c.sect < 9 →
        let c' := { c with sums := c.sums ++ [(0, 0)], sect := c.sect + 2, bad := false }
        step = .next (s.after (put c' (castOffset (sect + 1)) (s.work.castSection c (sect + 1))) [raised [(0x3109, 0)] none])))

-- Peer ports ----------------------------------------------------------------------------------------------------------------------------------

/-- HELLO_TIMER, HELLO, PROOF (R556 to R562). HELLO goes on both enabled links to every position an attempt is under way with. A HELLO
that agrees is kept and answered with the proof of R558 on its link, one that does not, or comes from no position of the
configuration, is PEER_CONFIG once per attempt. A PROOF that verifies
completes the pairing with the epoch of R559; in mirror mode the block becomes active where neither was and it is position 0
(R562), or stops being active as position 1 where both were (R571). One that does not verify is PEER_AUTH.
Of the model: log entry 72. -/
def Obligations.Pairing : Prop :=
  ∀ (link : Nat) (fr : RxFrame) (h : Hdr) (s : State) (key : List Byte),
    let b := fr.bytes.drop 32
    let x := s.dev.peer.heard link h
    let p := s.dev.peer.at h.src
    let w := s.workOn { s.dev with peer := x }
    (s.acts = true → ∃ y, exec .helloTimer s = .next (s.withPeer y) ∧
      (∀ l q, q ∈ s.work.others → l < 2 → s.work.linkOn l = true → (s.dev.peer.at q).trying = true → (s.dev.peer.at q).paired = false →
        ∃ f ∈ y.txq, f.link = l ∧ f.dst = q ∧ f.typ = 1 ∧ f.queue = 3 ∧ f.eth = s.work.ethHeader q 3 ∧
          f.bytes.drop 32 = s.work.helloPayload ((s.dev.peer.at q).own.take 16)) ∧
      (∃ fs, y.txq = s.dev.peer.txq ++ fs) ∧
      (∀ q, (s.dev.peer.at q).trying = false ∨ (s.dev.peer.at q).paired = true → y.at q = s.dev.peer.at q)) ∧
    (s.receives link 1 fr h = true → s.work.otherPos h.src = false →
      let x := { x with up := s.dev.peer.up }
      (∃ q, q ∈ s.work.others ∧ (s.dev.peer.at q).trying = true) →
      exec (.hello link fr) s = .next (if p.cfgErr = true then s.withPeer x
        else s.after { s.dev with peer := x.putAt h.src { p with cfgErr := true } } [raised [(0x6102, 0)] none])) ∧
    (s.receives link 1 fr h = true → s.work.otherPos h.src = true → s.work.linkKey = some key → p.trying = true → p.own ≠ [] →
      p.paired = false →
      (helloActive b = true → s.work.peerMode = 1 → s.dev.peer.active = true → s.work.myPos ≠ 1) →
      (s.work.helloOk b = true →
        let y := x.putAt h.src { p with hello := b }
        exec (.hello link fr) s = .next (s.sending y link h.src 2 {}
          ((s.workOn { s.dev with peer := y }).proofOf key h.src s.work.myPos))) ∧
      (s.work.helloOk b = false → exec (.hello link fr) s = .next (if p.cfgErr = true then s.withPeer x
        else s.after { s.dev with peer := x.putAt h.src { p with cfgErr := true } } [raised [(0x6102, 0)] none]))) ∧
    (s.receives link 2 fr h = true → s.work.linkKey = some key → p.trying = true → p.paired = false → p.hello ≠ [] →
      let y := { x.putAt h.src { p with paired := true, trying := false, epoch := w.epochOf key h.src } with
        mute := tabSet false (tabSet false x.mute h.src false) (4 + h.src) false }
      (b ≠ w.proofOf key h.src h.src →
        exec (.proof link fr) s = .next (s.after { s.dev with peer := x } [raised [(0x6101, 0)] none])) ∧
      (b = w.proofOf key h.src h.src →
        (s.work.peerMode ≠ 1 → exec (.proof link fr) s = .next (s.withPeer y)) ∧
        (s.work.peerMode = 1 → s.dev.peer.rejoin = false →
          (s.dev.peer.active = true → helloActive p.hello = true → s.work.myPos ≠ 1) →
          exec (.proof link fr) s = .next (s.withPeer { y with
            active := s.dev.peer.active || (!helloActive p.hello && decide (s.work.myPos = 0)) })) ∧
        (s.work.peerMode = 1 → s.dev.peer.rejoin = false → s.dev.peer.active = true → helloActive p.hello = true → s.work.myPos = 1 →
          exec (.proof link fr) s =
            .next (s.after { s.dev with peer := { y with active := false, sync := [] } } [raised [(0x6105, 0)] none]))))

/-- HEARTBEAT_TIMER, HEARTBEAT, LINK_SILENCE, ETH_TX_CLOCK_STOP (R563, R569 to R571, R579, R742). A heartbeat goes on both
enabled links to every paired position with ACTIVE and whether a rejoin or its pass is under way, behind the Ethernet header
of R543, R544 and R546. A received one ends a rejoin once the pass was seen and everything is installed, and makes position
1 of two active blocks stop. A link silent towards a paired position is PEER_LINK while the other is not, and what waits for
it goes out on the other, numbered there (R554, R569); with the second one the pairing ends (PEER_LOST), and a pendant in
mirror mode becomes active, its REJOIN standing. A stopped transmit clock is silence at once. Of the model: log entries 17,
76, 77. -/
def Obligations.HeartbeatsAndSilence : Prop :=
  ∀ (link q : Nat) (fr : RxFrame) (h : Hdr) (s : State),
    let x := s.dev.peer.heard link h
    let quiet := { s.dev.peer with
      up := tabSet false s.dev.peer.up (4 * link + q) false, mute := tabSet false s.dev.peer.mute (4 * link + q) true }
    let other := s.work.linkGood (1 - link) q = true
    let lost := { PeerPos.init with past := true }
    (s.acts = true → ∃ y, exec .heartbeatTimer s = .next (s.withPeer y) ∧ (∃ fs, y.txq = s.dev.peer.txq ++ fs) ∧
      y.ovfLeft = s.dev.peer.ovfLeft - s.work.heartbeat ∧
      ∀ l b, b ∈ s.work.others → s.work.paired b = true → l < 2 → s.work.linkOn l = true →
        ∃ f ∈ y.txq, f.link = l ∧ f.dst = b ∧ f.typ = 3 ∧ f.queue = 3 ∧ f.bytes.length = 32 ∧ f.eth = s.work.ethHeader b 3 ∧
          word32 f.bytes 16 = b2n s.dev.peer.active + 2 * b2n (s.dev.peer.rejoin || s.work.passing)) ∧
    (s.receives link 3 fr h = true →
      let dual := s.work.peerMode = 1 ∧ bitOf h.a 0 = true ∧ s.dev.peer.active = true ∧ s.work.myPos = 1
      let ending := h.src = s.work.partnerPos ∧ s.dev.peer.rejoin = true
      (dual → s.dev.peer.rejoin = false → exec (.heartbeat link fr) s =
        .next (s.after { s.dev with peer := { x with active := false, sync := [] } } [raised [(0x6105, 0)] none])) ∧
      (¬ dual → ¬ ending → exec (.heartbeat link fr) s = .next (s.withPeer x)) ∧
      (¬ dual → ending → bitOf h.a 1 = true → exec (.heartbeat link fr) s = .next (s.withPeer { x with rjSeen := true })) ∧
      (¬ dual → ending → bitOf h.a 1 = false → exec (.heartbeat link fr) s = .next (s.withPeer
        (if s.dev.peer.rjSeen = true ∧ (s.dev.peer.asm.all fun a => a.kind == 1) = true
          then { x with rejoin := false, rjSeen := false } else x)))) ∧
    (s.acts = true → s.work.linkOn link = true → s.work.linkMute link q = false → link < 2 → q < 4 →
      (s.work.paired q = false → exec (.linkSilence link q) s = .next (s.withPeer quiet)) ∧
      (s.work.paired q = true → other → ∃ y : Peer, exec (.linkSilence link q) s = .next (s.after
          { s.dev with peer := { quiet with txq := y.txq, txSeq := y.txSeq, spanOut := y.spanOut } }
          [raised [(0x6108, BitVec.ofNat 32 link)] none]) ∧
        y.txq.length = s.dev.peer.txq.length ∧ y.spanOut.length = s.dev.peer.spanOut.length ∧
        (∀ k, k ≠ 4 * (1 - link) + q → tabGet 0 y.txSeq k = tabGet 0 s.dev.peer.txSeq k) ∧
        ∀ (i : Nat) (f : TxFrame), s.dev.peer.txq[i]? = some f →
          (f.link ≠ link ∨ f.dst ≠ q ∨ f.typ = 1 ∨ f.typ = 3 ∨ f.typ = 4 → y.txq[i]? = some f) ∧
          (f.link = link → f.dst = q → f.typ ∉ [1, 3, 4, 8] → ∃ n,
            y.txq[i]? = some { f with link := 1 - link, bytes := frameWithSeq f.bytes n })) ∧
      (s.work.paired q = true → ¬ other → s.work.peerMode ≠ 1 → exec (.linkSilence link q) s = .next (s.after
        { s.dev with peer := quiet.putAt q lost } [raised [(0x6103, BitVec.ofNat 32 q)] none])) ∧
      (s.work.paired q = true → ¬ other → s.work.peerMode = 1 → ∃ u, exec (.linkSilence link q) s = .next u ∧
        u.dev.peer.at q = lost ∧ u.dev.peer.active = true ∧ u.dev.peer.digOwn = [] ∧ u.dev.peer.digRx = [] ∧
        u.dev.peer.pass = none ∧ u.dev.peer.asm = [] ∧ u.dev.peer.rejoin = s.dev.peer.rejoin ∧ u.tb = s.tb) ∧
      (s.work.others = [q] → exec (.ethTxClockStop link) s = exec (.linkSilence link q) s))

/-- DIGEST_SEND_TIMER, DIGEST, DIGEST_WAIT_EXPIRY (R564 to R568). Up to 64 queued entries go to the partner on both links. A received
entry counts only for a stream whose sync bit is set, and once; it is compared with the own one or held. Equal digests clear both,
different ones are counted and raise MIRROR_MISMATCH with the stream. An own entry that waited in vain is MIRROR_MISSING, one
received for nothing is forgotten. Of the model: log entries 16, 82. -/
def Obligations.DigestExchange : Prop :=
  ∀ (link stream gen : Nat) (fr : RxFrame) (h : Hdr) (s : State),
    let x := s.dev.peer.heard link h
    let b := fr.bytes.drop 32
    let e : DigEntry := ⟨word32 b 0 % 65536, BitVec.ofNat 32 (word32 b 4), BitVec.ofNat 64 (word64 b 8)⟩
    let this := fun (d : DigEntry) => d.stream == stream && d.gen.toNat == gen
    let known := s.dev.peer.digRx.any (· == e) || s.dev.peer.digDone.any (· == e)
    let sync := tabGet false s.dev.peer.sync e.stream
    let go := exec (.digest link fr) s
    (s.acts = true →
      let es := s.dev.peer.digQ.take 64
      exec .digestSendTimer s = .next (if es = [] then s else
        s.sendingBoth { s.dev.peer with digQ := s.dev.peer.digQ.drop 64 } s.work.partnerPos 4 { a := es.length }
          (es.flatMap fun d => leBytes 4 d.stream ++ leBytes 4 d.gen.toNat ++ leBytes 8 d.digest.toNat))) ∧
    (s.receives link 4 fr h = true → s.work.peerMode = 1 → h.a = 1 → b.length = 16 →
      (sync = false ∨ known = true → go = .next (s.withPeer x)) ∧
      (sync = true → known = false →
        (∀ own, s.dev.peer.digOwn.find? (DigEntry.same e) = some own →
          let y := { x with
            digOwn := x.digOwn.filter (fun d => d != own), digRx := x.digRx.filter (fun d => d != e),
            digDone := e :: x.digDone.filter fun d => !e.same d }
          (own.digest = e.digest → go = .next (s.withPeer y)) ∧
          (own.digest ≠ e.digest → go = .next (s.after
            { s.dev with peer := { y with mismatch := min 65535 (y.mismatch + 1) } }
            [.chain [(0x8110, BitVec.ofNat 32 own.stream)] none false []]))) ∧
        (s.dev.peer.digOwn.find? (DigEntry.same e) = none → s.work.digestRoom = true →
          go = .next (s.withPeer { x with digRx := x.digRx ++ [e] })))) ∧
    (s.acts = true →
      let y := { s.dev.peer with
        digOwn := s.dev.peer.digOwn.filter (fun d => !this d), digRx := s.dev.peer.digRx.filter (fun d => !this d) }
      exec (.digestWaitExpiry stream gen) s = .next (if s.dev.peer.digOwn.any this = true
        then s.after { s.dev with peer := { y with mismatch := min 65535 (y.mismatch + 1) } }
          [.chain [(0x8111, BitVec.ofNat 32 (stream % 65536))] none false []]
        else s.withPeer y))

/-- REJOIN_REQ, REJOIN_PASS_STEP, STATE, HELD, FILL_REQ, INSTALL_ACK (R573 to R578). The active block asked for a rejoin clears every
sync bit and begins its pass from stream 0; a step of it sends the next resident stream's state, or ends the pass. A fragment of a
transfer that is not complete is kept; a complete one of a resident stream stands in its inactive half, which becomes the active
one, with the transfer's generation, its sync bit set and an INSTALL_ACK queued. A HELD entry of a FREE stream makes it SPILLED and
partner-held. A FILL_REQ for a FREE stream is refused with 02h, one with FLAGS bit 0 asks for the stream's row of the pass.
Of the model: log entries 17, 75, 78, 79, 80. -/
def Obligations.Rejoining : Prop :=
  ∀ (link : Nat) (fr : RxFrame) (h : Hdr) (s : State),
    let x := s.dev.peer.heard link h
    let b := fr.bytes.drop 32
    let to_ := s.work.pickLink s.work.partnerPos 0
    s.work.peerMode = 1 →
    (s.receives link 10 fr h = true → exec (.rejoinReq link fr) s = .next (s.withPeer
      (if s.dev.peer.active = true ∧ h.src = s.work.partnerPos then { x with sync := [], pass := some ⟨0, []⟩, rjTold := false }
        else x))) ∧
    (∀ p, s.acts = true → s.work.paired s.work.partnerPos = true → s.dev.peer.pass = some p →
      let ahead := s.work.passStreams.filter fun kv => decide (p.next ≤ kv.1)
      (∀ kv rest m, ahead = kv :: rest → kv.2.st = .resident → (s.work.ctx kv.1) = kv.2 → s.work.model? kv.2.model = some m →
        let d := (s.work.sendState s.work.partnerPos kv.1 kv.2.gen false (s.work.stateTransfer kv.1 m)).d
        exec .rejoinPassStep s = .next (s.withDev { d with peer := { d.peer with pass := some { p with next := kv.1 + 1 } } })) ∧
      (ahead = [] → p.again = [] → exec .rejoinPassStep s = .next (s.withPeer { s.dev.peer with pass := none }))) ∧
    (s.acts = true → s.work.paired s.work.partnerPos = true → s.dev.peer.pass = none → s.dev.peer.asm = [] →
      exec .rejoinPassStep s = .next s) ∧
    (s.receives link 5 fr h = true → h.src = s.work.partnerPos → bitOf h.a 24 = false → bitsOf h.a 16 8 = 0 →
      let g := BitVec.ofNat 32 h.b
      let sid := h.a % 65536
      let old := s.dev.peer.asm.find? fun y => y.stream == sid && y.kind == 0 && y.gen == g
      let a : StateAsm := ⟨sid, g, 0, ((old.map StateAsm.frags).getD []).filter (fun f => f.1 != h.c) ++ [(h.c, b)]⟩
      let kept := { x with rjSeen := s.dev.peer.rejoin, asm := (s.dev.peer.asm.filter fun y => !y.same a) ++ [a] }
      (a.ready = none → exec (.stateFrame link fr) s = .next (s.withPeer kept)) ∧
      (∀ t m, a.ready = some t →
        let new := preambleEntry t
        let c := s.work.ctx sid
        s.work.live? new.model = some m → preambleOk sid { new with gen := g } m t = true → new.gen = g →
        c.st = .resident → c.model = new.model → sid < 65536 →
        ((s.work.sslot c.sslot).pagesOf (!c.half)).length = m.halfPages → ((s.work.sslot c.sslot).pagesOf (!c.half)).Nodup →
        ∃ u, exec (.stateFrame link fr) s = .next u ∧
          u.work.ctx sid = { c with half := !c.half, gen := g, sidx := new.sidx, spillCur := false } ∧
          u.work.halfBytes ((s.work.sslot c.sslot).pagesOf (!c.half)) 0 m.stateBytes = t.drop 64 ∧
          tabGet false u.dev.peer.sync sid = true ∧ tabGet false u.dev.peer.partner sid = false ∧
          (s.work.linkOn to_ = true → ∃ f ∈ u.dev.peer.txq, f.typ = 11 ∧ word32 f.bytes 16 = sid ∧ word32 f.bytes 20 = g.toNat) ∧
          (∀ r, r ≠ sid → u.work.ctx r = s.work.ctx r) ∧ u.dev.cores = s.dev.cores ∧ u.log = s.log ∧ u.tb = s.tb)) ∧
    (s.receives link 6 fr h = true → h.src = s.work.partnerPos → h.a = 1 → b.length = 16 →
      let sid := word32 b 0 % 65536
      let g := BitVec.ofNat 32 (word32 b 4)
      let model := word32 b 0 / 65536 % 256
      (s.work.live? model).isSome = true → (s.work.ctx sid).st = .free →
      ∃ u, exec (.held link fr) s = .next u ∧
        u.work.ctx sid = { s.work.ctx sid with
          st := .spilled, gen := g, sidx := BitVec.ofNat 48 (word64 b 8), model := model, spill := 0, spillCur := false } ∧
        tabGet false u.dev.peer.sync sid = true ∧ tabGet false u.dev.peer.partner sid = true ∧
        (s.work.linkOn to_ = true → ∃ f ∈ u.dev.peer.txq, f.typ = 11 ∧ word32 f.bytes 16 = sid ∧ word32 f.bytes 20 = g.toNat) ∧
        (∀ r, r ≠ sid → u.work.ctx r = s.work.ctx r) ∧ u.ram = s.ram ∧ u.log = s.log ∧ u.tb = s.tb) ∧
    (s.receives link 7 fr h = true → h.src = s.work.partnerPos → b.length = 16 →
      let sid := word32 b 0 % 65536
      (bitOf h.flags 0 = true → exec (.fillReq link fr) s = .next (s.withPeer { x with
        pass := let p := s.dev.peer.pass.getD ⟨65536, []⟩
          some { p with again := p.again.filter (fun r => r != sid) ++ [sid] } })) ∧
      (bitOf h.flags 0 = false → (s.work.ctx sid).st = .free →
        exec (.fillReq link fr) s = .next (s.withDev
          ((s.workOn { s.dev with peer := x }).refuseFill h.src sid (BitVec.ofNat 32 (word32 b 4)) 2).d))) ∧
    (s.receives link 11 fr h = true → h.src = s.work.partnerPos → exec (.installAck link fr) s =
      .next (s.withPeer { x with sync := tabSet false x.sync (h.a % 65536) true }))

/-- SPAN_DATA, SPAN_ACK, SPAN_ACK_TIMEOUT, SPAN_HELD_EXPIRY, FRAME_DISCARD (R553 to R555, R580, R581). A span store whose
step has begun on the owner core and passes its checks lands through the gather buffer and is acknowledged; one whose step
has not begun there is held, up to 256 KiB a link, beyond that as if never received. An acknowledgement without a code
completes the store; one that fails to come sends it again with its own SEQ, or after the tries fails its step with
SPAN_TIMEOUT. A held store whose deadline has passed on a valid timebase is dropped, counted and logged for the owner core,
and acknowledged with LATE_WINDOW (R364, R366, R481). A frame with a bad check sum, an old epoch or SEQ, or a SEQ already
seen is counted and changes nothing else but for the second acknowledgement of a span store. Of the model: log entries 81,
102. -/
def Obligations.SpanStores : Prop :=
  ∀ (link dst sid : Nat) (fr : RxFrame) (h : Hdr) (s : State),
    s.acts = true →
    let x := s.dev.peer.heard link h
    let b := fr.bytes.drop 32
    let span := spanOf link h b
    let slot := bitsOf span.addr 24 5
    let win := bitsOf span.addr 19 5
    let first := bitsOf span.addr 0 19 / 64
    let n := span.lines.length
    (s.receives link 8 fr h = true → s.work.peerMode = 2 → spanForm b = true →
      (∀ e, s.work.pairedStep span.job span.dl = some e → s.work.ownerBegun e span.addr = false) →
      exec (.spanData link fr) s = .next (if s.work.heldBytes link + 64 * span.lines.length ≤ 262144
        then s.withPeer { x with spanHeld := x.spanHeld ++ [span] } else s)) ∧
    (∀ e m img p v, s.receives link 8 fr h = true → s.work.peerMode = 2 → spanForm b = true →
      s.work.pairedStep span.job span.dl = some e → s.work.ownerBegun e span.addr = true → e.cores[slot]? = some p →
      p < s.dev.cores.length → s.work.model? (dModel e.desc) = some m → m.slots[slot]? = some img →
      img.windows[win]? = some v → v.valid = true → v.wr = true → v.mem = 0 → first + n ≤ v.len →
      let k := s.core p
      (∃ c, k.cur = some c ∧ c.ring = e.ring ∧ c.seq = e.seq ∧ c.checker = false ∧ c.begun = true ∧ c.ended = false) →
      tabGet false k.land.opens win = true → (∀ l, k.lineLocked 1 l = false) →
      let at_ := fun (o : Nat) => runFrom (o + 64 * (v.base + first)) span.lines.flatten
      let bad := fun (o : Nat) => ((List.range (64 * n)).filter fun i => bitOf span.poison (i / 16)).map fun i =>
        o + 64 * (v.base + first) + i
      let k' := (k.gatherPut true (at_ 0) (bad 0)).setCounter v.ctr (k.counter v.ctr + BitVec.ofNat 32 n)
      let s' := s.withCore p { k' with perf := { k'.perf with landed := (k.perf.landed + 1) % 2 ^ 64 } }
      let y := { x with
        outcomes := (link, h.src, h.seq, 0) :: x.outcomes.filter fun o => !(o.1 == link && o.2.1 == h.src && o.2.2.1 == h.seq) }
      ∃ r, exec (.spanData link fr) s = .next ((s'.withRam r).sending y
          ((s.workOn { s.dev with peer := x }).pickLink h.src link) h.src 9 { a := h.seq, b := 0 } []) ∧
        stores s.ram r 1 (at_ (p * 524288)) ∧ storesPoison s.ram r 1 (at_ (p * 524288)) (bad (p * 524288))) ∧
    (∀ o, s.receives link 9 fr h = true → h.b % 65536 = 0 →
      s.dev.peer.spanOut.find? (fun o => (o.dst == h.src && o.sid == h.a) && o.link == link) = some o →
      exec (.spanAck link fr) s = .next (s.withPeer { x with spanOut := dropFirst (fun y => y == o) x.spanOut })) ∧
    (∀ o, s.dev.peer.spanOut.find? (fun o => o.link == link && o.dst == dst && o.sid == sid) = some o →
      let go := exec (.spanAckTimeout sid link dst) s
      (o.tries < fld (s.dev.cfgW 0x810) 24 2 → go = .next (s.withPeer { s.dev.peer with
        retx := min 65535 (s.dev.peer.retx + 1),
        spanOut := modFirst (fun y => y == o) (fun y => { y with tries := y.tries + 1 }) s.dev.peer.spanOut,
        txq := (if s.work.linkOn o.link = true then s.dev.peer.txq ++ [⟨o.link, 1, 8, o.dst, 0, 0, s.work.ethHeader o.dst 1, o.frame⟩]
          else s.dev.peer.txq) })) ∧
      (fld (s.dev.cfgW 0x810) 24 2 ≤ o.tries →
        (s.work.exec? o.ring o.seq = none →
          go = .next (s.withPeer { s.dev.peer with spanOut := dropFirst (fun y => y == o) s.dev.peer.spanOut })) ∧
        (∀ e, s.work.exec? o.ring o.seq = some e → e.ph = .run →
          ∃ u, go = .next u ∧ u.completes o.ring o.seq ⟨0x6106, 0, 0⟩ ∧ u.ram = s.ram ∧ u.tb = s.tb))) ∧
    (s.tb.valid = false → exec .spanHeldExpiry s = .next s) ∧
    (∀ z, s.tb.valid = true → s.dev.peer.spanHeld.find? (fun y => decide (y.dl < s.tb.now.toNat)) = some z →
      let p := nth 0 s.dev.boot.coreMap (bitsOf z.addr 24 5)
      p < s.dev.cores.length →
      let detail := BitVec.ofNat 32 (bitsOf z.addr 24 5 * 2 ^ 24 + bitsOf z.addr 19 5 * 2 ^ 19 + p % 32 * 2 ^ 8)
      let s' := s.withCore p { s.core p with late := min 65535 ((s.core p).late + 1) }
      let y := { s.dev.peer with
        spanHeld := s.dev.peer.spanHeld.filter (fun y => y != z),
        outcomes := (z.link, z.src, z.sid, 0x2107) ::
          s.dev.peer.outcomes.filter fun o => !(o.1 == z.link && o.2.1 == z.src && o.2.2.1 == z.sid) }
      exec .spanHeldExpiry s = .next (s.after (s'.sending y (s.work.pickLink z.src z.link) z.src 9 { a := z.sid, b := 0x2107 } []).dev
        [raised [(0x2107, detail)] none])) ∧
    (s.work.judge link fr = .crcErr → exec (.frameDiscard link fr) s =
      .next (s.withPeer { s.dev.peer with crcErr := min 65535 (s.dev.peer.crcErr + 1) })) ∧
    (s.work.judge link fr = .late → exec (.frameDiscard link fr) s =
      .next (s.withPeer { s.dev.peer with late := min 65535 (s.dev.peer.late + 1) })) ∧
    (s.work.judge link fr = .dup h →
      let y := { s.dev.peer with dup := min 65535 (s.dev.peer.dup + 1) }
      (h.typ ≠ 8 → exec (.frameDiscard link fr) s = .next (s.withPeer y)) ∧
      (∀ o, h.typ = 8 → s.dev.peer.outcomes.find? (fun o => o.1 == link && o.2.1 == h.src && o.2.2.1 == h.seq) = some o →
        exec (.frameDiscard link fr) s = .next (s.sending y link h.src 9 { a := h.seq, b := o.2.2.2.toNat } []) ∧
        exec (.spanData link fr) s = exec (.frameDiscard link fr) s))

/-- GCL_ENTRY_CHANGE, LINK_FAULT_RECEIVED, FRAME_TRANSMIT_END (R546 to R548, R741). The gate list takes up the entry of the internal
timebase unless that is held or invalid. A link that carries no fault takes, once its frame is gone, the first frame of the
highest queue whose gate is open long enough; a disabled or faulty one sends nothing. Of the model: log entry 83. -/
def Obligations.LinkScheduling : Prop :=
  ∀ (link kind : Nat) (s : State),
    s.acts = true →
    let idle := { s.dev.peer with sending := s.dev.peer.sending.filter fun f => f.link != link }
    (exec .gclEntryChange s = .next (if s.work.gclOn = true ∧ s.tb.held = false ∧ s.tb.valid = true
      then s.withPeer { s.dev.peer with gcl := s.work.gclNow.1 } else s)) ∧
    (link < 2 → exec (.linkFaultReceived link kind) s =
      .next (s.withPeer { s.dev.peer with fault := tabSet 0 s.dev.peer.fault link (kind % 3) })) ∧
    ((s.dev.peer.txq.all fun f => f.typ != 5) = true →
      ((s.work.linkOn link = false ∨ tabGet 0 s.dev.peer.fault link ≠ 0) → exec (.frameTransmitEnd link) s = .next (s.withPeer idle)) ∧
      (∀ q f, s.work.linkOn link = true → tabGet 0 s.dev.peer.fault link = 0 → q < 4 →
        s.dev.peer.txq.find? (fun f => f.link == link && f.queue == q) = some f → s.work.gateOk q f.octets.length = true →
        (∀ r, r < 4 → q < r → ∀ g ∈ s.dev.peer.txq.find? (fun f => f.link == link && f.queue == r),
          s.work.gateOk r g.octets.length = false) →
        exec (.frameTransmitEnd link) s = .next (s.withPeer { idle with
          txq := dropFirst (fun g => g == f) idle.txq, sending := idle.sending ++ [f] })))

-- Security timers, start-up, resets --------------------------------------------------------------------------------------------------------

/-- AUTH_LOCKOUT_EXPIRY, PROPOSAL_EXPIRY, RNG_FAIL, TELEMETRY_WINDOW and QUIESCE_COMPLETE each complete, in every state in
which the block acts. The lockout ends (R637). A pending proposal that has expired is pending no longer, and its event is
entered in the ledger (R640, R648). A failed random source is logged once and no number is drawn from then on (R634).
TELEM_POWER takes the power of a window that the internal timebase has passed, the operating point's typical one in confidential
mode, and stays while the timebase holds (R662). Without a quiesce, or while another descriptor has begun and not ended, QUIESCE_COMPLETE changes nothing;
else, under item 04h the COUNTERSIGN completes first, and once its record is gone confidential mode begins with the key of
R656 and no write counted (R654); under item 05h the mode ends, or PROT_REFUSED where a model is loaded (R661); under item
06h the block is unveiled: keys, tables 04h to 11h, models, streams and the memories of the cores in service are gone
(R666). Fetching then resumes (R643). Of the model: log entry 14. -/
def Obligations.SecurityTimers : Prop :=
  ∀ (power : Nat) (s : State),
    s.acts = true →
    let opp := fld (s.dev.cfgW 0x200) 0 2
    let typical := if opp = 0 then 44 else if opp = 1 then 88 else 124
    let sec := fun (x : Sec) => { s.dev with sec := x }
    -- AUTH_LOCKOUT_EXPIRY
    exec .authLockoutExpiry s = .next (s.withDev (sec { s.dev.sec with lockout := false })) ∧
    -- PROPOSAL_EXPIRY
    (s.dev.sec.proposal = none → exec .proposalExpiry s = .next s) ∧
    (∀ p, s.dev.sec.proposal = some p → exec .proposalExpiry s = .next (s.withDev
      ((s.workOn (sec { s.dev.sec with proposal := none })).ledgerEvent 0x22 (p.id * 2 ^ 32)).d)) ∧
    -- RNG_FAIL
    (s.dev.sec.rngOk = false → exec .rngFail s = .next s) ∧
    (s.dev.sec.rngOk = true → exec .rngFail s =
      .next (s.after (sec { s.dev.sec with rngOk := false }) [raised [(0x710E, 0)] none])) ∧
    -- TELEMETRY_WINDOW
    let window := s.tb.now.toNat / 10000000
    (s.tb.held = true ∨ window ≤ s.dev.saf.telemWin → exec (.telemetryWindow power) s = .next s) ∧
    (s.tb.held = false → s.dev.saf.telemWin < window → exec (.telemetryWindow power) s = .next (s.withDev { s.dev with
      saf := { s.dev.saf with telem := (if s.dev.sec.conf then typical else min 255 power), telemWin := window } })) ∧
    -- QUIESCE_COMPLETE
    (s.dev.sec.quiesce = none → exec .quiesceComplete s = .next s) ∧
    (∀ q, s.dev.sec.quiesce = some q →
      let own := fun (x : Exec) => x.ring = q.ring ∧ x.seq = q.seq
      let go := fun (f : State → Prop) => ∃ u, exec .quiesceComplete s = .next u ∧ u.tb = s.tb ∧ f u
      let same := fun (u : State) => u.ram = s.ram ∧ u.dev.cores = s.dev.cores ∧ u.dev.arm = s.dev.arm ∧ u.dev.models = s.dev.models
      ((∃ x ∈ s.dev.rings.execs, x.begun = true ∧ ¬ own x) → exec .quiesceComplete s = .next s) ∧
      ((∀ x ∈ s.dev.rings.execs, x.begun = true → own x) →
        (s.work.exec? q.ring q.seq = none → q.item = 4 → go fun u =>
          same u ∧ u.log = s.log ∧ u.dev.sec.conf = true ∧ u.dev.sec.writes = 0 ∧ u.dev.sec.quiesce = none ∧
          u.dev.sec.confKey = hkdf (sliceAt q.value 97 32)
            (Config.p256Shared (sliceAt q.value 65 32) (sliceAt q.value 1 64)) (ascii "SQ32-CONF-v1") 32) ∧
        (∀ e, s.work.exec? q.ring q.seq = some e → e.ph = .work →
          (q.item = 4 → go fun u => same u ∧ u.dev.sec = s.dev.sec ∧ u.completes q.ring q.seq Outc.ok) ∧
          (q.item = 5 → s.dev.models ≠ [] → go fun u =>
            same u ∧ u.dev.sec = { s.dev.sec with quiesce := none } ∧ u.completes q.ring q.seq ⟨0x7107, 0, 0⟩) ∧
          (q.item = 5 → s.dev.models = [] → go fun u =>
            same u ∧ u.dev.sec = { s.dev.sec with conf := false, confKey := [], quiesce := none } ∧
            u.completes q.ring q.seq Outc.ok) ∧
          (q.item = 6 → go fun u => u.completes q.ring q.seq Outc.ok ∧
            u.dev.sec = { s.dev.sec with
              conf := false, confKey := [], keys := none, attest := none, unveiled := true, quiesce := none } ∧
            u.dev.models = [] ∧ (∀ j, u.work.ctx j = CtxEntry.init) ∧ (∀ a, u.ram.get 3 a = 0) ∧
            (∀ p m a, p ∈ s.dev.inService → m < 3 → a / memSize m = p → u.ram.get m a = 0) ∧
            (∀ p t, p ∈ s.dev.inService → 4 ≤ t → (u.core p).tables.active t = none) ∧
            (∀ p, p ∉ s.dev.inService → (s.core p).lost = true → u.core p = s.core p)))))

/-- KEY_RECORD_RECEIVED, KEY_RECORD_TIMEOUT, SELFTEST_DONE, FW_CHECKS_DONE (R671 to R686, R731, R732). A good key record
gives the keys, the anti-rollback value, the twelve credentials and the test repairs; a bad or missing one is KEY_RECORD,
without keys; outside KEYS, and always after unveiling, the key port is ignored (R668, R730); either way SELFTEST begins with the built-in tables in both banks. The self-test gives a macro's first eight
test repairs their spares and logs SPARE_OUT for more (R375, R379, R380), excludes its cores, and a shared fault is fatal;
else the block awaits its image, or loads it at once where GO is held, and sf_err shows no error any more (R620, R677). An
image that passes its checks stands in the Atelier's SRAM, is measured and starts the initial trim; another is BOOT_FAIL
with its code. Of the model: log entries 89, 97. -/
def Obligations.StartUp : Prop :=
  ∀ (b : List Byte) (bad : List (Nat × Nat)) (fails : List Nat) (s : State),
    s.acts = true →
    let started := { s.dev with
      cores := s.dev.cores.map fun k => { k with tables := CoreTables.shipped }, boot := { s.dev.boot with state := 2 } }
    let refused := s.after started [raised [(0x710F, 0)] none]
    let n := word32 b 0 % 65536
    (s.dev.boot.state = 1 →
      exec .keyRecordTimeout s = .next refused ∧
      (s.dev.sec.unveiled = false → keyRecordOk b = false → exec (.keyRecordReceived b) s = .next refused) ∧
      (s.dev.sec.unveiled = false → keyRecordOk b = true → exec (.keyRecordReceived b) s = .next (s.withDev { started with
        sec := { s.dev.sec with
          keys := some ⟨sliceAt b 4 64, sliceAt b 0x44 32, sliceAt b 0x64 32⟩, arv := BitVec.ofNat 32 (word32 b 0x84),
          creds := (List.range 12).map fun c => (word32 b (0x88 + 36 * c) % 4, sliceAt b (0x8C + 36 * c) 32) }
        saf := { s.dev.saf with
          testMap := ((List.range n).map fun i => BitVec.ofNat 32 (word32 b (0x238 + 4 * i))).filter repairEntryOk } }))) ∧
    (s.dev.boot.state ≠ 1 → exec .keyRecordTimeout s = .next s) ∧
    (s.dev.boot.state ≠ 1 ∨ s.dev.sec.unveiled = true → exec (.keyRecordReceived b) s = .next s) ∧
    (s.dev.boot.state = 2 →
      (s.dev.boot.go = false → (s.dev.saf.testMap.all fun e => decide ((s.dev.saf.testMap.filter fun x => macroOf x == macroOf e).length ≤ 8)) = true →
        ∃ u, exec (.selftestDone [] false) s = .next u ∧ u = s.withDev { s.dev with
          sec := { s.dev.sec with rngOk := true }, boot := { s.dev.boot with state := 3 } } ∧
          (s.log.err = false → s.log.safe = false → u.sfErrP = true ∧ u.sfErrN = false)) ∧
      (s.dev.boot.go = true → ∃ u, exec (.selftestDone [] false) s = .next u ∧ u.dev.boot.state = 4 ∧ u.dev.boot.go = false ∧
        (u.work.jobFor .firmware).isSome = true) ∧
      exec (.selftestDone bad true) s = .next (s.after s.dev [raised [(0xF108, unitDetail 0x14 0 0)] none]) ∧
      (bad.length ≤ 14 → s.log.react = [] → ∃ u, exec (.selftestDone bad false) s = .next u ∧
        (∀ p, p ∈ u.dev.boot.excluded ↔ p ∈ s.dev.boot.excluded ∨ ∃ x ∈ bad, p = x.1 % 32) ∧
        (∀ m, (u.dev.saf.testMap.filter fun x => macroOf x == m) = (s.dev.saf.testMap.filter fun x => macroOf x == m).take 8) ∧
        (∀ m, 8 < (s.dev.saf.testMap.filter fun x => macroOf x == m).length → s.log.errq = [] →
          ∃ x ∈ u.log.errq, x.code = 0x3104) ∧
        (bad ≠ [] → u.sfErrN = true))) ∧
    (∀ j, s.dev.boot.state = 4 → s.work.jobFor .firmware = some j → j.ready = true → j.bad = false →
      s.work.jobFor .repairRec = none → s.work.jobFor .retireRec = none → s.dev.boot.excluded = [] →
      let code := s.work.imageCode (some j.bytes)
      let image := runFrom 0 (if code = 0 then j.bytes else [])
      ∃ u, exec (.fwChecksDone fails) s = .next u ∧ u.dev.boot.coreMap = sprueOrder ∧
        u.dev.saf.repairs = s.dev.saf.repairs ∧ u.dev.saf.repRead = true ∧
        (∀ a, a < 524288 → u.ram.get 4 a = written image 0 a) ∧ (∀ m a, m < 4 → u.ram.get m a = s.ram.get m a) ∧
        (code = 0 → u.dev.boot.state = 5 ∧ u.dev.boot.fwver = BitVec.ofNat 32 (word32 j.bytes 4) ∧
          u.dev.boot.arv = BitVec.ofNat 32 (word32 j.bytes 8) ∧ u.dev.boot.meas = sha256 j.bytes ∧
          u.dev.cal.busy = true ∧ u.log = s.log) ∧
        (code ≠ 0 → u.dev.boot.state = 7 ∧ u.dev.boot.code = code ∧ u.dev.boot.fails = min 255 (s.dev.boot.fails + 1) ∧
          u.dev.cal.busy = s.dev.cal.busy))

/-- RST_N_FALL, RST_N_RISE, PWR_OK_FALL (R671, R692, R746, R748). With rst_n or pwr_ok low everything is lost, but for UNVEILED, which
stands until a power-off (R668, R730), and no command but RST_N_RISE has an effect; with the rise the block is as it is right after reset, but for the waiting commands and the model's own
counters of free values and random draws; while rst_n is high nothing rises. Either way sf_err shows error, low and high on its two
rails (R620, R677). Of the model: log entries 1, 9, 14, 96, 111. -/
def Obligations.Resets : Prop :=
  ∀ (s : State),
    let lost := fun (p open_ : Bool) => { State.reset with
      pending := s.pending
      dev := { Dev.reset with
        boot := { Boot.reset with powered := p }, free := s.dev.free
        sec := { Sec.reset with draws := s.dev.sec.draws, unveiled := open_ } } }
    exec .rstNFall s = .next (lost false s.dev.sec.unveiled) ∧ exec .pwrOkFall s = .next (lost false false) ∧
    (∀ p open_, (lost p open_).sfErrP = false ∧ (lost p open_).sfErrN = true) ∧
    (s.dev.boot.powered = false → exec .rstNRise s = .next (lost true s.dev.sec.unveiled)) ∧
    (s.dev.boot.powered = true → exec .rstNRise s = .next s) ∧
    (s.dev.boot.powered = false → s.linesOk = true → ∀ i : Instr, i ≠ .rstNRise → i ≠ .rstNFall → i ≠ .pwrOkFall → exec i s = .next s)

-- Configuration port and TAP ------------------------------------------------------------------------------------------------------------------

/-- CONFIG_WRITE and NUMSIG_LO_READ, LEDGER_SEQ_LO_READ (R17, R18, R726, R727, R758 to R761). In the safe state every write
but that of POP is dropped; a sealed register's write with CONFIG_SEALED, one that changes an S field while a ring is
enabled or a descriptor has begun with CFG_BUSY; a forbidden value with its code. A write that passes sets the register's
writable bits and no other word's. The reads latch the upper half of their pair. Of the model: log entries 85, 86. -/
def Obligations.RegisterAccess : Prop :=
  ∀ (off : Nat) (v : W32) (s : State),
    s.acts = true →
    let answer := fun (d : Dev) (e : Bool) => { d with cp := { d.cp with err := e } }
    let refuse := fun (c : W16) =>
      exec (.configWrite off v) s = .next (s.after (answer s.dev true) (if c = 0 then [] else [raised [(c, 0)] none]))
    let plain := off ∉ [0x100, 0x200, 0x300, 0x308, 0x314, 0x408, 0x510, 0x514, 0x518, 0x804, 0x808] ∧
      inRun off 0x1008 32 64 = false ∧ inRun off 0x2008 16 64 = false
    (s.log.safe = true → off ≠ 0x314 → refuse 0) ∧
    (s.log.safe = false → sealedReg off = true → s.dev.sec.sealedUp = true → refuse 0x7108) ∧
    (s.log.safe = false → (sealedReg off = true → s.dev.sec.sealedUp = false) →
      (s.work.changesS off v = true → s.work.idle = false → refuse 0x1020) ∧
      ((s.work.changesS off v = true → s.work.idle = true) →
        (Work.valueCode off v ≠ 0 → refuse (Work.valueCode off v)) ∧
        (Work.valueCode off v = 0 → plain → exec (.configWrite off v) s = .next (s.after (answer (s.dev.setFields off v) false) [])))) ∧
    (∀ o, (s.dev.setFields off v).cfgW o = if o = off then
        (s.dev.cfgW off &&& ~~~(BitVec.ofNat 32 (sMask off ||| lMask off))) ||| (v &&& BitVec.ofNat 32 (sMask off ||| lMask off))
      else s.dev.cfgW o) ∧
    exec .numsigLoRead s = .next (s.withDev { s.dev with
      cp := { s.dev.cp with rdata := 0x4F17D25B, err := false, numHi := some 0x6E3A0C91 } }) ∧
    exec .ledgerSeqLoRead s = .next (s.withDev { s.dev with cp := { s.dev.cp with
      rdata := BitVec.ofNat 32 s.dev.led.seq, err := false, ledHi := some (BitVec.ofNat 32 (s.dev.led.seq / 2 ^ 32)) } })

/-- BOOT_CTRL_GO, ST_CTRL_RETRIM, ST_CTRL_OPP, ARMT_CTX_SEL_WRITE, IRQ_PEND_CLEAR, ERRQ_PEND_CLEAR, SAFE_STATUS_ERR_CLEAR,
POP, SAFE_INJECT_GO, of writes that R758 to R761 let pass. GO is held before the block awaits its image and starts the
loading from there (R672); RETRIM starts a trim in READY (R469), a change of OPP sets NEED, while a fatal error is handled
too, and cores without a rate of their own take the point's (R457, R475); the selected context entry is latched (R297);
interrupt bits and ERR clear where the value says 1, and with ERR sf_err (R17, R541, R602, R620); POP removes the oldest
entry, and from an empty queue nothing (R615); SAFE_INJECT arms its fault (R623). Of the model: log entries 84, 88. -/
def Obligations.ControlWrites : Prop :=
  ∀ (v : W32) (hi : Bool) (s : State),
    s.acts = true → s.log.safe = false →
    let passes := fun (off : Nat) (v : W32) => s.work.judgeWrite off v = none
    let base := fun (off : Nat) (v : W32) =>
      let d := s.dev.setFields off v
      { d with cp := { d.cp with err := false } }
    let set := fun (i : Nat) => v ||| BitVec.ofNat 32 (2 ^ i)
    (passes 0x100 (set 0) →
      (s.dev.boot.state = 1 ∨ s.dev.boot.state = 2 → exec (.bootCtrlGo v) s = .next (s.after
        (let d := base 0x100 (set 0)
         { d with boot := { d.boot with go := true } }) [])) ∧
      (s.dev.boot.state = 3 ∨ s.dev.boot.state = 7 → ∃ u, exec (.bootCtrlGo v) s = .next u ∧ u.dev.boot.state = 4 ∧
        (u.work.jobFor .firmware).isSome = true ∧ u.log = s.log)) ∧
    (passes 0x200 (set 2) → fld (s.dev.cfgW 0x200) 0 2 = fld (set 2) 0 2 → s.dev.boot.state = 6 →
      exec (.stCtrlRetrim v) s = .next (s.after
        (let d := base 0x200 (set 2)
         { d with cal := { d.cal with busy := true } }) [])) ∧
    (passes 0x200 v → fld (s.dev.cfgW 0x200) 0 2 ≠ fld v 0 2 → bit v 2 = false →
      exec (.stCtrlOpp v) s = .next (s.after
        (let d := base 0x200 v
         { d with cal := { d.cal with need := true } }) []) ∧
      (∀ p, (s.core p).cal.rated = false → (base 0x200 v).brate p = oppRate (fld v 0 2))) ∧
    (∀ f : State, f = { s with log := { s.log with fatal := true } } → f.work.judgeWrite 0x200 v = none →
      fld (s.dev.cfgW 0x200) 0 2 ≠ fld v 0 2 → ∃ u, exec (.stCtrlOpp v) f = .next u ∧ u.dev.cal.need = true) ∧
    (passes 0x408 v → exec (.armtCtxSelWrite v) s = .next (s.after
      (let d := base 0x408 v
       { d with arm := { d.arm with latched := (s.work.ctx (fld v 0 16)).words } }) [])) ∧
    (passes (if hi then 0x514 else 0x510) v → exec (.irqPendClear hi v) s = .next (s.after
      (let d := base (if hi then 0x514 else 0x510) v
       { d with irq := { d.irq with pend := d.irq.pend &&& ~~~(if hi then v.setWidth 64 <<< 32 else v.setWidth 64) } }) [])) ∧
    (passes 0x518 (set 8) → exec (.errqPendClear v) s = .next (s.after
      (let d := base 0x518 (set 8)
       { d with irq := { d.irq with errqPend := false } }) [])) ∧
    (passes 0x300 (set 29) → exec (.safeStatusErrClear v) s = .next (s.after (base 0x300 (set 29)) [.clearErr]) ∧
      (s.dev.boot.powered = true → 3 ≤ s.dev.boot.state →
        (s.after (base 0x300 (set 29)) [.clearErr]).sfErrP = true ∧ (s.after (base 0x300 (set 29)) [.clearErr]).sfErrN = false)) ∧
    (passes 0x314 (set 0) → exec (.pop v) s = .next (s.after (base 0x314 (set 0)) [.pop])) ∧
    (passes 0x308 (set 31) → ∃ u, exec (.safeInjectGo v) s = .next u ∧
      u.dev.saf.armed = s.dev.saf.armed ++ [(fld v 24 4, fld v 16 5, injectArg (fld v 24 4) (fld v 0 16))] ∧
      u.dev.cores = s.dev.cores ∧ u.log = s.log ∧ u.ram = s.ram)

/-- SQ_ENABLE, SQ_DISABLE, CQ_ENABLE, CQ_DISABLE, of writes that R758 to R761 let pass (R492, R519, R629). An enabled
submission ring begins at entry 0 with sequence number 0, under a count of its disables that tells its descriptors from
those that still run (R492); a disabled one loses its session and its nonces; an enabled completion ring begins at entry 0
with the phase 1; a ring already enabled is not begun again, and a completion ring may be disabled only without a ring that
uses it, else RING_CONFIG. Of the model: log entries 84, 87. -/
def Obligations.RingRegisters : Prop :=
  ∀ (r : Nat) (v : W32) (s : State),
    s.acts = true → s.log.safe = false → r < 64 →
    let sq := 0x1008 + 32 * r
    let cq := 0x2008 + 16 * r
    let on := v ||| BitVec.ofNat 32 (2 ^ 31)
    let off := v &&& ~~~(BitVec.ofNat 32 (2 ^ 31))
    let done := fun (i : Instr) (f : State → Prop) => ∃ u, exec i s = .next u ∧ u.dev.cp.err = false ∧ u.ram = s.ram ∧
      u.dev.cores = s.dev.cores ∧ f u
    (s.work.judgeWrite sq on = none → bit (s.dev.cfgW sq) 31 = false → done (.sqEnable r v) fun u =>
      bit (u.dev.cfgW sq) 31 = true ∧ u.work.sq r = { s.work.sq r with
        head := 0, seq := (s.work.sq r).epoch * 2 ^ 32, stail := 0, issued := 0, badTail := [], fetchedAny := false }) ∧
    (s.work.judgeWrite sq on = none → bit (s.dev.cfgW sq) 31 = true → done (.sqEnable r v) fun u => u.work.sq r = s.work.sq r) ∧
    (s.work.judgeWrite sq off = none → bit (s.dev.cfgW sq) 31 = true → done (.sqDisable r v) fun u =>
      bit (u.dev.cfgW sq) 31 = false ∧ (u.work.sq r).epoch = (s.work.sq r).epoch + 1 ∧
      (u.work.sq r).queue = (s.work.sq r).queue ∧ u.dev.sec.sessions = s.dev.sec.sessions.filter (fun x => x.ring != r) ∧
      u.dev.sec.nonces = s.dev.sec.nonces.filter (fun x => x.1 != r)) ∧
    (s.work.judgeWrite cq on = none → bit (s.dev.cfgW cq) 31 = false → done (.cqEnable r v) fun u =>
      bit (u.dev.cfgW cq) 31 = true ∧ u.work.cq r = { s.work.cq r with tail := 0, phase := true, chead := 0, badHead := [] }) ∧
    (s.work.judgeWrite cq off = none → done (.cqDisable r v) fun u =>
      bit (u.dev.cfgW cq) 31 = false ∧ u.work.cq r = s.work.cq r) ∧
    (s.work.changesS cq off = false → Work.valueCode cq off = 0 → bit (s.dev.cfgW cq) 31 = true →
      (∃ q, q < 64 ∧ bit (s.dev.cfgW (0x1008 + 32 * q)) 31 = true ∧ fld (s.dev.cfgW (0x1008 + 32 * q)) 16 6 = r) →
      exec (.cqDisable r v) s = .next (s.after
        { s.dev with cp := { s.dev.cp with err := true } } [raised [(0x1006, 0)] none]))

/-- PAIR, REJOIN, PROMOTE, DEMOTE, PEER_RESYNC_GO, of writes that R758 to R761 let pass and that set no other action bit.
PAIR ends every pairing, whose frames are late from then on (R555), leaves REJOIN as it is (R562, R579) and starts an
attempt with one nonce, which needs a link key and random numbers (R556, R633, R634); REJOIN clears ACTIVE, sets the rejoin
and asks a paired partner (R573); PROMOTE and DEMOTE set and clear ACTIVE (R562); a resync asks a paired partner for the
stream's row (R578). Of the model: log entries 73, 74, 75, 78. -/
def Obligations.PeerControl : Prop :=
  ∀ (v : W32) (s : State),
    s.acts = true → s.log.safe = false →
    let only := fun (i : Nat) => fld v 0 4 ||| 2 ^ i = 2 ^ i
    let set := fun (i : Nat) => v ||| BitVec.ofNat 32 (2 ^ i)
    let base := fun (off : Nat) (v : W32) =>
      let d := s.dev.setFields off v
      { d with cp := { d.cp with err := false } }
    let peer := fun (off i : Nat) (x : Peer) => s.after { base off (set i) with peer := x } []
    (s.work.judgeWrite 0x804 (set 0) = none → only 0 → s.work.peerMode = 2 →
      let ended := fun (b : Nat) => { PeerPos.init with past := (s.dev.peer.at b).past || (s.dev.peer.at b).paired }
      (s.work.linkKey = none → ∃ u, exec (.pair v) s = .next u ∧ u.dev.cp.err = false ∧ u.dev.peer.rejoin = s.dev.peer.rejoin ∧
        ∀ b ∈ s.work.others, u.dev.peer.at b = ended b) ∧
      (s.work.linkKey ≠ none → s.dev.sec.rngOk = true → ∃ u, exec (.pair v) s = .next u ∧ u.dev.cp.err = false ∧ u.log = s.log ∧
        u.dev.sec.draws = s.dev.sec.draws + 1 ∧ u.dev.peer.rejoin = s.dev.peer.rejoin ∧
        ∀ b ∈ s.work.others, u.dev.peer.at b = { ended b with
          trying := true, own := s.work.helloPayload (s.work.random.1.take 16) })) ∧
    (s.work.judgeWrite 0x804 (set 1) = none → only 1 →
      let x := { s.dev.peer with active := false, rejoin := true, rjSeen := false }
      ((s.work.peerMode ≠ 1 ∨ s.work.paired s.work.partnerPos = false) → exec (.rejoin v) s = .next (peer 0x804 1 x)) ∧
      (s.work.peerMode = 1 → s.work.paired s.work.partnerPos = true → ∃ u, exec (.rejoin v) s = .next u ∧
        u.dev.peer.active = false ∧ u.dev.peer.rejoin = true ∧
        (s.work.linkOn (s.work.pickLink s.work.partnerPos 1) = true → ∃ f ∈ u.dev.peer.txq, f.typ = 10 ∧ f.dst = s.work.partnerPos))) ∧
    (s.work.judgeWrite 0x804 (set 2) = none → only 2 → exec (.promote v) s = .next (peer 0x804 2 { s.dev.peer with active := true })) ∧
    (s.work.judgeWrite 0x804 (set 3) = none → only 3 → exec (.demote v) s = .next (peer 0x804 3 { s.dev.peer with active := false })) ∧
    (s.work.judgeWrite 0x808 (set 16) = none →
      ((s.work.peerMode ≠ 1 ∨ s.work.paired s.work.partnerPos = false) →
        exec (.peerResyncGo v) s = .next (peer 0x808 16 s.dev.peer)) ∧
      (s.work.peerMode = 1 → s.work.paired s.work.partnerPos = true → s.work.linkOn (s.work.pickLink s.work.partnerPos 0) = true →
        ∃ u, exec (.peerResyncGo v) s = .next u ∧ ∃ f ∈ u.dev.peer.txq, f.typ = 7 ∧ f.dst = s.work.partnerPos ∧
          word32 (f.bytes.drop 32) 0 % 65536 = fld v 0 16))

/-- BYPASS, IDCODE, SQSTAT, SQCFG, SQMEM, SQHALT, TAP_RESET (R665, R743, R744). Each row is one scan: the instruction and what the
data register holds. Before unveiling SQCFG, SQMEM and SQHALT are BYPASS. After it SQCFG captures what the access before read and
makes the one shifted in, SQMEM captures the named line, SQHALT holds or releases the begin of steps.
Of the model: log entry 92. -/
def Obligations.TapScans : Prop :=
  ∀ (b : Bool) (x : BitVec 48) (y : BitVec 544) (s : State),
    s.linesOk = true → s.dev.boot.powered = true →
    let tap := fun (t : Tap) => s.withDev { s.dev with tap := t }
    let bypass := fun (b : Bool) => tap { s.dev.tap with ir := 0xFF, dr := b2n b }
    exec (.bypass b) s = .next (bypass b) ∧
    exec .idcode s = .next (tap { s.dev.tap with ir := 1, dr := 0x25332000 ||| (Config.tapMfg.toNat * 2 + 1) }) ∧
    exec .sqstat s = .next (tap { s.dev.tap with
      ir := 2, dr := (s.work.regValue 0x104).toNat * 2 ^ 32 + (s.work.regValue 0x300).toNat }) ∧
    exec .tapReset s = .next (tap { s.dev.tap with ir := 1 }) ∧
    (s.dev.sec.unveiled = false →
      exec (.sqcfg x) s = .next (bypass (x.getLsbD 47)) ∧ exec (.sqmem y) s = .next (bypass (y.getLsbD 543)) ∧
      exec (.sqhalt b) s = .next (bypass b)) ∧
    (s.dev.sec.unveiled = true →
      let off := 4 * bitsOf x.toNat 32 14
      let mem := bitsOf y.toNat 537 2
      let line := bitsOf y.toNat 512 25
      let core := bitsOf y.toNat 539 5
      (x.getLsbD 47 = false → off ∉ [0x008, 0x00C, 0x620, 0x624] → exec (.sqcfg x) s =
        .next (tap { ir := 0x10, dr := s.dev.tap.rdata.toNat, rdata := s.work.regValue off })) ∧
      (mem < 3 → 64 * line < memSize mem → exec (.sqmem y) s = .next (tap { s.dev.tap with
        ir := 0x11, dr := y.toNat / 2 ^ 512 * 2 ^ 512 + leNat (s.work.mreadN core mem (64 * line) 64) })) ∧
      ((mem = 3 ∨ memSize mem ≤ 64 * line) → exec (.sqmem y) s = .next (tap { s.dev.tap with ir := 0x11, dr := y.toNat })) ∧
      exec (.sqhalt b) s = .next (s.withDev { s.dev with
        rings := { s.dev.rings with halted := b }, tap := { s.dev.tap with ir := 0x12, dr := b2n b } }))

-- Memory ports ------------------------------------------------------------------------------------------------------------------------

/-- PORT_REQUEST_GRANT. A request already offered transfers once the port is ready (R711). Else, with a free id, the candidate with
the smallest key (T, DL, CL, Q) of R409 and R410 is offered under the id, and transfers at once where the port is ready: a first
retry is counted (R625), a STORE's write marks its step (R425). A grant to a dry stream of a real-time step is counted as it is made
(R427); a fill's requests have the deadline of the earliest descriptor that waits for it (R317), and nothing waits on a stream whose
step goes on past its deadline (R424). A
sealed write of a whole granule is sealed as it is issued, one of a part reads its granule first (R655 to R657); a request outside
the host windows is not issued and fails with HOST_WINDOW (R649); a retry goes under another id than before (R717). The attributes
of a request name its seal, its unit and its class (R722). The streams on the port are those with no record more to take
up or decode. Of the model: log entries 59, 64. -/
def Obligations.PortGrants : Prop :=
  ∀ (port id : Nat) (ready : Bool) (s : State),
    s.acts = true → s.log.safe = false →
    let w := s.work
    let now := s.tb.now.toNat
    let dry := fun (q : PortReq) => match w.fetchState q with
      | some (x, e, n) =>
        if n = 0 ∨ x.cmd.cbeats = 0 ∨ e.missed = true ∨ e.passed s.tb = true then 0
        else n * x.cmd.cbeats * 10 ^ 6 / max 1 (s.dev.brate x.core).toNat
      | none => 0
    let key := fun (q : PortReq) => [(now + dry q) / 64, if q.cl ≤ 1 then now else w.deadlineOf q, q.cl, q.q]
    let granted := fun (d : Dev) (q : PortReq) => match w.fetchState q with
      | some (_, e, 0) => if dRt e.desc then { d with pt := { d.pt with dry := satAdd 65535 d.pt.dry 1 } } else d
      | _ => d
    let moved := fun (d : Dev) (q : PortReq) =>
      let d := if q.tries = 1 then { d with ports := { d.ports with retried := satAdd 65535 d.ports.retried 1 } } else d
      match q.user with
      | .stream p k ep => match w.streamOf p k ep with
        | some x => if q.isWrite then { d with rings := { d.rings with
            execs := modFirst (isExec x.ring x.seq) (fun e => { e with wrote := true }) d.rings.execs } } else d
        | none => d
      | _ => d
    (∀ q, s.dev.ports.out.find? (fun q => q.port == port && !q.sent) = some q →
      exec (.portRequestGrant port id ready) s = if ready then
          .next (s.withDev (moved { s.dev with ports := { s.dev.ports with
            out := modFirst (· == q) (fun q => { q with sent := true }) s.dev.ports.out } } q))
        else .next s) ∧
    (∀ q st, s.dev.ports.out.find? (fun q => q.port == port && !q.sent) = none →
      id < 256 → (∀ x ∈ s.dev.ports.out, ¬ (x.port = port ∧ x.id = id)) → (port, id) ∉ s.dev.ports.dead →
      (s.dev.pt.streams.map fun x => (x.port, x.slot)).Nodup →
      (∀ x ∈ s.dev.pt.streams, x.port = port →
        x.cmd.items ≤ x.fed ∧ (x.cmd.isStore = true → x.lineQ ≠ []) ∧ (x.cmd.cmp = 0 ∨ x.dec ≠ none)) →
      (q, st) ∈ w.candidates port → (∀ c ∈ w.candidates port, c = (q, st) ∨ key q < key c.1) →
      (q.tries ≠ 0 → q.id = id → exec (.portRequestGrant port id ready) s = .next s) ∧
      ((q.tries ≠ 0 → q.id ≠ id) →
      let d := match st with
        | some x => { s.dev with pt := s.dev.pt.putStream x }
        | none => { s.dev with ports := { s.dev.ports with cands := dropFirst (· == q) s.dev.ports.cands } }
      let issued := fun (d : Dev) (q : PortReq) =>
        let q := { q with id := id, sent := ready }
        let d := granted { d with ports := { d.ports with out := d.ports.out ++ [q] } } q
        exec (.portRequestGrant port id ready) s = .next (s.withDev (if ready then moved d q else d))
      let sealed_ := s.dev.sec.conf = true ∧ q.user.plain = false ∧ q.isWrite = true ∧ q.tags = []
      (w.windowOk q = true →
        (¬ sealed_ → issued d q) ∧
        (sealed_ → q.whole = false → issued d { q with merge := true }) ∧
        (sealed_ → q.whole = true →
          let text := (List.range 256).map fun i => ((q.data.find? fun b => b.1 == i).map Prod.snd).getD 0
          let t := sealGranule s.dev.sec.confKey q.granule (((w.windowFor q).map HWin.num).getD 0) s.dev.sec.writes text
          issued { d with sec := { d.sec with writes := (d.sec.writes + 1) % 2 ^ 64 } }
            { q with data := runFrom 0 t.1, tags := t.2 })) ∧
      (w.windowOk q = false →
        let fails := raised [(0x710A, BitVec.ofNat 32 (q.addr / 65536))] none
        (q.user = .message ∨ q.user = .repair → exec (.portRequestGrant port id ready) s = .next (s.after d [fails])) ∧
        (∀ j off x, q.user = .job j off → q.isWrite = false → s.dev.ports.jobs.find? (fun x => x.j == j) = some x →
          (x.key = .doorbell ∨ x.key = .firmware) →
          ∃ b : List Byte, b.length = 64 * q.beats ∧ exec (.portRequestGrant port id ready) s = .next (s.after { d with
            free := d.free + 64 * q.beats
            ports := { d.ports with
              jobs := modFirst (fun x => x.j == j) (fun x => { x with
                pieces := x.pieces ++ [(off, b)], left := x.left - 1, bad := true,
                cause := (if x.cause = 0 then 0x710A else x.cause),
                detail := (if x.cause = 0 then BitVec.ofNat 32 (q.addr / 65536) else x.detail) }) d.ports.jobs } } [fails]))))) ∧
    ∀ q, w.reqAttr q % 8 = q.cl % 8 ∧ (w.reqAttr q / 32 = 1 ↔ s.dev.sec.conf = true ∧ q.user.plain = false) ∧
      w.reqAttr q / 8 % 4 = (if q.cl ≤ 1 then 2 else if q.cl = 2 ∨ q.cl = 6 then 1 else if q.cl ≤ 5 then 0 else 3)

/-- PORT_READ_RESPONSE, PORT_WRITE_RESPONSE, RETRY_BUDGET_EXPIRY, LEDGER_ENTRY_ACCEPTED. An error response is retried at
most PORT_RETRY.MAX times (R616), then the request fails, is counted and its user has the cause PORT_RETRY (R617, R618),
with bytes that the spec leaves open; one of a STORE whose step has ended is not issued again (R425). A poisoned answer is
never retried. Data reach the read or the stream they are for, those of a poisoned response too, which is 3130h for a stream
and marks its records' rows in operand layout (R420); an accepted write completes what waited for it: a ledger entry, a
completion record whose descriptor then is gone and whose interrupt bit sets (R539), the last `.out` write before a record
(R521). A response for an id not outstanding frees an id out of use or is PORT_STRAY (R718); one for a stream that has ended
is counted in PT_DISCARD (R425). An accepted ledger entry moves SEQ and the chain head on, and the next entry goes out
(R644, R646, R647). Of the model: log entries 38, 58, 59, 60. -/
def Obligations.PortResponses : Prop :=
  ∀ (port id status : Nat) (data : List Byte) (poison : Bool) (tags : List Byte) (s : State),
    s.acts = true →
    let w := s.work
    let read := exec (.portReadResponse port id data status poison tags) s
    let write := exec (.portWriteResponse port id status) s
    let expiry := exec (.retryBudgetExpiry port id) s
    let ports := fun (p : Ports) => { s.dev with ports := p }
    (w.outstanding port id = none → (port, id) ∈ s.dev.ports.dead →
      let freed := Host.Outcome.next (s.withDev (ports { s.dev.ports with dead := s.dev.ports.dead.filter (· != (port, id)) }))
      read = freed ∧ write = freed) ∧
    (w.outstanding port id = none → (port, id) ∉ s.dev.ports.dead →
      ∃ x, read = .next (s.after s.dev [raised [(0x310A, x)] none]) ∧ write = read) ∧
    (∀ q, w.outstanding port id = some q →
      let p := { s.dev.ports with out := dropFirst (· == q) s.dev.ports.out }
      let again := Host.Outcome.next (s.withDev (ports { p with cands := p.cands ++ [{ q with tries := q.tries + 1, sent := false }] }))
      let cause : W16 × W32 := (0x3106, BitVec.ofNat 32 ((q.tries + 1) * 2 ^ 28 + q.port * 65536 + q.id % 65536))
      let piece := fun (p : Ports) (off : Nat) (bytes : List Byte) (bad : Bool) (c : W16 × W32) (x : ReadJob) =>
        { p with jobs := modFirst (fun y => y.j == x.j) (fun x => { x with
            pieces := x.pieces ++ [(off, bytes)], left := x.left - 1, bad := x.bad || bad,
            cause := (if x.cause = 0 then c.1 else x.cause), detail := (if x.cause = 0 then c.2 else x.detail) }) p.jobs }
      let failed := fun (p : Ports) => { p with failed := satAdd 65535 p.failed 1 }
      let plainJob := fun (x : ReadJob) =>
        (match x.key with | .doorbell | .firmware | .descs _ _ _ | .fill _ => true | _ => false) = true
      let retry := min 2 (bitsOf (s.dev.cfgW 0x330).toNat 16 2)
      (w.orphan q = true → (match q.user with | .stream _ _ _ => true | _ => false) = true → q.isWrite = false → q.merge = false →
        read = .next (s.withDev { ports p with pt := { s.dev.pt with
          discard := BitVec.ofNat 32 (min (2 ^ 32 - 1) (s.dev.pt.discard.toNat + 1)) } })) ∧
      (w.orphan q = false → status ≠ 0 → w.deadlineEnds q = none → q.tries < retry → w.endedStore q = none →
        (q.isWrite = false → read = again) ∧ (q.isWrite = true → q.merge = false → write = again)) ∧
      (∀ x, w.orphan q = false → status ≠ 0 → w.deadlineEnds q = none → w.endedStore q = some x → q.isWrite = true → q.merge = false →
        ∃ u, write = .next u ∧ u.dev.ports.failed = s.dev.ports.failed ∧
          ∀ c ∈ u.dev.ports.cands, c ∈ s.dev.ports.cands ∨ ∃ a b k, c.user = .record a b k) ∧
      (∀ j off x, w.orphan q = false → q.isWrite = false → q.merge = false → q.user = .job j off →
        s.dev.ports.jobs.find? (fun x => x.j == j) = some x → plainJob x →
        let open_ := fun (p : Ports) => { ports p with free := s.dev.free + 64 * q.beats }
        (status ≠ 0 → retry ≤ q.tries → ∃ b, b.length = 64 * q.beats ∧
          read = .next (s.withDev (open_ (piece (failed p) off b true cause x)))) ∧
        (∃ b, b.length = 64 * q.beats ∧
          expiry = .next (s.withDev (open_ (piece (failed { p with dead := p.dead ++ [(port, id)] }) off b true cause x)))) ∧
        (status = 0 → s.dev.sec.conf = false →
          read = .next (s.withDev (ports (piece p off (sliceAt data 0 (64 * q.beats)) poison (0, 0) x)))) ∧
        (status = 0 → poison = true → s.dev.sec.conf = true → ∃ b, b.length = 64 * q.beats ∧
          read = .next (s.withDev (open_ (piece p off b true (0, 0) x))))) ∧
      (∀ a b ep x, q.user = .stream a b ep → q.cancelled = false → w.streamOf a b ep = some x → x.cmd.cmp = 0 →
        q.isWrite = false → q.merge = false → status = 0 → s.dev.sec.conf = false →
        let dirty := ((q.ents.map fun k => k / 2 ^ 42).eraseDups.filter fun t => t != idxTag).map fun t => (t % 256, t / 256)
        read = .next (s.after { ports p with pt := s.dev.pt.putStream { x with
            got := q.ents.foldl (fun g key => tabSet ([], false) g key
              (sliceAt (sliceAt data 0 (64 * q.beats)) (64 * (key % 2 ^ 42 - q.addr / 64)) 64, poison)) x.got
            bad := if poison = true ∧ x.cmd.lay = true then x.bad ++ dirty else x.bad } }
          (if poison then [raised [(0x3130, 0)] ((w.exec? x.ring x.seq).map Exec.who)] else []))) ∧
      (q.isWrite = true → q.merge = false → q.cancelled = false → status = 0 →
        (q.user = .message ∨ q.user = .repair ∨ q.user = .cast → write = .next (s.withDev (ports p))) ∧
        (q.user = .ledger → s.dev.led.entry ≠ none →
          write = .next (s.withDev { ports p with led := { s.dev.led with accepted := true } })) ∧
        (∀ a b ep x, q.user = .stream a b ep → w.streamOf a b ep = some x → x.lineQ ≠ [] → write = .next (s.withDev (ports p))) ∧
        (∀ r k e, q.user = .out r k → w.exec? r k = some e → e.passed s.tb = false →
          write = .next (s.withDev ((s.workOn (ports p)).settle r k).d)) ∧
        (∀ r k n e, q.user = .record r k n → w.exec? r k = some e → s.dev.rings.kills = [] →
          (∀ x ∈ s.dev.rings.execs, isFence x = false) → (∀ r, r < 64 → w.sqOn r = false ∨ (w.sq r).issued = (w.sq r).stail) →
          write = .next (s.after { ports p with
            rings := { s.dev.rings with execs := dropFirst (isExec r k) s.dev.rings.execs }
            arm := { s.dev.arm with noEvict := s.dev.arm.noEvict.filter fun x => !(x.1 == r && x.2.1 == k) }
            irq := if bit (w.cqCtrl n) 8 then { s.dev.irq with pend := s.dev.irq.pend ||| BitVec.ofNat 64 (2 ^ n) }
              else s.dev.irq } []))) ∧
      (q.user = .message ∨ q.user = .repair → q.cancelled = false → q.isWrite = true →
        expiry = .next (s.withDev (ports (failed { p with dead := p.dead ++ [(port, id)] }))))) ∧
    (∀ bytes it rest, s.dev.led.accepted = true → s.dev.led.entry = some bytes → s.dev.led.items = it :: rest → it.next = .event →
      let led := { s.dev.led with
        seq := s.dev.led.seq + 1, head := sha256 bytes, items := rest, entry := none, accepted := false,
        last := (s.dev.led.last ++ [bytes]).drop (s.dev.led.last.length + 1 - 64) }
      (rest = [] → (∀ e ∈ s.dev.rings.execs, dOpc e.desc = 0x40 → dFunc e.desc = 0x103 → e.stage ≠ 2) →
        exec .ledgerEntryAccepted s = .next (s.withDev { s.dev with led := led })) ∧
      (∀ it2 rest2, rest = it2 :: rest2 → w.ledgerOn = true →
        let b := ledgerBytes led.seq s.tb.now.toNat it2 led.head
        exec .ledgerEntryAccepted s = .next (s.withDev ((s.workOn { s.dev with led := { led with entry := some b } }).writeHost .ledger
          (s.dev.cfgAddr 0x610 + 64 * (led.seq % 2 ^ bitsOf (s.dev.cfgW 0x618).toNat 0 5)) b (some 0) (2 ^ 64 - 1) 7).d)))

-- Rings -------------------------------------------------------------------------------------------------------------------------------

/-- DOORBELL_POLL_TIMER, NUDGE, DOORBELL_PAGE_READ, DESCRIPTOR_FETCH, BATCH_LIST_READ. While a submission ring is enabled a
poll or a nudge issues one read of the page, a nudge during a read asks for one more (R497, R498). From a page that was
read, every enabled ring takes its STAIL and its CHEAD; a value beyond its ring is logged once and ignored (R499), and with
no submission ring enabled no further read goes out (R497). Fetched descriptors are numbered, modulo 2^32 and apart from
those of an earlier enable, and queued in ring order (R492, R493, R500); one that fails its CRC, opcode or form completes
with its code (R502, R503); a STEP's batch list is read (R509), and a list that names a stream twice ends it (R508). Of the
model: log entries 1, 55, 56. -/
def Obligations.DoorbellsAndFetch : Prop :=
  ∀ (r seq : Nat) (s : State),
    s.acts = true →
    let w := s.work
    let poll := fun (d : Dev) => ((s.workOn d).readHost .doorbell (s.dev.cfgAddr 0x500) 512 (some 0) 0 0).d
    let anyOn := ∃ k, k < 64 ∧ w.sqOn k = true
    let quiet := s.dev.rings.kills = [] ∧ (∀ x ∈ s.dev.rings.execs, isFence x = false) ∧
      ∀ k, k < 64 → w.sqOn k = false ∨ (w.sq k).issued = (w.sq k).stail
    let taken := fun (k : JobKey) => { s.dev with ports := { s.dev.ports with jobs := dropFirst (fun j => j.key == k) s.dev.ports.jobs } }
    let putSq := fun (d : Dev) (q : SqRing) => { d with rings := { d.rings with sq := tabSet SqRing.init d.rings.sq r q } }
    (anyOn → s.dev.sec.quiesce = none →
      exec .doorbellPollTimer s = .next (s.withDev (poll s.dev)) ∧
      (w.jobFor .doorbell = none → exec .nudge s = .next (s.withDev (poll s.dev))) ∧
      (w.jobFor .doorbell ≠ none →
        exec .nudge s = .next (s.withDev { s.dev with rings := { s.dev.rings with again := true } }))) ∧
    (¬ anyOn → exec .doorbellPollTimer s = .next s ∧ exec .nudge s = .next s) ∧
    (∀ j, w.jobFor .doorbell = some j → j.left = 0 → j.bad = false → (∀ x ∈ s.dev.rings.execs, x.ph ≠ .blocked) →
      let tail := fun k => bitsOf (word64 j.bytes (8 * k)) 0 16
      let head := fun k => bitsOf (word64 j.bytes (8 * k)) 32 16
      let badTail := fun k => w.sqOn k && decide (w.sqSize k ≤ tail k) && !(w.sq k).badTail.contains (tail k)
      let badHead := fun k => w.cqOn k && decide (w.cqSize k ≤ head k) && !(w.cq k).badHead.contains (head k)
      ∃ u, exec .doorbellPageRead s = .next u ∧
        u.dev = { u.dev with cfg := s.dev.cfg, cores := s.dev.cores, arm := s.dev.arm, models := s.dev.models, pt := s.dev.pt } ∧
        u.ram = s.ram ∧ u.dev.rings.execs = s.dev.rings.execs ∧ (¬ anyOn → u.dev.ports.cands = s.dev.ports.cands) ∧
        (∃ d, u = s.after d (List.replicate (countOf 64 badTail + countOf 64 badHead) (raised [(0x1007, 0)] none))) ∧
        ∀ k, k < 64 →
          (u.work.sq k).stail = (if w.sqOn k = true ∧ tail k < w.sqSize k then tail k else (w.sq k).stail) ∧
          (u.work.sq k).badTail = (if badTail k then tail k :: (w.sq k).badTail else (w.sq k).badTail) ∧
          (u.work.sq k).queue = (w.sq k).queue ∧ (u.work.sq k).head = (w.sq k).head ∧ (u.work.sq k).seq = (w.sq k).seq ∧
          u.work.cq k = { w.cq k with
            chead := if w.cqOn k = true ∧ head k < w.cqSize k then head k else (w.cq k).chead
            badHead := if badHead k then head k :: (w.cq k).badHead else (w.cq k).badHead }) ∧
    (∀ first n j, quiet → w.jobFor (.descs r first n) = some j →
      s.dev.ports.jobs.find? (fun j => match j.key with | .descs a _ _ => a == r | _ => false) = some j →
      j.left = 0 → j.bad = false → w.takeArmedArg 8 r = none →
      let q := w.sq r
      let ds := (List.range (j.len / 64)).map fun i => sliceAt j.bytes (64 * i) 64
      let d0 := taken (.descs r first n)
      let number := fun (m : Nat) => q.seq / 2 ^ 32 * 2 ^ 32 + (q.seq % 2 ^ 32 + m) % 2 ^ 32
      let next := fun (m : Nat) (more : List QDesc) => { q with
        head := (q.head + m) % w.sqSize r, seq := number m, queue := q.queue ++ more, fetchedAny := true }
      let sound := fun (d : List Byte) => descCrcOk d = true ∧ knownOpc (dOpc d) = true ∧ formatOk d = true ∧
        (dOpc d = 0x40 → knownFunc (dFunc d) = true)
      ((∀ d ∈ ds, sound d ∧ dOpc d ≠ 1) → ds ≠ [] → exec (.descriptorFetch r) s = .next (s.withDev
        (putSq d0 (next ds.length (ds.zipIdx.map fun x => ⟨number x.2, x.1, none⟩))))) ∧
      (∀ d, ds = [d] → sound d → dOpc d = 1 → exec (.descriptorFetch r) s = .next (s.withDev
        ((s.workOn (putSq d0 (next 1 [⟨q.seq, d, none⟩]))).readHost (.batch r q.seq) (dBlist d) (16 * dLen d)
          (some (r % 8)) 0 1).d)) ∧
      (∀ d, ds = [d] →
        let completes := fun (c : W16) => exec (.descriptorFetch r) s =
          .next (s.withDev ((s.workOn (putSq d0 (next 1 []))).unbegun r q.seq d c false).d)
        (descCrcOk d = false → completes 0x1001) ∧
        (descCrcOk d = true → knownOpc (dOpc d) = false → completes 0x1003) ∧
        (descCrcOk d = true → knownOpc (dOpc d) = true → (formatOk d = false ∨ dOpc d = 0x40 ∧ knownFunc (dFunc d) = false) →
          completes 0x1002))) ∧
    (∀ j q, w.jobFor (.batch r seq) = some j → j.left = 0 → (w.sq r).queue.find? (fun q => q.seq == seq) = some q →
      let d0 := taken (.batch r seq)
      let gone := putSq d0 { w.sq r with queue := (w.sq r).queue.filter fun x => x.seq != seq }
      let ids := (List.range (dLen q.desc)).map fun i => (batchEntry j.bytes i).1
      (j.bad = true → exec (.batchListRead r seq) s =
        .next (s.withDev ((s.workOn gone).unbegunWith r seq q.desc ⟨0x3105, j.cause, j.detail⟩ false).d)) ∧
      (j.bad = false → ¬ ids.Nodup → exec (.batchListRead r seq) s =
        .next (s.withDev ((s.workOn gone).unbegun r seq q.desc 0x210A false).d)) ∧
      (j.bad = false → ids.Nodup → exec (.batchListRead r seq) s = .next (s.withDev (putSq d0 { w.sq r with
        queue := (w.sq r).queue.map fun y => if y.seq = seq then { y with batch := some j.bytes } else y }))))

-- Descriptors -------------------------------------------------------------------------------------------------------------------------

/-- The 28 descriptor rows, before the begin. A ring's next descriptor that its session does not allow completes without beginning:
ROLE_DENIED without a session, below the role its opcode or function asks for (TABLE_LOCKED for a TLOAD of slots 0 to 3), or
without its class's ROLE_RIGHTS bit (R510, R628, R630). A STEP, CHUNK or BIWIN also does so when its model is not loaded, its form
is not the model's (R268 to R270), a stream is bound to another model (R307), a core of it is lost (R52) or the checker's copy
finds no cores (R595). A model that a KILL is unloading is not found any more (R537). A row does nothing to a ring whose next
descriptor is another's, or of a job whose KILL awaits its ledger entry, or that holds none. Of the model: log entries 8, 94, 108. -/
def Obligations.DescriptorBegins : Prop :=
  ∀ (i : Instr) (r opc func : Nat) (q : QDesc) (s : State),
    descCommand i = some (r, opc, func) → s.acts = true →
    let w := s.work
    let refused := fun (c : W16) => exec i s = .next (s.withDev ((s.workOn (s.popped r)).unbegun r q.seq q.desc c false).d)
    let free := opc = 0x3F ∨ opc = 0x40 ∧ (func = 0x100 ∨ func = 0x101)
    let role := roleNeeded q.desc
    ((w.sq r).queue = [] → exec i s = .next s) ∧
    ((w.sq r).queue.head? = some q → descMatches opc func q.desc = false ∨ w.killHeld (dJob q.desc) = true → exec i s = .next s) ∧
    (s.mayStart r q = true → descMatches opc func q.desc = true →
      (¬ free → w.session r = none → refused 0x7100) ∧
      (∀ ses, ¬ free → w.session r = some ses → ses.role < role → refused (if opc = 0x21 ∧ role = 3 then 0x7110 else 0x7100)) ∧
      (∀ ses b, ¬ free → w.session r = some ses → role ≤ ses.role → rightsBit q.desc = some b →
        (s.dev.cfgW (0x604 + 4 * (ses.role - 1))).getLsbD b = false → refused 0x7100) ∧
      (w.roleCheck r q.desc = 0 → opc = 1 ∨ opc = 2 ∨ opc = 3 →
        (w.live? (dModel q.desc) = none → refused 0x2109) ∧
        ∀ m, w.live? (dModel q.desc) = some m →
          ((opc = 3 ↔ m.layers.any Layer.bi = false) → refused 0x1053) ∧
          (opc = 2 → m.layers.any Layer.bi = false → (∃ l ∈ m.layers, l.cmax < dLen q.desc) → refused 0x1051) ∧
          (opc = 3 → m.layers.any Layer.bi = true → (dLen q.desc = 0 ∨ ∃ l ∈ m.layers, l.bi = true ∧ l.w < dLen q.desc) →
            refused 0x1052) ∧
          (modeCode m q.desc = 0 →
            ((∃ l ∈ q.lanes, (w.ctx l.1).st ≠ .free ∧ (w.ctx l.1).model ≠ m.handle) → refused 0x2109) ∧
            ((∀ l ∈ q.lanes, (w.ctx l.1).st = .free ∨ (w.ctx l.1).model = m.handle) →
              let n := m.slots.length
              ((∃ p ∈ s.dev.boot.coreMap.take n, (s.core p).lost = true) → refused 0x8104) ∧
              ((∀ p ∈ s.dev.boot.coreMap.take n, (s.core p).lost = false) → w.redundant m.handle = true →
                s.dev.inService.length < 2 * n → refused 0x103F)))))

/-- What a begun descriptor does at once, where its deadline has not passed. NOP completes, and its record, with SEQ, JOB, OPC and
the phase, is written to the entry at the tail (R517, R519, R520). FENCE completes once every earlier descriptor of its ring has,
and, with TEN, every one of the target ring up to its number, which it waits for until the ring has fetched it (R531). KILL of a job
that does not exist completes; of one that does, it is in progress from here on and its ledger entry goes out (R538), and without a
ledger it fails with LEDGER_FAIL (R534, R645). TFENCE asks every core for a switch, or waits for earlier TLOADs (R254, R259).
WLOAD, and TLOAD once no switch or resync is outstanding, read their images (R513, R258). The 15 MGMT functions read their request,
or complete with DESC_FORMAT where it or the response buffer is too short (R516); WIN_COUNTS answers at once where no request is
given (R364). Of the model: log entry 1. -/
def Obligations.DescriptorEffects : Prop :=
  ∀ (i : Instr) (r opc func : Nat) (q : QDesc) (s : State),
    descCommand i = some (r, opc, func) → s.begins r q = true → descMatches opc func q.desc = true →
    let w := s.work
    let e := s.begunExec r q
    let with_ := fun (e : Exec) => s.begun r e
    let done := fun (o : Outc) => ∃ u, exec i s = .next u ∧ s.onlyRings u ∧ u.completes r q.seq o
    let reads := fun (e : Exec) (a n : Nat) =>
      exec i s = .next (s.withDev ((s.workOn (with_ e)).readHost (.desc r q.seq) a n none (2 ^ 64 - 1) 7).d)
    let waits := exec i s = .next (s.withDev (with_ { e with ph := .wait }))
    let noFence := s.dev.rings.kills = [] ∧ ∀ x ∈ s.dev.rings.execs, isFence x = false
    (opc = 0x3F → done Outc.ok ∧
      (let k := fld (s.dev.cfgW (0x1008 + 32 * r)) 16 6
       let c := w.cq k
       let n := 2 ^ fld (s.dev.cfgW (0x2008 + 16 * k)) 0 4
       let a := s.dev.cfgAddr (0x2000 + 16 * k) + 32 * c.tail
       let rec_ := leBytes 4 (0x3F00 + (if c.phase then 128 else 0)) ++ leBytes 4 q.seq ++ leBytes 4 (dJob q.desc * 65536 + r) ++
         List.replicate 20 0
       a % 32 = 0 → w.effectsDone e = true →
       ∃ u, exec i s = .next u ∧ u.dev.ports = { s.dev.ports with
           cands := s.dev.ports.cands ++ [{ PortReq.base with
             user := .record r q.seq k, port := r % 8, isWrite := true, addr := a / 64 * 64,
             data := rec_.zipIdx.map (fun x => (a % 64 + x.2, x.1)), dl := 2 ^ 64 - 1, cl := 7, q := s.dev.ports.order }]
           order := s.dev.ports.order + 1 } ∧
         u.work.cq k = { c with
           tail := (c.tail + 1) % n, phase := if (c.tail + 1) % n = 0 then !c.phase else c.phase })) ∧
    (opc = 0x30 → noFence →
      ((∀ x ∈ s.dev.rings.execs, x.ring ≠ r) → fenceTen e = false → done Outc.ok) ∧
      (let f : Exec := { e with ph := .wait }
       let aim := w.sq (fenceRing e)
       let known := fenceTen e = true ∧ aim.fetchedAny = true ∧ serialLe (fenceSeq e) ((aim.seq + 2 ^ 32 - 1) % 2 ^ 32) = true
       let late := upTo (aim.seq / 2 ^ 32) (fenceSeq e)
       ((∃ x ∈ s.dev.rings.execs, x.ring = r ∧ x.seq ≠ q.seq ∧ upTo (q.seq / 2 ^ 32) (q.seq % 2 ^ 32) x.seq = true) →
         (known → exec i s = .next (s.withDev (with_ { f with stage := 1, bankEp := aim.seq / 2 ^ 32 }))) ∧
         (¬ known → exec i s = .next (s.withDev (with_ f)))) ∧
       (fenceTen e = true → ¬ known → exec i s = .next (s.withDev (with_ f))) ∧
       (known → fenceRing e ≠ r → (∀ x ∈ s.dev.rings.execs, x.ring ≠ r) →
         (∀ x ∈ s.dev.rings.execs, x.ring = fenceRing e → late x.seq = false) → (∀ y ∈ aim.queue, late y.seq = false) →
         done Outc.ok))) ∧
    (opc = 0x31 →
      let there := (∃ m ∈ s.dev.models, m.job = dTjob q.desc) ∨
        ∃ x ∈ s.dev.rings.execs, x.begun = true ∧ dJob x.desc = dTjob q.desc ∧ ¬ (x.ring = r ∧ x.seq = q.seq)
      let it : LedItem := ⟨0x12, e.role, e.cred, 15, r, dJob q.desc,
        BitVec.ofNat 64 (dTjob q.desc + if dUnload q.desc then 65536 else 0), .action r q.seq⟩
      (¬ there → done Outc.ok) ∧
      (there → (∀ k ∈ s.dev.rings.kills, k.1 ≠ dTjob q.desc) →
        (s.ledgerReady = true → ∃ u, exec i s = .next u ∧ s.asksLedger u it ∧
          u.dev.rings = { (with_ e).rings with kills := s.dev.rings.kills ++ [(dTjob q.desc, r, q.seq)] }) ∧
        (w.ledgerOn = false → s.dev.led.items = [] → s.dev.led.entry = none →
          (∀ x ∈ s.dev.rings.execs, ¬ (dOpc x.desc = 0x31 ∧ x.ph = .wait)) → done ⟨0x7109, 0, 0⟩)) ∧
      (there → (∃ k ∈ s.dev.rings.kills, k.1 = dTjob q.desc) → waits)) ∧
    (opc = 0x22 →
      let loading := ∃ x ∈ s.dev.rings.execs, dOpc x.desc = 0x21 ∧ x.order < s.dev.rings.nextOrder ∧ (x.ph = .wait ∨ x.ph = .work)
      let d := with_ { e with stage := 1, bankEp := s.dev.rings.fences + 1 }
      (¬ loading → (∀ x ∈ s.dev.rings.execs, dOpc x.desc ≠ 0x22) →
        (∃ p ∈ s.dev.inService, (s.core p).tables.switches ≤ s.dev.rings.fences) →
        exec i s = .next (s.withDev { d with rings := { d.rings with fences := s.dev.rings.fences + 1 } })) ∧
      (loading → waits)) ∧
    (opc = 0x20 →
      (dW q.desc 0x18 ≠ 0 → reads { e with stage := 1 } (word64 q.desc 0x10) (dW q.desc 0x18)) ∧
      (dW q.desc 0x18 = 0 → done ⟨0x1011, 0, 0⟩)) ∧
    (opc = 0x21 →
      let settled := ∀ p ∈ s.dev.inService, s.dev.rings.fences ≤ (s.core p).tables.switches ∧ (s.core p).tables.resync = false
      (settled → dW q.desc 0x18 ≠ 0 → reads { e with stage := 1 } (word64 q.desc 0x10) (dW q.desc 0x18)) ∧
      (¬ settled → waits)) ∧
    (∀ need cap, opc = 0x40 →
      (func, need, cap) ∈ [(1, 4, 0), (2, 8, 0), (3, 4, 0), (4, 0, 64), (0x100, 4, 32), (0x101, 100, 0), (0x102, 0, 0),
        (0x103, 32, 0), (0x104, 4, 36), (0x105, 36, 0), (0x106, 0, 0), (0x107, 0, 2048), (0x200, 0, 16), (0x201, 4, 0),
        (0x202, 12, 0)] →
      (mRlen q.desc < need ∨ mRcap q.desc < cap → done ⟨0x1002, 0, 0⟩) ∧
      (need ≤ mRlen q.desc → cap ≤ mRcap q.desc → mRlen q.desc ≠ 0 →
        reads { e with stage := 1 } (mReq q.desc) (mRlen q.desc)) ∧
      (func = 4 → mRlen q.desc = 0 → 64 ≤ mRcap q.desc →
        (s.dev.sec.conf = true → done ⟨0x710C, 0, 0⟩) ∧
        (s.dev.sec.conf = false →
          let bytes := (List.range 32).flatMap fun p => leBytes 2 (s.core p).late
          let d := with_ { e with stage := 1 }
          ∃ u, exec i s = .next u ∧ s.onlyRings u ∧ u.completes r q.seq Outc.ok ∧
            u.dev.ports = ((s.workOn d).writeHost (.out r q.seq) (mRsp q.desc) bytes (some (r % 8)) (2 ^ 64 - 1) 7).d.ports)))

/-- What the MGMT functions do once PORT_READ_RESPONSE brings the last piece of their request, outside confidential mode: `b` are its
bytes. TABLE_READ answers with the active image of slots 0 to 3 (R248); STREAM_DRIFT and STREAM_RESTORE take their turn on the
stream and ask for their ledger entry (R303, R304, R330); CHALLENGE draws a nonce unless locked out (R635, R637); AUTH is judged by
R636 and the nonce expires; CLOSE, PROPOSE, COUNTERSIGN, RETIRE and CAST_REGION ask for their entries (R629, R640, R641, R681,
R696), a COUNTERSIGN of item 04h with the key pair it binds (R653); WITHDRAW ends its own proposal (R640); RETIRE_READ answers with
the record (R681); ATTEST waits for the ledger and then builds its certificate and asks for its entry (R651, R652); PERF_READ answers
with 64 bytes a core, exact counters only to the higher roles (R663).
Of the model: log entries 44, 51, 61, 63, 65. -/
def Obligations.ManagementRequests : Prop :=
  ∀ (port tag : Nat) (data : List Byte) (tags : List Byte) (s : State) (q : PortReq) (x : ReadJob) (e : Exec) (r k off : Nat),
    let w := s.work
    s.acts = true → w.outstanding port tag = some q → q.user = .job x.j off → q.isWrite = false → q.merge = false →
    q.cancelled = false → s.dev.ports.jobs.find? (fun y => y.j == x.j) = some x → w.jobFor (.desc r k) = some x → x.left = 1 →
    x.bad = false → w.exec? r k = some e → e.passed s.tb = false → s.dev.sec.conf = false → dOpc e.desc = 0x40 →
    let b := { x with pieces := x.pieces ++ [(off, sliceAt data 0 (64 * q.beats))] }.bytes
    let read := exec (.portReadResponse port tag data 0 false tags) s
    let func := dFunc e.desc
    let job := dJob e.desc
    let base := fun (f : Exec → Exec) => { s.dev with
      ports := { s.dev.ports with
        out := dropFirst (· == q) s.dev.ports.out, jobs := dropFirst (fun y => y.key == .desc r k) s.dev.ports.jobs }
      rings := { s.dev.rings with execs := modFirst (isExec r k) (fun e => f { e with data := b }) s.dev.rings.execs } }
    let stage := fun (n : Nat) => base fun e => { e with stage := n }
    let sec := fun (d : Dev) (x : Sec) => { d with sec := x }
    let ends := fun (d : Dev) (c : W16) => read = .next (s.withDev ((s.workOn d).finishCode r k c).d)
    let answers := fun (d : Dev) (bytes : List Byte) => bytes.length ≤ mRcap e.desc →
      read = .next (s.withDev (((s.workOn d).writeHost (.out r k) (mRsp e.desc) bytes (some (r % 8)) (2 ^ 64 - 1) 7).finish r k
        Outc.ok (BitVec.ofNat 32 bytes.length) 0).d)
    let asks := fun (d : Dev) (it : LedItem) => read = .next (s.withDev ((s.workOn d).ledgerPut it).d)
    let entry := fun (action arg : Nat) => (⟨action, e.role, e.cred, 15, r, job, BitVec.ofNat 64 arg, .action r k⟩ : LedItem)
    let nonces := s.dev.sec.nonces.filter fun n => n.1 != r
    (func = 1 →
      let t := bitsOf (word32 b 0) 0 4
      (4 ≤ t → s.dev.inService ≠ [] → ends (base id) 0x1002) ∧
      (∀ p ps img, t < 4 → s.dev.inService = p :: ps → (s.core p).tables.active t = some img → answers (base id) img)) ∧
    (func = 2 ∨ func = 3 →
      let t := word32 b 0 % 65536
      let st := (w.ctx t).st
      let d := base fun e => { e with ph := .wait, stage := 2 }
      let refuse : W16 := if func = 2 then (if st = .free then 0x2102 else if st = .quarantined then 0x2103 else 0)
        else if st ≠ .quarantined then 0x2102 else if t ∈ s.dev.arm.ctxBad then 0x2103 else 0
      (func = 2 → bitsOf (word32 b 0) 16 4 = 0 → ends (base id) 0x1002) ∧
      ((func = 2 → bitsOf (word32 b 0) 16 4 ≠ 0) →
        (st = .busy ∨ st = .filling ∨ st = .spilling → read = .next (s.withDev d)) ∧
        (st ≠ .busy → st ≠ .filling → st ≠ .spilling → (∀ y ∈ s.dev.rings.execs, y.order < e.order → y.wants t = false) →
          (refuse ≠ 0 → ends d refuse) ∧
          (refuse = 0 → asks (base fun e => { e with ph := .wait, stage := 3 }) (entry 0x13 (t + func * 65536)))))) ∧
    (func = 4 → answers (base id) ((List.range 32).flatMap fun p => leBytes 2 (s.core p).late)) ∧
    (func = 0x100 →
      (s.dev.sec.lockout = true → ends (sec (base id) { s.dev.sec with nonces := nonces }) 0x7102) ∧
      (s.dev.sec.lockout = false → s.dev.sec.rngOk = false → ends (sec (base id) { s.dev.sec with nonces := nonces }) 0x710E) ∧
      (s.dev.sec.lockout = false → s.dev.sec.rngOk = true →
        let n := sliceAt (Config.random s.dev.sec.draws) 0 32
        answers (sec (base id) { s.dev.sec with
          draws := s.dev.sec.draws + 1, nonces := nonces ++ [(r, bitsOf (word32 b 0) 0 4, n)] }) n)) ∧
    (func = 0x101 →
      let c := word32 b 0
      let key := sliceAt b 4 32
      let cred := nth (0, []) s.dev.sec.creds c
      let good := ∃ n ∈ s.dev.sec.nonces.find? (fun n => n.1 == r), n.2.1 = c ∧ c < 16 ∧ cred.1 ≠ 0 ∧ sha256 key = cred.2 ∧
        Config.ed25519Verify key (ascii "SQ32-AUTH-v1" ++ n.2.2 ++ [w8 r, w8 c]) (sliceAt b 36 64) = true
      let tried := { s.dev.sec with nonces := nonces }
      let failed := { tried with
        fails := min 4 (s.dev.sec.fails + 1), lockout := s.dev.sec.lockout || decide (3 ≤ s.dev.sec.fails) }
      (¬ good → read = .next (s.withDev (((s.workOn (sec (base id) failed)).ledgerPut
        ⟨0x3, e.role, e.cred, 15, r, job, BitVec.ofNat 64 c, .event⟩).finishCode r k 0x7101).d)) ∧
      (good → w.ledgerOn = false → read = .next (s.withDev (((s.workOn (sec (base id) failed)).ledgerPut
        ⟨0x3, e.role, e.cred, 15, r, job, BitVec.ofNat 64 c, .event⟩).finishCode r k 0x7109).d)) ∧
      (good → w.ledgerOn = true →
        asks (sec (stage 3) tried) ⟨0x2, cred.1, c, 15, r, job, BitVec.ofNat 64 cred.1, .action r k⟩)) ∧
    (func = 0x102 → asks (stage 3) (entry 0x4 0)) ∧
    (func = 0x103 →
      (s.dev.sec.keys = none → ends (base id) 0x710D) ∧
      (s.dev.sec.keys ≠ none → s.dev.sec.rngOk = false → ends (base id) 0x710E) ∧
      (s.dev.sec.keys ≠ none → s.dev.sec.rngOk = true → s.dev.led.items ≠ [] → read = .next (s.withDev (stage 2)))) ∧
    (func = 0x104 →
      let item := word32 b 0
      let low := 1 ≤ item ∧ item ≤ 6 ∧ e.role < itemRole item
      (low → ends (base id) 0x7100) ∧
      (¬ low → w.proposalPending = true → ends (base id) 0x7106) ∧
      (¬ low → w.proposalPending = false → (valueOk item (b.drop 4) = false ∨ w.itemReady item (b.drop 4) = false) →
        ends (base id) 0x7107) ∧
      (¬ low → w.proposalPending = false → valueOk item (b.drop 4) = true → w.itemReady item (b.drop 4) = true →
        let n := s.dev.sec.nextId
        asks (sec (base fun e => { e with stage := 3, result := BitVec.ofNat 32 n }) { s.dev.sec with nextId := (n + 1) % 2 ^ 32 })
          (entry 0x20 (item + n * 2 ^ 32)))) ∧
    (func = 0x105 →
      (s.dev.sec.proposal = none → ends (base id) 0x7103) ∧
      ∀ p, s.dev.sec.proposal = some p →
        let gone := sec (base id) { s.dev.sec with proposal := none }
        let fails := fun (c : W16) => read = .next (s.withDev (((s.workOn gone).ledgerPut
          ⟨0x22, e.role, e.cred, 15, r, job, BitVec.ofNat 64 (p.id * 2 ^ 32), .event⟩).finishCode r k c).d)
        (p.id ≠ word32 b 0 → ends (base id) 0x7103) ∧
        (p.id = word32 b 0 → (e.cred = p.cred ∨ e.role < 2) → fails 0x7104) ∧
        (p.id = word32 b 0 → e.cred ≠ p.cred → 2 ≤ e.role → sliceAt b 4 32 ≠ p.digest → fails 0x7105) ∧
        (p.id = word32 b 0 → e.cred ≠ p.cred → 2 ≤ e.role → sliceAt b 4 32 = p.digest → w.commitReady p.item p.value = false →
          fails 0x7107) ∧
        (p.id = word32 b 0 → e.cred ≠ p.cred → 2 ≤ e.role → sliceAt b 4 32 = p.digest → w.commitReady p.item p.value = true →
          p.item ≠ 4 →
          asks (sec (base fun e => { e with stage := 3, result := BitVec.ofNat 32 p.id, data := leBytes 4 p.item ++ p.value })
              { s.dev.sec with proposal := none })
            ⟨0x21, (nth (0, []) s.dev.sec.creds p.cred).1, p.cred, e.cred, r, job,
              BitVec.ofNat 64 (p.item + leNat (p.digest.take 4) * 2 ^ 32), .action r k⟩)) ∧
    (func = 0x106 →
      (s.dev.sec.proposal = none → ends (base id) 0x7100) ∧
      ∀ p, s.dev.sec.proposal = some p →
        (¬ (p.ring = r ∧ p.cred = e.cred) → ends (base id) 0x7100) ∧
        (p.ring = r → p.cred = e.cred → read = .next (s.withDev (((s.workOn (sec (base id) { s.dev.sec with
          proposal := none })).ledgerPut ⟨0x22, e.role, e.cred, 15, r, job, BitVec.ofNat 64 (p.id * 2 ^ 32), .event⟩).finishCode
          r k 0).d))) ∧
    (func = 0x200 → s.dev.saf.retRec ≠ [] → answers (base id) s.dev.saf.retRec) ∧
    (func = 0x201 →
      let p := bitsOf (word32 b 0) 0 5
      let may := s.dev.cfgAddr 0x118 ≠ 0 ∧ p ∈ s.dev.inService ∧ 2 ≤ s.dev.inService.length
      (¬ may → ends (base id) 0x1002) ∧
      (may → asks (stage 3) (entry 0x41 (s.dev.inService.length - 1)))) ∧
    (func = 0x202 →
      asks (stage 3) (entry 0x44 (bitsOf (word32 b 8) 0 16 +
        (word32 b 0 + bitsOf (word32 b 4) 0 16 * 2 ^ 32) / 4096 * 65536))) ∧
    (∀ p pair, func = 0x105 → s.dev.sec.proposal = some p → p.item = 4 → s.dev.sec.attest = some pair → p.id = word32 b 0 →
      e.cred ≠ p.cred → 2 ≤ e.role → sliceAt b 4 32 = p.digest → w.commitReady 4 p.value = true →
      asks (sec (base fun e => { e with
          stage := 3, result := BitVec.ofNat 32 p.id, data := leBytes 4 4 ++ p.value ++ pair.1 ++ pair.2 })
          { s.dev.sec with proposal := none })
        ⟨0x21, (nth (0, []) s.dev.sec.creds p.cred).1, p.cred, e.cred, r, job,
          BitVec.ofNat 64 (4 + leNat (p.digest.take 4) * 2 ^ 32), .action r k⟩) ∧
    (func = 0x103 → s.dev.sec.keys ≠ none → s.dev.sec.rngOk = true → e.ph = .work → s.dev.led.items = [] → s.dev.led.entry = none →
      (∀ y ∈ s.dev.rings.execs, ¬ (dOpc y.desc = 0x40 ∧ dFunc y.desc = 0x103 ∧ y.stage = 2)) →
      let drawn := fun i => sliceAt (Config.random (s.dev.sec.draws + i)) 0 32
      let serial := match (drawn 0).take 16 with
        | [] => []
        | h :: t => (h &&& 0x7F) :: t
      let body := certBody serial (Config.p256Public (drawn 1))
        ⟨sliceAt b 0 32, s.dev.boot.arv, s.dev.boot.meas, w.tablesHash, w.configHash, s.dev.led.seq, s.dev.led.head⟩
      let cert := certOf body (Config.p256Sign ((s.dev.sec.keys.map KeyRecord.classKey).getD []) (drawn 2) (sha256 body))
      if mRcap e.desc < cert.length then ends (stage 2) 0x1002
      else asks (sec (base fun e => { e with stage := 3, data := drawn 1 ++ sliceAt b 0 32 ++ cert })
          { s.dev.sec with draws := s.dev.sec.draws + 3 })
        (entry 0x30 (leNat ((sha256 cert).take 8)))) ∧
    (func = 0x107 → 2048 ≤ mRcap e.desc → ∃ (bytes : List Byte) (n : Nat), bytes.length = 2048 ∧
      read = .next (s.withDev (((s.workOn { base id with free := n }).writeHost (.out r k) (mRsp e.desc) bytes (some (r % 8))
        (2 ^ 64 - 1) 7).finish r k Outc.ok 2048 0).d) ∧
      ∀ i p, i < 32 → s.dev.inService[i]? = some p →
        let counter := fun j => leNat (sliceAt bytes (64 * i + 8 * j) 8)
        let f := (s.core p).perf
        (2 ≤ e.role → counter 1 = f.mmaBeats % 2 ^ 64 ∧ counter 3 = f.vops % 2 ^ 64 ∧ counter 6 = f.flits % 2 ^ 64 ∧
          counter 7 = f.landed % 2 ^ 64) ∧
        (e.role < 2 → ∀ j, j < 6 → counter j % 1024 = 0))

/-- What LEDGER_ENTRY_ACCEPTED lets a descriptor's privileged action do (R645): the session of an AUTH begins (R628, R638),
that of a CLOSE ends (R629), a PROPOSE's proposal is pending (R640), a COUNTERSIGN of items 01h to 03h sets its registers
(R642), a STREAM_DRIFT sets the drift fields (R330), a STREAM_RESTORE gives the stream back (R303), an ATTEST's key pair is
the latest and its certificate is written (R651, R653), a WLOAD's model is loaded, but for the weights of a core out of
service (R514, R515, R56), unless a KILL of its job waits to end it, a TLOAD may write, a KILL locks the job's lines, whose
gather entries go, releases the streams of its models and unloads them (R535 to R537, R382), a RETIRE rewrites the record
and takes the core out of service (R681), a CAST_REGION sets the region (R696). Of the model: log entries 50, 62, 65, 108,
109. -/
def Obligations.PrivilegedActions : Prop :=
  ∀ (s : State) (bytes : List Byte) (it : LedItem) (e : Exec) (r k : Nat),
    let w := s.work
    s.acts = true → s.dev.led.accepted = true → s.dev.led.entry = some bytes → s.dev.led.items = [it] →
    it.next = .action r k → w.exec? r k = some e → (e.ph = .work ∨ e.ph = .wait) → e.passed s.tb = false →
    (∀ x ∈ s.dev.rings.execs, dOpc x.desc = 0x40 → dFunc x.desc = 0x103 → x.stage ≠ 2) →
    let b := e.data
    let func := dFunc e.desc
    let t := bitsOf (word32 b 0) 0 16
    let led := { s.dev.led with
      seq := s.dev.led.seq + 1, head := sha256 bytes, items := [], entry := none, accepted := false,
      last := (s.dev.led.last ++ [bytes]).drop (s.dev.led.last.length + 1 - 64) }
    let base := { s.dev with led := led }
    let sec := fun (x : Sec) => { base with sec := x }
    let go := exec .ledgerEntryAccepted s
    let ends := fun (d : Dev) (c : W16) => go = .next (s.withDev ((s.workOn d).finishCode r k c).d)
    let answers := fun (d : Dev) (bs : List Byte) => bs.length ≤ mRcap e.desc →
      go = .next (s.withDev (((s.workOn d).writeHost (.out r k) (mRsp e.desc) bs (some (r % 8)) (2 ^ 64 - 1) 7).finish r k
        Outc.ok (BitVec.ofNat 32 bs.length) 0).d)
    let withCtx := fun (c : CtxEntry) => { base with arm := { s.dev.arm with ctx := tabSet CtxEntry.init s.dev.arm.ctx t c } }
    (dOpc e.desc = 0x40 →
      (func = 2 → (w.ctx t).st ≠ .free → (w.ctx t).st ≠ .quarantined →
        ends (withCtx { w.ctx t with
          driftK := bitsOf (word32 b 0) 16 4, driftEn := bitOf (word32 b 0) 20,
          dlo := BitVec.ofNat 16 (word32 b 4), dhi := BitVec.ofNat 16 (word32 b 4 / 65536) }) 0) ∧
      (func = 3 → (w.ctx t).st = .quarantined → t ∉ s.dev.arm.ctxBad →
        ends (withCtx { w.ctx t with
          prun := 0, noslot := false, st := if (w.ctx t).noslot then .spilled else .resident }) 0) ∧
      (func = 0x101 → let c := word32 b 0
        ends (sec { s.dev.sec with
          sessions := (s.dev.sec.sessions.filter fun x => x.ring != r) ++ [⟨r, c, (nth (0, []) s.dev.sec.creds c).1⟩]
          fails := 0
          sealedUp := true }) 0) ∧
      (func = 0x102 → ∃ u, go = .next u ∧ u.completes r k Outc.ok ∧ u = s.withDev { base with
        rings := u.dev.rings, ports := u.dev.ports,
        sec := { s.dev.sec with sessions := s.dev.sec.sessions.filter fun x => x.ring != r } }) ∧
      (func = 0x103 → (∀ p, s.dev.sec.proposal = some p → p.item ≠ 4) →
        answers (sec { s.dev.sec with attest := some (b.take 32, sliceAt b 32 32) }) (b.drop 64)) ∧
      (func = 0x104 →
        answers (sec { s.dev.sec with proposal := some ⟨e.result.toNat, r, e.cred, word32 b 0, b.drop 4, sha256 b⟩ })
          (leBytes 4 e.result.toNat ++ sha256 b)) ∧
      (func = 0x105 → word32 b 0 ≤ 3 → ends (base.setItem (word32 b 0) (b.drop 4)) 0) ∧
      (func = 0x201 → let p := bitsOf (word32 b 0) 0 5
        let old := s.dev.saf.retRec
        s.dev.cfgAddr 0x118 ≠ 0 → p ∈ s.dev.inService → 2 ≤ s.dev.inService.length → p < s.dev.cores.length →
        ∃ u, go = .next u ∧ (u.core p).lost = true ∧ u.dev.saf.retRec =
          retireBytes ((if retireRecOk old then word32 old 4 else 0) ||| 2 ^ p)
            (((if retireRecOk old then word32 old 8 else 0) + 1) % 2 ^ 32)) ∧
      (func = 0x202 →
        let put := fun (d : Dev) (off i : Nat) => d.setFields off (BitVec.ofNat 32 (word32 b i))
        ends (put (put (put base 0x120 0) 0x124 4) 0x128 8) 0)) ∧
    (dOpc e.desc = 0x20 → w.killHeld (dJob e.desc) = true → go = .next (s.withDev { base with rings := { s.dev.rings with
      execs := modFirst (isExec r k) (fun e => { e with stage := 3 }) s.dev.rings.execs } })) ∧
    (dOpc e.desc = 0x20 → w.killHeld (dJob e.desc) = false →
      let m := modelOf b e.result.toNat (dJob e.desc)
      ∃ u, go = .next u ∧ u.completes r k Outc.ok ∧ u.dev.models = s.dev.models ++ [m] ∧
        (∀ mem a, mem < 4 → mem ≠ 0 → u.ram.get mem a = s.ram.get mem a) ∧
        ((∀ img ∈ m.slots, 64 * (img.wbase + img.wlines) ≤ 1310720) → s.dev.boot.coreMap.Nodup →
          ∀ (i p a : Nat) (img : SlotImg), m.slots[i]? = some img → s.dev.boot.coreMap[i]? = some p → a < 64 * img.wlines →
            (∀ l, (s.core p).lineLocked 0 l = false) →
            u.ram.get 0 (p * 1310720 + 64 * img.wbase + a) = if (s.core p).lost then s.ram.get 0 (p * 1310720 + 64 * img.wbase + a)
              else nth 0 (sliceAt b (word32 (slotRec b i) 0x18) (word32 (slotRec b i) 0x1C)) a) ∧
        (∀ p, p < s.dev.cores.length →
          (u.core p).lastModel = if (s.core p).lastModel = e.result.toNat then 0 else (s.core p).lastModel) ∧
        (∀ p, (u.core p).threads = (s.core p).threads ∧ (u.core p).tables = (s.core p).tables) ∧ u.log = s.log) ∧
    (dOpc e.desc = 0x21 → go = .next (s.withDev { base with rings := { s.dev.rings with
      execs := modFirst (isExec r k) (fun e => { e with stage := 3 }) s.dev.rings.execs } })) ∧
    (dOpc e.desc = 0x31 → s.dev.rings.kills = [(dTjob e.desc, r, k)] → (∀ n, (w.sq n).queue = []) →
      (∀ x ∈ s.dev.rings.execs, dJob x.desc = dTjob e.desc → dOpc x.desc = 0x31 ∧ x.begun = true) →
      (∀ x ∈ s.dev.rings.execs, dOpc x.desc = 0x31 → x.ph = .wait → dTjob x.desc ≠ dTjob e.desc) →
      (s.dev.models.map Model.handle).Nodup → (∀ m ∈ s.dev.models, m.dead = false) →
      let mine := fun (h : Nat) => ∃ m ∈ s.dev.models, m.job = dTjob e.desc ∧ m.handle = h
      let unused := (∀ kv ∈ s.dev.arm.ctx, mine kv.2.model → kv.2.st = .free) ∧
        ∀ x ∈ s.dev.rings.execs, isStepOpc (dOpc x.desc) = true → ¬ mine (dModel x.desc)
      ∃ u, go = .next u ∧
        (dUnload e.desc = true → unused →
          u.completes r k Outc.ok ∧ u.dev.models = s.dev.models.filter fun m => m.job != dTjob e.desc) ∧
        (dUnload e.desc = false → u.completes r k Outc.ok ∧ u.dev.models = s.dev.models) ∧
        (dUnload e.desc = true → tabWf CtxEntry.init s.dev.arm.ctx = true → ∀ j, mine (w.ctx j).model →
          ((w.ctx j).st = .resident ∨ (w.ctx j).st = .spilled ∨ (w.ctx j).st = .quarantined → u.work.ctx j = CtxEntry.init) ∧
          ((w.ctx j).st = .filling ∨ (w.ctx j).st = .spilling → j ∈ u.dev.arm.dropped)) ∧
        ∀ (m : Model) (i p : Nat) (img : SlotImg), m ∈ s.dev.models → m.job = dTjob e.desc →
          s.dev.boot.coreMap[i]? = some p → m.slots[i]? = some img →
          p < s.dev.cores.length → (s.core p).lost = false → (img.asBase, img.asLen) ∈ (u.core p).locks.lines ∧
            ∀ g ∈ (u.core p).gather, ¬ (img.asBase ≤ g.line ∧ g.line < img.asBase + img.asLen))

-- Steps -------------------------------------------------------------------------------------------------------------------------------

/-- STEP, CHUNK and BIWIN as they begin, and DESCRIPTOR_RESUME of one that waits, where no earlier descriptor still has to
apply its row to one of its streams (R304). A lane on a RESIDENT stream whose generation is the expected one becomes BUSY
and holds its step index and generation; one on a FREE or QUARANTINED stream is absent with its code (R303, R306, R307). A
step none of whose lanes waits is ready for its cores, a CHUNK or BIWIN with an absent lane completes with the lane's code
(R306); a generation mismatch ends the step and leaves every stream as it was (R309). An absent lane has its stream's step
index too (R76). A stream that is BUSY, FILLING or SPILLING makes the step wait. A resumed TLOAD reads its image once no
switch or resync is outstanding (R258); a WLOAD that a KILL held back is loaded once that is over. Of the model: log entries
8, 57, 108. -/
def Obligations.StepLanes : Prop :=
  ∀ (s : State),
    let w := s.work
    -- the step `e` of the units `d` applies its rows to its lanes
    let takes := fun (i : Instr) (d : Dev) (e : Exec) =>
      let c := fun (l : Lane) => w.ctx l.stream
      let at_ := fun (l : Lane) (st : StreamSt) => (c l).st = st
      let stale := fun (l : Lane) => at_ l .resident ∧ l.egv = true ∧ (c l).gen.toNat ≠ l.expgen
      let sound := fun (l : Lane) => at_ l .resident → (c l).model = dModel e.desc ∧ ¬ stale l
      let taken := fun (l : Lane) =>
        if (c l).st = .resident then { l with ph := .busy, sidx := (c l).sidx.toNat, gen := (c l).gen.toNat }
        else if (c l).st = .free then { l with ph := .absent, code := (0x2102 : W16), sidx := (c l).sidx.toNat }
        else { l with ph := .absent, code := (0x2103 : W16), sidx := (c l).sidx.toNat }
      let settled := ∀ l ∈ e.lanes, at_ l .resident ∨ at_ l .free ∨ at_ l .quarantined
      let ctxs := fun (u : State) => ∀ j, u.work.ctx j =
        if (∃ l ∈ e.lanes, l.stream = j) ∧ (w.ctx j).st = .resident then
          { w.ctx j with st := .busy, lastUse := BitVec.ofNat 32 (bitsOf s.tb.now.toNat 10 32) }
        else w.ctx j
      (∀ l ∈ e.lanes, l.ph = .wait) → (e.lanes.map Lane.stream).Nodup → e.ph = .wait → e.passed s.tb = false →
      (∀ l ∈ e.lanes, ∀ y ∈ s.dev.rings.execs, y.order < e.order → y.wants l.stream = false) →
      (settled → (∀ l ∈ e.lanes, sound l) →
        (dOpc e.desc = 1 ∨ (∀ l ∈ e.lanes, at_ l .resident) →
          ∃ u, exec i s = .next u ∧ ctxs u ∧ u.work.exec? e.ring e.seq = some { e with ph := .ready, lanes := e.lanes.map taken } ∧
            u = s.withDev { d with rings := u.dev.rings, arm := { s.dev.arm with ctx := u.dev.arm.ctx } }) ∧
        (∀ l, dOpc e.desc ≠ 1 → e.lanes = [l] → ¬ at_ l .resident →
          ∃ u, exec i s = .next u ∧ u.completes e.ring e.seq ⟨if (c l).st = .free then 0x2102 else 0x2103, 0, 0⟩ ∧
            ∀ j, u.work.ctx j = w.ctx j)) ∧
      (settled → (∀ l ∈ e.lanes, at_ l .resident → (c l).model = dModel e.desc) → (∃ l ∈ e.lanes, stale l) →
        ∃ u, exec i s = .next u ∧ u.completes e.ring e.seq ⟨0x2101, 0, 0⟩ ∧ ∀ j, u.work.ctx j = w.ctx j) ∧
      ((∀ l ∈ e.lanes, at_ l .busy ∨ at_ l .filling ∨ at_ l .spilling) → e.lanes ≠ [] → exec i s = .next (s.withDev d))
    (∀ (i : Instr) (r opc func : Nat) (q : QDesc), descCommand i = some (r, opc, func) → s.begins r q = true →
      descMatches opc func q.desc = true → opc = 1 ∨ opc = 2 ∨ opc = 3 →
      stepPre q w = 0 →
      let twin := ∃ x ∈ s.dev.rings.execs, isStepOpc (dOpc x.desc) = true ∧ dJob x.desc = dJob q.desc ∧ dDl x.desc = dDl q.desc ∧
        (x.ph = .wait ∨ x.ph = .ready ∨ x.ph = .run ∨ x.ph = .commit)
      ∀ pairable, (pairable = 1 ∧ dDl q.desc ≠ 2 ^ 64 - 1 ∧ ¬ twin ∨ pairable = 0 ∧ (dDl q.desc = 2 ^ 64 - 1 ∨ twin)) →
        let e : Exec := { s.begunExec r q with
          ph := .wait, stage := pairable,
          lanes := q.lanes.map fun l => { Lane.init with stream := l.1, egv := l.2.1, expgen := l.2.2 } }
        takes i (s.begun r e) e) ∧
    (∀ (r seq : Nat) (e : Exec), s.acts = true → w.exec? r seq = some e → isStepOpc (dOpc e.desc) = true →
      takes (.descriptorResume r seq) s.dev e) ∧
    (∀ (r seq : Nat) (e : Exec), s.acts = true → w.exec? r seq = some e → dOpc e.desc = 0x21 → e.ph = .wait → e.passed s.tb = false →
      let settled := ∀ p ∈ s.dev.inService, s.dev.rings.fences ≤ (s.core p).tables.switches ∧ (s.core p).tables.resync = false
      (¬ settled → exec (.descriptorResume r seq) s = .next s) ∧
      (settled → dW e.desc 0x18 ≠ 0 → exec (.descriptorResume r seq) s = .next (s.withDev ((s.workOn { s.dev with rings := { s.dev.rings with
          execs := modFirst (isExec r seq) (fun e => { e with ph := .work, stage := 1 }) s.dev.rings.execs } }).readHost
        (.desc r seq) (word64 e.desc 0x10) (dW e.desc 0x18) none (2 ^ 64 - 1) 7).d))) ∧
    (∀ (r seq : Nat) (e : Exec), s.acts = true → w.exec? r seq = some e → dOpc e.desc = 0x20 → e.ph = .work → e.passed s.tb = false →
      (e.stage ≠ 3 ∨ w.killHeld (dJob e.desc) = true → exec (.descriptorResume r seq) s = .next s) ∧
      (e.stage = 3 → w.killHeld (dJob e.desc) = false → ∃ u, exec (.descriptorResume r seq) s = .next u ∧
        u.completes r seq Outc.ok ∧ u.dev.models = s.dev.models ++ [modelOf e.data e.result.toNat (dJob e.desc)]))

/-- CORES_GRANTED, COMMIT_POINT, DEADLINE_PASSED. Of the steps that are ready with all their cores free, the one of highest
PRIO, earliest deadline, earliest begin takes them (R524) and begins on each, on those held back with a later CORES_GRANTED
(R365): thread 0 runs at the entry, everything a program could find is as R173 gives it, XTBHI the upper half of the time of
the begin (R170), and the windows open as the image says (R349, R352, R357). A step that has ended on all its cores commits,
unless a KILL of its job waits: each BUSY lane's stream switches halves, its generation and step index move on, unwritten
elements keep their value (R38, R303, R321), the cores are free, and the record follows (R40, R518); copies that differ end
it with REDUN_MISMATCH (R598); a real-time step under the drop policy that finds its deadline passed commits nothing (R527),
and one that computes ends (R528). A deadline that passes is reported once, with what the descriptor waited for (R530). Of
the model: log entries 5, 32, 33, 57, 100, 104, 108. -/
def Obligations.StepProgress : Prop :=
  ∀ (r seq : Nat) (s : State) (e : Exec),
    let w := s.work
    let who := some (r, seq, BitVec.ofNat 16 (dJob e.desc))
    s.acts = true → w.exec? r seq = some e →
    -- a core on which the step has begun in slot `i` of the model
    let began := fun (m : Model) (i : Nat) (checker : Bool) (k k' : Core) =>
      let img := nth SlotImg.init m.slots i
      let t := { Thread.init with tbHi := BitVec.ofNat 32 (s.tb.now.toNat / 2 ^ 32) }
      ∃ opens, (∀ n, n < 32 →
          tabGet false opens n = ((nth Window.init img.windows n).valid && (nth Window.init img.windows n).open0)) ∧
        k' = { k with
          threads := { t with pc := img.entry, st := .running } :: List.replicate 7 t
          vec := ⟨[], [], []⟩
          flags := XFlags.init
          scratch := []
          land := { LandState.init with opens := opens }
          plinth := { k.plinth with slots := [], tags := [], chains := [] }
          queue := []
          mmas := []
          gather := []
          cache := if k.lastModel = m.handle then k.cache else []
          lastModel := m.handle
          lastSlot := i
          cur := some ⟨r, seq, i, checker, false, true⟩ }
    let waitsToBegin := fun (hold p : Nat) => bitOf hold p = false ∧ ∃ c, (s.core p).cur = some c ∧ c.begun = false
    (∀ hold a b m, e ∈ s.dev.rings.execs → (∀ p, p < 32 → ¬ waitsToBegin hold p) → w.grantable e = some (a, b) → w.model? (dModel e.desc) = some m →
      (∀ y ∈ s.dev.rings.execs, (w.grantable y).isSome = true → y = e ∨ dPrio y.desc < dPrio e.desc ∨
        (dPrio y.desc = dPrio e.desc ∧ (dDl e.desc < dDl y.desc ∨ (dDl y.desc = dDl e.desc ∧ e.order < y.order)))) →
      e.passed s.tb = false → s.dev.peer.spanHeld = [] → s.dev.mesh.early = [] →
      (a ++ b).Nodup → (∀ p ∈ a ++ b, p < s.dev.cores.length ∧ p < 32) →
      (s.dev.rings.execs.filter (· == e)).length = 1 →
      ∃ u, exec (.coresGranted hold) s = .next u ∧
        u.work.exec? r seq = some { e with ph := .run, cores := a, checker := b } ∧
        (∀ (p i : Nat) (checker : Bool), (if checker then b[i]? else a[i]?) = some p →
          (bitOf hold p = false → began m i checker (s.core p) (u.core p)) ∧
          (bitOf hold p = true → u.core p = { s.core p with cur := some ⟨r, seq, i, checker, false, false⟩ })) ∧
        (∀ p, p ∉ a ++ b → u.core p = s.core p) ∧
        u = s.withDev { s.dev with cores := u.dev.cores, rings := u.dev.rings, arm := { s.dev.arm with slots := u.dev.arm.slots } }) ∧
    (∀ hold p c m, p < 32 → p < s.dev.cores.length → bitOf hold p = false → (s.core p).cur = some c → c.begun = false →
      c.ring = r → c.seq = seq → c.ended = false → w.model? (dModel e.desc) = some m → s.dev.peer.spanHeld = [] → s.dev.mesh.early = [] →
      ∃ u, exec (.coresGranted hold) s = .next u ∧ began m c.slot c.checker (s.core p) (u.core p) ∧
        (∀ q, ¬ waitsToBegin hold q → u.core q = s.core q) ∧ u = s.withDev { s.dev with cores := u.dev.cores }) ∧
    (isStepOpc (dOpc e.desc) = true → w.killHeld (dJob e.desc) = true → exec (.commitPoint r seq) s = .next s) ∧
    (∀ m, isStepOpc (dOpc e.desc) = true → w.killHeld (dJob e.desc) = false → e.ph = .run → w.model? (dModel e.desc) = some m →
      (∀ p ∈ e.cores ++ e.checker, ∃ c, (s.core p).cur = some c ∧ c.ring = r ∧ c.seq = seq ∧ c.ended = true) →
      (∀ l ∈ e.lanes, ∀ x ∈ s.dev.arm.passes, x.stream ≠ l.stream) → (∀ p ∈ e.cores ++ e.checker, p < s.dev.cores.length) →
      (e.passed s.tb = true → dPol e.desc = true →
        ∃ u, exec (.commitPoint r seq) s = .next u ∧ u.completes r seq ⟨0x5101, 0, 0⟩ ∧
          ∀ j, (u.work.ctx j).gen = (w.ctx j).gen ∨ j ∈ s.dev.arm.dropped) ∧
      (e.passed s.tb = false → e.checker ≠ [] → w.copyDigest e.cores ≠ w.copyDigest e.checker →
        let d := BitVec.ofNat 32 (nth 0 e.cores 0 * 256 + m.slots.length)
        ∃ u, exec (.commitPoint r seq) s = .next u ∧ u.completes r seq ⟨0x8103, 0, d⟩ ∧ u.log.err = true) ∧
      (e.passed s.tb = false → e.checker = [] ∨ w.copyDigest e.cores = w.copyDigest e.checker →
        (e.lanes.map Lane.stream).Nodup → (∀ l ∈ e.lanes, l.committed = false ∧ (l.ph = .busy ∨ l.ph = .absent) ∧ l.poisoned = false) →
        fld (s.dev.cfgW 0x318) 0 3 = 0 →
        let n := if dOpc e.desc = 1 then 1 else dLen e.desc
        let busy := e.lanes.filter fun l => l.ph == .busy
        ∃ u, exec (.commitPoint r seq) s = .next u ∧ u.log = s.log ∧
          (∀ j, u.work.ctx j = let c := w.ctx j
            if ∃ l ∈ busy, l.stream = j then
              { c with st := .resident, half := !c.half, gen := c.gen + 1, sidx := c.sidx + BitVec.ofNat 48 n, spillCur := false,
                       prun := 0, lastUse := BitVec.ofNat 32 (bitsOf s.tb.now.toNat 10 32) }
            else c) ∧
          u.dev.arm.passes = s.dev.arm.passes ++ (busy.map fun l =>
            let c := w.ctx l.stream
            (⟨l.stream, c.dlo, c.dhi, c.driftK, c.driftEn⟩ : Pass)) ∧
          (∀ p ∈ e.cores ++ e.checker, (u.core p).cur = none) ∧
          (e.sfail = none → u.completes r seq (match e.lanes.zipIdx.find? fun x => x.1.ph == .absent with
            | some (l, i) => ⟨0, l.code, BitVec.ofNat 32 i⟩
            | none => ⟨e.inrep, 0, 0⟩)) ∧
          (∀ x, u.work.exec? r seq = some x → x.result = BitVec.ofNat 32
            (if dOpc e.desc = 1 then busy.length else if busy = [] then 0 else dLen e.desc)) ∧
          (∀ l, e.lanes = [l] → l.ph = .busy →
            let c := w.ctx l.stream
            let sl := w.sslot c.sslot
            let from_ := sl.pagesOf c.half
            let dst := sl.pagesOf (!c.half)
            (from_ ++ dst).Nodup → from_.length = m.halfPages → dst.length = m.halfPages →
            ∀ x fmt off, x < m.elems → elemAt m.layers 0 x = some (fmt, off) →
              u.work.halfBytes dst off (fmtWidth fmt) =
                if tabGet false sl.written x then w.halfBytes dst off (fmtWidth fmt) else w.halfBytes from_ off (fmtWidth fmt)))) ∧
    (e.passed s.tb = true → e.missed = false → (∀ x ∈ s.dev.pt.streams, ¬ (x.ring = r ∧ x.seq = seq)) →
      let missed := fun (d : W32) => Host.Outcome.next (s.after { s.dev with rings := { s.dev.rings with
        execs := modFirst (isExec r seq) (fun e => { e with missed := true, missCause := some (0x5106, d) }) s.dev.rings.execs } }
        [raised [(0x5101, 0), (0x5106, d)] who])
      (e.ph = .wait ∨ e.ph = .ready ∨ (e.ph = .run ∧ dPol e.desc = false) ∨ (e.ph = .work ∧ dOpc e.desc = 0x22) →
        exec (.deadlinePassed r seq) s = missed (w.dlDetail e)) ∧
      (∀ l ls, e.ph = .wait → isStepOpc (dOpc e.desc) = true → e.lanes = l :: ls →
        (l.ph = .fill → w.dlDetail e = BitVec.ofNat 32 (2 ^ 28 + l.stream % 65536)) ∧
        (l.ph = .wait → (∀ x ∈ ls, x.ph ≠ .fill) → w.dlDetail e = BitVec.ofNat 32 (l.stream % 65536))) ∧
      (∀ t, e.ph = .wait → e.mgmtStream = some t → w.dlDetail e = BitVec.ofNat 32 (t % 65536)) ∧
      (∀ p, (dOpc e.desc = 0x21 ∧ e.ph = .wait) ∨ (dOpc e.desc = 0x22 ∧ (e.ph = .wait ∨ e.ph = .work)) →
        s.dev.inService.find? (fun p => decide ((s.core p).tables.switches < s.dev.rings.fences) || (s.core p).tables.resync) = some p →
        w.dlDetail e = BitVec.ofNat 32 (2 * 2 ^ 28 + p % 65536))) ∧
    (e.passed s.tb = true → e.ph = .run → dPol e.desc = true → isStepOpc (dOpc e.desc) = true →
      ∃ u, exec (.deadlinePassed r seq) s = .next u ∧ u.completes r seq ⟨0x5101, 0, 0⟩ ∧
        ∀ j, (u.work.ctx j).gen = (w.ctx j).gen ∨ j ∈ s.dev.arm.dropped)

-- The Armature ----------------------------------------------------------------------------------------------------------------------

/-- BIND, RELEASE, FILL and SPILL as they begin on a stream none of the earlier descriptors still has to apply its row to
(R304). Each waits while the stream is BUSY, FILLING or SPILLING, and completes with the code of R303 in a state it does not
apply to. BIND writes the entry of a FREE stream with generation, step index and spill address, RESIDENT in newly allocated
pages, consecutive ones in different slices where free pages allow, or SPILLED (R299, R302, R303, R506); without pages and
without eviction it is STATE_FULL (R319). RELEASE zeroes the entry and gives up the pages (R302, R303). FILL of a RESIDENT
stream compares its generation (R309), of a SPILLED one allocates a footprint and reads the record (R314, R317). SPILL of a
stream whose record is current frees its pages, else writes the encrypted record (R310, R313). Of the model: log entry 1.
-/
def Obligations.StreamDescriptors : Prop :=
  ∀ (i : Instr) (r opc func : Nat) (q : QDesc) (s : State),
    descCommand i = some (r, opc, func) → s.begins r q = true → descMatches opc func q.desc = true →
    let w := s.work
    let e := { s.begunExec r q with ph := .wait }
    let d := s.begun r e
    let k := dStream q.desc
    let c := w.ctx k
    let pages := (w.sslot c.sslot).half0 ++ (w.sslot c.sslot).half1
    let done := fun (x : W16) => ∃ u, exec i s = .next u ∧ s.onlyRings u ∧ u.completes r q.seq ⟨x, 0, 0⟩
    let others := fun (u : State) => ∀ j, j ≠ k → u.work.ctx j = w.ctx j
    let stale := dEgv q.desc = true ∧ c.gen.toNat ≠ dExpgen q.desc
    let zeroing := fun (u : State) => ∀ p, tabGet 0 u.dev.arm.pages p = if p ∈ pages then 2 else tabGet 0 s.dev.arm.pages p
    let settled := c.st ≠ .busy ∧ c.st ≠ .filling ∧ c.st ≠ .spilling
    let room := fun (m : Model) => 2 * m.halfPages ≤ s.dev.arm.freePages ∧ s.dev.arm.residents < 4096 ∧
      2 * m.halfPages ≤ countOf 8192 (fun p => tabGet 0 s.dev.arm.pages p == 0) ∧ tabWf 0 s.dev.arm.pages = true
    let full := fun (m : Model) => (s.dev.arm.freePages < 2 * m.halfPages ∨ 4096 ≤ s.dev.arm.residents) ∧
      (s.dev.cfgW 0x400).getLsbD 8 = false
    let spread := fun (before h : List Nat) => ∀ i, i + 1 < h.length → nth 0 h i / 2048 = nth 0 h (i + 1) / 2048 →
      ∀ p, p < 8192 → p / 2048 ≠ nth 0 h i / 2048 → tabGet 0 s.dev.arm.pages p = 0 → p ∈ before ++ h.take (i + 1)
    let took := fun (u : State) (m : Model) (n : Nat) => ∃ h0 h1, u.work.sslot n = ⟨h0, h1, []⟩ ∧ w.sslot n = SSlot.init ∧
      h0.length = m.halfPages ∧ h1.length = m.halfPages ∧ (h0 ++ h1).Nodup ∧ spread [] h0 ∧ spread h0 h1 ∧
      (∀ p ∈ h0 ++ h1, p < 8192 ∧ tabGet 0 s.dev.arm.pages p = 0) ∧
      ∀ p, tabGet 0 u.dev.arm.pages p = if p ∈ h0 ++ h1 then 1 else tabGet 0 s.dev.arm.pages p
    (∀ x ∈ s.dev.rings.execs, x.order < s.dev.rings.nextOrder → x.wants k = false) →
    (opc = 0x10 ∨ opc = 0x11 ∨ opc = 0x12 ∨ opc = 0x13 → ¬ settled → exec i s = .next (s.withDev d)) ∧
    (opc = 0x10 → settled → (c.st = .quarantined → done 0x2103) ∧ (c.st ≠ .quarantined → c.st ≠ .free → done 0x2102) ∧
      (c.st = .free → w.live? (dModel q.desc) = none → done 0x2109) ∧
      ∀ m, c.st = .free → w.live? (dModel q.desc) = some m →
        let bound := { CtxEntry.init with
          model := dModel q.desc, gen := BitVec.ofNat 32 (dW q.desc 0x14),
          sidx := BitVec.ofNat 48 (dW q.desc 0x18 + bitsOf (dW q.desc 0x1C) 0 16 * 2 ^ 32), spill := word64 q.desc 0x20 / 512 }
        (dInit q.desc = 2 → word64 q.desc 0x20 = 0 → done 0x2108) ∧ (dInit q.desc ≠ 2 → full m → done 0x2104) ∧
        (dInit q.desc = 2 → word64 q.desc 0x20 ≠ 0 → ∃ u, exec i s = .next u ∧ u.completes r q.seq Outc.ok ∧ others u ∧
          u.work.ctx k = { bound with st := .spilled, spillCur := true, sslot := c.sslot } ∧
          tabGet false u.dev.peer.sync k = true ∧ u.ram = s.ram) ∧
        (dInit q.desc = 0 → room m → (∃ n, n < 4096 ∧ w.sslot n = SSlot.init) →
          ∃ u n, exec i s = .next u ∧ u.completes r q.seq Outc.ok ∧ others u ∧
            u.work.ctx k = { bound with st := .resident, sslot := n } ∧ took u m n ∧
            tabGet false u.dev.peer.sync k = true ∧ u.ram = s.ram)) ∧
    (opc = 0x11 → settled → (c.st = .free → done 0x2102) ∧
      (c.st ≠ .free → ∃ u, exec i s = .next u ∧ u.completes r q.seq Outc.ok ∧ others u ∧ u.work.ctx k = CtxEntry.init ∧
        (c.resident = true → zeroing u) ∧ (c.resident = false → u.dev.arm.pages = s.dev.arm.pages) ∧
        tabGet false u.dev.peer.sync k = false ∧ tabGet false u.dev.peer.partner k = false ∧ u.ram = s.ram)) ∧
    (opc = 0x12 → settled →
      (c.st = .free → done 0x2102) ∧ (c.st = .quarantined → done 0x2103) ∧
      ((c.st = .resident ∨ c.st = .spilled) → stale → done 0x2101) ∧ (c.st = .resident → ¬ stale → done 0) ∧
      (c.st = .spilled → ¬ stale → w.partnerHeld k = false → (w.memKey = none → done 0x710D) ∧
        (w.memKey ≠ none → w.live? c.model = none → done 0x2109) ∧
        (∀ m, w.memKey ≠ none → w.live? c.model = some m → full m → done 0x2104) ∧
        ∀ m, w.memKey ≠ none → w.live? c.model = some m → room m → (∃ n, n < 4096 ∧ w.sslot n = SSlot.init) →
          ∃ u n, exec i s = .next u ∧ others u ∧ u.work.ctx k = { c with st := .filling, sslot := n } ∧ took u m n ∧
            u.dev.arm.jobs = s.dev.arm.jobs ++ [⟨k, true, r, q.seq, BitVec.ofNat 16 (dJob q.desc), false, dDl q.desc, true, 0, 0⟩] ∧
            ∃ j ∈ u.dev.ports.jobs, j.key = .fill k ∧ j.addr = c.spill * 512 ∧ j.len = 512 + 2048 * m.halfPages)) ∧
    (opc = 0x13 → settled → bitOf (dW q.desc 0x10) 30 = false →
      (c.st = .free → done 0x2102) ∧ (c.st = .quarantined → done 0x2103) ∧ (c.st = .spilled → done 0) ∧
      (c.st = .resident → w.passDue k = true → exec i s = .next (s.withDev d)) ∧
      (c.st = .resident → (∀ x ∈ s.dev.arm.passes, x.stream ≠ k) →
        (stale → done 0x2101) ∧ (¬ stale → c.spill = 0 → done 0x2108) ∧
        (¬ stale → c.spill ≠ 0 → c.spillCur = true → ∃ u, exec i s = .next u ∧ u.completes r q.seq Outc.ok ∧ others u ∧
          u.work.ctx k = { c with st := .spilled, sslot := 0 } ∧ zeroing u ∧ u.ram = s.ram) ∧
        (¬ stale → c.spill ≠ 0 → c.spillCur = false → w.memKey = none → done 0x710D) ∧
        (∀ key m, ¬ stale → c.spill ≠ 0 → c.spillCur = false → w.memKey = some key → w.model? c.model = some m →
          let d' := s.begun r { e with stage := 1 }
          let record := cryptUnits false key k c (1 + 4 * m.halfPages) 0 (recordHeader k c m.stateBytes
            (crc64 (w.activeState k m.stateBytes)) ++ (w.activeState k m.stateBytes ++
              List.replicate (2048 * m.halfPages - m.stateBytes) 0))
          exec i s = .next (s.withDev ((s.workOn { d' with arm := { s.dev.arm with
              ctx := tabSet CtxEntry.init s.dev.arm.ctx k { c with st := .spilling }
              jobs := s.dev.arm.jobs ++ [⟨k, false, r, q.seq, BitVec.ofNat 16 (dJob q.desc), false, dDl q.desc, true, 0, 0⟩] } }).writeHost
            (.spill k) (c.spill * 512) record none (dDl q.desc) 6).d))))

/-- FILL_VERIFIED, FILL_FAILED, SPILL_WRITES_ACCEPTED, SPILL_FAIL, PAGE_ZEROED, DIGEST_PASS_DONE, CONTEXT_PATROL, of a
stream whose model was not unloaded meanwhile. A record that verifies fills the inactive half, which HALF then selects
(R314); its FILL completes, or the step that waits on it takes the stream (R303). One that does not verify counts for PRUN
and leaves the stream SPILLED or, at QTHR, QUARANTINED (R316, R325). The last record write makes the record current and
frees the pages; one that fails leaves the stream RESIDENT, and an eviction's is reported for the job that caused it (R313,
R319). A zeroed page is free (R302). The digest pass gives the generation's digest and runs the drift monitor under the
settings of its commit (R322, R323, R327 to R330); the patrol clamps ages and quarantines the streams it finds
uncorrectable, whose CHUNK or BIWIN ends with the code, and whose FILL with STREAM_QUAR (R303, R306, R320, R332, R627). Of
the model: log entries 1, 42. -/
def Obligations.ArmatureTraffic : Prop :=
  ∀ (k : Nat) (s : State),
    s.acts = true →
    let w := s.work
    let c := w.ctx k
    let sl := w.sslot c.sslot
    let others := fun (u : State) => ∀ j, j ≠ k → u.work.ctx j = w.ctx j
    let zeroing := fun (u : State) => ∀ p, tabGet 0 u.dev.arm.pages p =
      if p ∈ sl.half0 ++ sl.half1 then 2 else tabGet 0 s.dev.arm.pages p
    let page := fun n => tabGet 0 s.dev.arm.pages n
    let unnamed := k ∉ s.dev.arm.dropped ∧ (∀ x ∈ s.dev.rings.execs, ∀ l ∈ x.lanes, l.stream ≠ k) ∧
      s.dev.rings.kills = [] ∧ ∀ x ∈ s.dev.rings.execs, isFence x = false
    (∀ j, w.armJob k = some j → k ∉ s.dev.arm.dropped →
      let jobs := dropFirst (fun j => j.stream == k) s.dev.arm.jobs
      let owner := fun (opc : Nat) (e : Exec) => w.exec? j.ring j.seq = some e ∧ e.ph = .wait ∧ dOpc e.desc = opc ∧
        e.passed s.tb = false
      let alone := fun (e : Option Exec) => ∀ x ∈ s.dev.rings.execs, x.wants k = true → some x = e
      (∀ p, j.isFill = true → w.fillResult k = some (.ok p) → p.length ≤ 2048 * (sl.pagesOf (!c.half)).length →
        (sl.pagesOf (!c.half)).Nodup →
        let filled := fun (u : State) => u.work.halfBytes (sl.pagesOf (!c.half)) 0 p.length = p ∧ u.dev.arm.jobs = jobs ∧ others u
        (w.exec? j.ring j.seq = none → alone none → ∃ u, exec (.fillVerified k) s = .next u ∧ filled u ∧
          u.work.ctx k = { c with half := !c.half, st := .resident }) ∧
        (∀ e, owner 0x12 e → alone (some e) → ∃ u, exec (.fillVerified k) s = .next u ∧ filled u ∧
          u.work.ctx k = { c with half := !c.half, st := .resident } ∧ u.completes j.ring j.seq Outc.ok) ∧
        (∀ e l, owner (dOpc e.desc) e → isStepOpc (dOpc e.desc) = true → e.lanes = [l] → l.stream = k → l.ph = .fill →
          alone (some e) → c.model = dModel e.desc → (l.egv = true → c.gen.toNat = l.expgen) →
          (∀ x ∈ s.dev.rings.execs, x.order < e.order → x.wants k = false) →
          ∃ u, exec (.fillVerified k) s = .next u ∧ filled u ∧
            u.work.ctx k = { c with
              half := !c.half, st := .busy, lastUse := BitVec.ofNat 32 (bitsOf s.tb.now.toNat 10 32) } ∧
            u.work.exec? j.ring j.seq = some { e with ph := .ready, lanes := [{ l with
              ph := .busy, filled := true, sidx := c.sidx.toNat, gen := c.gen.toNat }] })) ∧
      (∀ o e, j.isFill = true → w.fillResult k = some (.error o) → owner 0x12 e →
        let n := min 15 (c.prun + 1)
        ∃ u, exec (.fillFailed k) s = .next u ∧ others u ∧ zeroing u ∧ u.dev.arm.jobs = jobs ∧ u.completes j.ring j.seq o ∧
          u.work.ctx k = (if e.qthr ≠ 0 ∧ e.qthr ≤ n then { c with prun := n, st := .quarantined, noslot := true, sslot := 0 }
            else { c with prun := n, st := .spilled, sslot := 0 }) ∧
          (∃ d, u = s.after d (if e.qthr ≠ 0 ∧ e.qthr ≤ n then [raised [(0x2103, BitVec.ofNat 32 k)] (some e.who)] else []))) ∧
      (j.isFill = false → j.ok = true → w.pendingUser (.spill k) = false →
        ∃ u, exec (.spillWritesAccepted k) s = .next u ∧ others u ∧ zeroing u ∧ u.dev.arm.jobs = jobs ∧
          u.work.ctx k = { c with st := .spilled, spillCur := true, sslot := 0 } ∧
          ∀ e, owner 0x13 e → j.evict = false → u.completes j.ring j.seq Outc.ok) ∧
      (j.isFill = false → j.ok = false → w.pendingUser (.spill k) = false →
        let entry := (0x3121, BitVec.ofNat 32 k) :: if j.cause = 0 then [] else [(j.cause, j.detail)]
        ∃ u d, exec (.spillFail k) s = .next u ∧ others u ∧ u.dev.arm.jobs = jobs ∧ u.dev.arm.pages = s.dev.arm.pages ∧
          u.work.ctx k = { c with st := .resident, spillCur := false } ∧
          (j.evict = true → u = s.after d [raised entry (if j.ring < 64 then some (j.ring, j.seq, j.job) else none)] ∧
            (j.ring, j.seq, k) ∈ u.dev.arm.noEvict) ∧
          ∀ e, owner 0x13 e → j.evict = false → u.completes j.ring j.seq ⟨0x3121, j.cause, j.detail⟩)) ∧
    (page k = 2 → ∃ ram, exec (.pageZeroed k) s = .next ((s.withRam ram).withDev { s.dev with arm := { s.dev.arm with
        pages := tabSet 0 s.dev.arm.pages k 0 } }) ∧ keepsPoison s.ram ram ∧
      ∀ m a, m < 5 → ram.get m a = if m = 3 ∧ a / 2048 = k then 0 else s.ram.get m a) ∧
    (∀ p m, s.dev.arm.passes.find? (fun x => x.stream == k) = some p → w.model? c.model = some m → w.peerMode ≠ 1 →
      let st := w.activeState k m.stateBytes
      let c' := c.drift p (driftNorm m st)
      exec (.digestPassDone k) s = .next (s.after { s.dev with arm := { s.dev.arm with
          passes := s.dev.arm.passes.filter fun x => x.stream != k
          ctx := tabSet CtxEntry.init s.dev.arm.ctx k c'.1
          digests := tabSet 0 s.dev.arm.digests k (BitVec.ofNat 64 (crc64 st)) } }
        (if c'.2 then [raised [(0x2106, BitVec.ofNat 32 k)] none] else []))) ∧
    (let age := fun (c : CtxEntry) => BitVec.ofNat 32 (bitsOf s.tb.now.toNat 10 32) - c.lastUse
     let clamped := fun (c : CtxEntry) => if c.resident = true ∧ 2 ^ 31 < (age c).toNat then
       { c with lastUse := BitVec.ofNat 32 (bitsOf s.tb.now.toNat 10 32) - 0x80000000#32 } else c
     (∃ u, exec (.contextPatrol [] []) s = .next u ∧ (∀ j, u.work.ctx j = clamped (w.ctx j)) ∧
       u = s.withDev { s.dev with arm := { s.dev.arm with ctx := u.dev.arm.ctx } }) ∧
     (∀ r q e l, w.exec? r q = some e → (dOpc e.desc = 2 ∨ dOpc e.desc = 3) → (e.ph = .ready ∨ e.ph = .run) → e.lanes = [l] →
       l.stream = k → l.ph = .busy → l.committed = false → c.st = .busy →
       ∃ u, exec (.contextPatrol [] [k]) s = .next u ∧ u.completes r q ⟨0x3120, 0, 0⟩) ∧
     (c.resident = true → c.st ≠ .resident → c.st ≠ .busy → ∃ u d, exec (.contextPatrol [] [k]) s = .next u ∧
       (∀ j, u.work.ctx j = clamped (w.ctx j)) ∧ u = s.after d [raised [(0x3120, BitVec.ofNat 32 k)] none]) ∧
     (∀ j e, w.armJob k = some j → j.isFill = true → w.exec? j.ring j.seq = some e → e.ph = .wait → dOpc e.desc = 0x12 →
       ∃ u, exec (.contextPatrol [k] []) s = .next u ∧ u.completes j.ring j.seq ⟨0x2103, 0, 0⟩ ∧
         u.dev.arm.jobs = dropFirst (fun j => j.stream == k) s.dev.arm.jobs) ∧
     (unnamed → c.st = .resident ∨ c.st = .busy → ∃ u d, exec (.contextPatrol [] [k]) s = .next u ∧
       u.work.ctx k = { clamped c with st := .quarantined, noslot := false } ∧
       (∀ j, j ≠ k → u.work.ctx j = clamped (w.ctx j)) ∧ u = s.after d [raised [(0x3120, BitVec.ofNat 32 k)] none]) ∧
     (unnamed → w.armJob k = none → ∃ u d, exec (.contextPatrol [k] []) s = .next u ∧
       u.work.ctx k = { clamped c with st := .quarantined, noslot := !c.resident } ∧ k ∈ u.dev.arm.ctxBad ∧
       (∀ j, j ≠ k → u.work.ctx j = clamped (w.ctx j)) ∧ u = s.after d [raised [(0x3123, BitVec.ofNat 32 k)] none]))

-- Table banks -----------------------------------------------------------------------------------------------------------------------

/-- TLOAD_DONE, TFENCE_PROCESSED, BANK_SWITCH, RESYNC_DONE. A TLOAD whose entry is accepted writes its image into the slot
of every in-service core's shadow bank and completes, once every switch and resync asked for meanwhile is over (R219, R261).
A TFENCE whose earlier TLOADs have completed asks every core for a switch (R254, R259). A core with a switch pending, no
step and no earlier step to come exchanges its banks and starts to resync; the last one completes the TFENCE (R254 to R256).
A resync leaves the shadow bank a copy of the active one (R257). While a KILL of its job waits to take effect neither goes
on. Of the model: log entries 1, 50, 108. -/
def Obligations.TableBanks : Prop :=
  ∀ (p : Nat) (s : State),
    let w := s.work
    s.acts = true →
    let t := (s.core p).tables
    let withTables := fun (t : CoreTables) => { s.core p with tables := t }
    let noFence := ∀ x ∈ s.dev.rings.execs, dOpc x.desc ≠ 0x22
    (∀ (r seq : Nat) (e : Exec), w.exec? r seq = some e → w.killHeld (dJob e.desc) = true →
      exec (.tloadDone r seq) s = .next s ∧ exec (.tfenceProcessed r seq) s = .next s) ∧
    (∀ (r seq : Nat) (e : Exec), w.exec? r seq = some e → e.passed s.tb = false → w.killHeld (dJob e.desc) = false →
      let settled := ∀ p ∈ s.dev.inService, s.dev.rings.fences ≤ (s.core p).tables.switches ∧ (s.core p).tables.resync = false
      (¬ settled → exec (.tloadDone r seq) s = .next s) ∧
      (dOpc e.desc = 0x21 → e.ph = .work → e.stage = 3 → settled → (∀ p ∈ s.dev.inService, p < s.dev.cores.length) →
        ∃ u, exec (.tloadDone r seq) s = .next u ∧ u.completes r seq Outc.ok ∧
          u = s.withDev { s.dev with cores := u.dev.cores, rings := u.dev.rings, ports := u.dev.ports } ∧
          ∀ p, u.core p = if p ∈ s.dev.inService then
              let t := (s.core p).tables
              let put := fun (b : List TabImg) => b.set (bitsOf (dW e.desc 4) 0 4) (.image e.data)
              { s.core p with tables := if t.active1 then { t with bank0 := put t.bank0 } else { t with bank1 := put t.bank1 } }
            else s.core p) ∧
      (dOpc e.desc = 0x22 → e.ph = .wait →
        let loading := ∃ x ∈ s.dev.rings.execs, dOpc x.desc = 0x21 ∧ x.order < e.order ∧ (x.ph = .wait ∨ x.ph = .work)
        let n := s.dev.rings.fences + 1
        (loading → exec (.tfenceProcessed r seq) s = .next s) ∧
        (¬ loading → (∀ x ∈ s.dev.rings.execs, dOpc x.desc = 0x22 → x = e) →
          (∃ p ∈ s.dev.inService, (s.core p).tables.switches < n) →
          exec (.tfenceProcessed r seq) s = .next (s.withDev { s.dev with rings := { s.dev.rings with
            fences := n
            execs := modFirst (isExec r seq) (fun e => { e with ph := .work, stage := 1, bankEp := n }) s.dev.rings.execs } })) ∧
        (¬ loading → (∀ p ∈ s.dev.inService, n ≤ (s.core p).tables.switches) →
          ∃ u, exec (.tfenceProcessed r seq) s = .next u ∧ u.completes r seq Outc.ok ∧ u.dev.rings.fences = n))) ∧
    (t.switches < s.dev.rings.fences → t.resync = false → (s.core p).cur = none →
      (∀ x ∈ s.dev.rings.execs, w.holdsBank p x = false) →
      let s' := s.withCore p (withTables { t with active1 := !t.active1, switches := t.switches + 1, resync := true })
      (noFence → exec (.bankSwitch p) s = .next s') ∧
      (∀ (r seq : Nat) (e : Exec), w.exec? r seq = some e → e.passed s.tb = false → dOpc e.desc = 0x22 → e.ph = .work → e.stage = 1 →
        (∀ x ∈ s.dev.rings.execs, dOpc x.desc = 0x22 → x = e) → p < s.dev.cores.length →
        (∀ n ∈ s.dev.inService, e.bankEp ≤ (s'.core n).tables.switches) →
        ∃ u, exec (.bankSwitch p) s = .next u ∧ u.completes r seq Outc.ok ∧ u.dev.cores = s'.dev.cores)) ∧
    (t.switches < s.dev.rings.fences → ((s.core p).cur ≠ none ∨ t.resync = true) → exec (.bankSwitch p) s = .next s) ∧
    (s.dev.rings.fences ≤ t.switches → exec (.bankSwitch p) s = .next s) ∧
    (t.resync = true → (∀ x ∈ s.dev.rings.execs, dOpc x.desc = 0x21 → x.ph ≠ .wait) →
      exec (.resyncDone p) s = .next (s.withCore p (withTables
        (if t.active1 then { t with bank0 := t.bank1, resync := false } else { t with bank1 := t.bank0, resync := false })))) ∧
    (t.resync = false → exec (.resyncDone p) s = .next s)

-- The whole machine -------------------------------------------------------------------------------------------------------------------

/-- A chain of errors a command raises: placed whole behind the entries held, each with its code, DETAIL, time and
descriptor, CONT on all but the first, LOSS where entries were lost before; or, where it does not fit, counted as lost (R612
to R614). ERRQ_PEND sets as the queue becomes non-empty while ERRQ_EN is set (R539). The first fatal code of a start stands
in FCODE (R608, R610); a safety or a fatal code shows on sf_err, high on sf_err_n and low on sf_err_p (R602, R608, R620). A
code with DETAIL 0 whose layout the spec leaves open has a free DETAIL (the model's choice, log entry 9). -/
def Obligations.ErrorRecords : Prop :=
  ∀ (s : State) (d : Dev) (codes : List (W16 × W32)) (who : Option (Nat × Nat × W16)),
    s.log.fatal = false → codes ≠ [] → codes.length ≤ 4 →
    (∀ c ∈ codes.head?, classOf c.1 = 8 → s.log.react.length < 16) →
    let u := s.after d [raised codes who]
    let entry := fun (i : Nat) (c : W16 × W32) => ({
      code := c.1, detail := if c.2 = 0 ∧ c.1 ≠ 0 ∧ detailStated c.1 = false then Config.openDetail c.1 else c.2,
      time := BitVec.ofNat 32 (bitsOf s.tb.now.toNat 10 32), cont := decide (i ≠ 0), loss := s.log.loss && decide (i = 0),
      inj := false, noJob := decide (who = none), job := (who.map fun w => w.2.2).getD 0, ring := (who.map fun w => w.1).getD 0,
      seq := BitVec.ofNat 16 ((who.map fun w => w.2.1).getD 0) } : ErrEntry)
    (s.log.errq.length + codes.length ≤ 64 →
      u.log.errq = s.log.errq ++ (codes.zipIdx.map fun x => entry x.2 x.1) ∧ u.log.ovf = s.log.ovf ∧ u.log.loss = false ∧
      (s.log.errq = [] → (d.cfgW 0x518).getLsbD 6 = true → u.dev.irq.errqPend = true)) ∧
    (64 < s.log.errq.length + codes.length →
      u.log.errq = s.log.errq ∧ u.log.ovf = min 65535 (s.log.ovf + codes.length) ∧ u.log.loss = true ∧
      u.dev.irq.errqPend = d.irq.errqPend) ∧
    (∀ c ∈ codes.head?, (u.log.fatal = true ↔ classOf c.1 = 15) ∧ (classOf c.1 = 15 → u.log.fcode = c.1) ∧
      (classOf c.1 = 8 ∨ classOf c.1 = 15 → u.sfErrP = false ∧ u.sfErrN = true))

/-- A step takes the command at the front of the queue and is that command's effect on the state with the queue's rest; with an
empty queue the block idles (the model's choice, log entry 2). -/
def Obligations.StepRunsFrontCommand : Prop :=
  (∀ (c : Instr) (rest : List Instr) (s : State), step { s with pending := c :: rest } = exec c { s with pending := rest }) ∧
  ∀ s : State, s.pending = [] → step s = .next s

/-- Right after reset: KEYS (R671), no error held, every register's word as its table gives it (R753, R754), no stream bound, no
model, ring or session, the streams and descriptors empty, the ledger at sequence number 0 (R644, R692); sf_err shows error (R620,
R677), no command waits, and the
state is safe. Of the model: log entries 3, 10, 11, 96. -/
def Obligations.ResetState : Prop :=
  let s := State.reset
  s.safeState = true ∧ s.pending = [] ∧ s.dev.boot.state = 1 ∧ s.log = ErrLog.reset ∧ s.sfErrP = false ∧ s.sfErrN = true ∧
  (∀ off, s.dev.cfgW off = cfgReset off) ∧
  cfgReset 0x204 = 0x1F40 ∧ cfgReset 0x224 = 0xC3500 ∧ cfgReset 0x304 = 0x61A80 ∧ cfgReset 0x330 = 0x20640 ∧
  cfgReset 0x400 = 0x30 ∧ cfgReset 0x508 = 0x1F40 ∧ cfgReset 0x604 = 0x3FF ∧
  (∀ r, r < 64 → cfgReset (0x1008 + 32 * r) = 4 ∧ cfgReset (0x2008 + 16 * r) = 4) ∧
  (∀ k, s.work.ctx k = CtxEntry.init) ∧ s.dev.models = [] ∧ s.dev.rings.execs = [] ∧
  (∀ r, s.work.sqOn r = false ∧ s.work.cqOn r = false) ∧
  s.dev.sec.sessions = [] ∧ s.dev.sec.keys = none ∧ s.dev.led.seq = 0 ∧ s.dev.cal.need = true ∧
  s.dev.cores.length = 32 ∧ (∀ p, p < 32 → (s.core p).cur = none ∧ (s.core p).tables = CoreTables.init)

/-- From every state, a step that answers a next state keeps a safe state safe: the SRAM tables in canonical form, at most 64 error
entries (R612), at most 16 reactions waiting and none during a fatal error (R605, R611), interrupt lines as pending bits and routes
give them (R540). The queue loses its front command and nothing else. Of the model: log entry 3. -/
def Obligations.StepKeepsSafeState : Prop :=
  ∀ s t : State, step s = .next t →
    (s.safeState = true → t.safeState = true) ∧ t.pending = s.pending.drop 1 ∧
    (s.queueOk = true → t.queueOk = true)

/-- From the first fatal error of a start on, until a reset or a power-off, whatever command comes: FATAL stays and FCODE keeps the
first code (R610), no core, no SRAM, no stream's entry and no model changes, so that no lane commits (R608), and once the block is
in the safe state it stays there (R609). -/
def Obligations.FatalErrorFreezes : Prop :=
  ∀ s t : State, s.log.fatal = true → step s = .next t →
    (∀ c ∈ s.pending.head?, c ≠ .rstNFall ∧ c ≠ .rstNRise ∧ c ≠ .pwrOkFall) →
    t.log.fatal = true ∧ t.log.fcode = s.log.fcode ∧ t.dev.cores = s.dev.cores ∧ t.ram = s.ram ∧ t.dev.arm = s.dev.arm ∧
    t.dev.models = s.dev.models ∧ (s.log.safe = true → t.log.safe = true)
end

