-- ==== Sys2Proof/Laws/Tab.lean ====
section
/-! SUPPORT. The laws of the sparse tables: a read after a write, and the canonical form every write keeps. -/

-- Declarations are elaborated one after another: side by side, each would hold a thread and its stack.
set_option Elab.async false

namespace Sys2Proof.Machine

theorem tabGet_tabDel_same {α : Type} (d : α) (t : Tab α) (k : Nat) : tabGet d (tabDel t k) k = d := by
  induction t with
  | nil => rfl
  | cons e t ih =>
    by_cases h : e.1 = k
    · simpa [tabDel, h] using ih
    · have h' : k ≠ e.1 := fun x => h x.symm
      simpa [tabDel, h, tabGet, h'] using ih

theorem tabGet_tabDel_other {α : Type} (d : α) (t : Tab α) (k j : Nat) (hj : j ≠ k) :
    tabGet d (tabDel t k) j = tabGet d t j := by
  induction t with
  | nil => rfl
  | cons e t ih =>
    by_cases h : e.1 = k
    · have h' : j ≠ e.1 := by omega
      simpa [tabDel, h, tabGet, hj] using ih
    · by_cases h2 : j = e.1
      · simp [tabDel, h, tabGet, h2]
      · simpa [tabDel, h, tabGet, h2] using ih

theorem tabGet_tabPut_same {α : Type} (d : α) (t : Tab α) (k : Nat) (v : α) : tabGet d (tabPut t k v) k = v := by
  induction t with
  | nil => simp [tabPut, tabGet]
  | cons e t ih =>
    by_cases h : k < e.1
    · simp [tabPut, h, tabGet]
    · by_cases h2 : k = e.1
      · simp [tabPut, h2, tabGet]
      · simpa [tabPut, h, h2, tabGet] using ih

theorem tabGet_tabPut_other {α : Type} (d : α) (t : Tab α) (k j : Nat) (v : α) (hj : j ≠ k) :
    tabGet d (tabPut t k v) j = tabGet d t j := by
  induction t with
  | nil => simp [tabPut, tabGet, hj]
  | cons e t ih =>
    by_cases h : k < e.1
    · simp [tabPut, h, tabGet, hj]
    · by_cases h2 : k = e.1
      · subst h2
        simp [tabPut, tabGet, hj]
      · by_cases h3 : j = e.1
        · simp [tabPut, h, h2, tabGet, h3]
        · simpa [tabPut, h, h2, tabGet, h3] using ih

/-- A key read after it was written gives the value written. -/
@[simp] theorem tabGet_tabSet_same {α : Type} [DecidableEq α] (d : α) (t : Tab α) (k : Nat) (v : α) :
    tabGet d (tabSet d t k v) k = v := by
  by_cases h : v = d
  · simp [tabSet, h, tabGet_tabDel_same]
  · simp [tabSet, h, tabGet_tabPut_same]

/-- A key other than the one written keeps its value. -/
theorem tabGet_tabSet_other {α : Type} [DecidableEq α] (d : α) (t : Tab α) (k j : Nat) (v : α) (hj : j ≠ k) :
    tabGet d (tabSet d t k v) j = tabGet d t j := by
  by_cases h : v = d
  · simp [tabSet, h, tabGet_tabDel_other d t k j hj]
  · simp [tabSet, h, tabGet_tabPut_other d t k j v hj]

/-- Both laws at once. -/
theorem tabGet_tabSet {α : Type} [DecidableEq α] (d : α) (t : Tab α) (k j : Nat) (v : α) :
    tabGet d (tabSet d t k v) j = if j = k then v else tabGet d t j := by
  by_cases h : j = k
  · simp [h]
  · simp [h, tabGet_tabSet_other d t k j v h]

theorem tabWfFrom_weaken {α : Type} [DecidableEq α] (d : α) (t : Tab α) (a b : Nat) (hab : a ≤ b)
    (h : tabWfFrom d b t = true) : tabWfFrom d a t = true := by
  cases t with
  | nil => rfl
  | cons e t =>
    simp only [tabWfFrom, Bool.and_eq_true, decide_eq_true_eq] at h ⊢
    exact ⟨⟨by omega, h.1.2⟩, h.2⟩

theorem tabWfFrom_tabDel {α : Type} [DecidableEq α] (d : α) (t : Tab α) (lo k : Nat) (h : tabWfFrom d lo t = true) :
    tabWfFrom d lo (tabDel t k) = true := by
  induction t generalizing lo with
  | nil => rfl
  | cons e t ih =>
    simp only [tabWfFrom, Bool.and_eq_true, decide_eq_true_eq] at h
    by_cases hk : e.1 = k
    · simp only [tabDel, hk, if_true]
      exact tabWfFrom_weaken d _ lo (e.1 + 1) (by omega) (ih _ h.2)
    · simp only [tabDel, hk, if_false, tabWfFrom, Bool.and_eq_true, decide_eq_true_eq]
      exact ⟨h.1, ih _ h.2⟩

theorem tabWfFrom_tabPut {α : Type} [DecidableEq α] (d : α) (t : Tab α) (lo k : Nat) (v : α) (hk : lo ≤ k) (hv : v ≠ d)
    (h : tabWfFrom d lo t = true) : tabWfFrom d lo (tabPut t k v) = true := by
  induction t generalizing lo with
  | nil => simp [tabPut, tabWfFrom, hk, hv]
  | cons e t ih =>
    simp only [tabWfFrom, Bool.and_eq_true, decide_eq_true_eq] at h
    by_cases h1 : k < e.1
    · simp only [tabPut, h1, if_true, tabWfFrom, Bool.and_eq_true, decide_eq_true_eq]
      exact ⟨⟨hk, by simp [hv]⟩, ⟨by omega, h.1.2⟩, h.2⟩
    · by_cases h2 : k = e.1
      · simp only [tabPut, h2, Nat.lt_irrefl, if_false, if_true, tabWfFrom, Bool.and_eq_true, decide_eq_true_eq]
        exact ⟨⟨h.1.1, by simp [hv]⟩, h.2⟩
      · simp only [tabPut, h1, h2, if_false, tabWfFrom, Bool.and_eq_true, decide_eq_true_eq]
        exact ⟨h.1, ih (e.1 + 1) (by omega) h.2⟩

/-- A write keeps a canonical table canonical. -/
theorem tabWf_tabSet {α : Type} [DecidableEq α] (d : α) (t : Tab α) (k : Nat) (v : α) (h : tabWf d t = true) :
    tabWf d (tabSet d t k v) = true := by
  by_cases hv : v = d
  · simp only [tabSet, hv, if_true]
    exact tabWfFrom_tabDel d t 0 k h
  · simp only [tabSet, hv, if_false]
    exact tabWfFrom_tabPut d t 0 k v (Nat.zero_le k) hv h

end Sys2Proof.Machine
end

