-- ==== Sys2Proof/Laws/Commit.lean ====
section
/-! SUPPORT. What a commit does, said once: the interrupt lines stand after it, a working copy without events leaves the log,
the SRAMs are changed by the operations of the working copy alone. -/

-- Declarations are elaborated one after another: side by side, each would hold a thread and its stack.
set_option Elab.async false

namespace Sys2Proof.Machine

-- The interrupt lines ------------------------------------------------------------------------------------------------------

/-- Lines do not depend on what was seen of them, nor on the ports. -/
theorem irqLines_irqUpdate (f : Bool) (d : Dev) : irqLines (irqUpdate f d) = irqLines d := rfl

/-- Lines depend on the pending bits and the configuration alone. -/
theorem irqLines_congr (d e : Dev) (hi : d.irq = e.irq) (hc : d.cfg = e.cfg) : irqLines d = irqLines e := by
  cases d
  cases e
  simp only at hi hc
  subst hi
  subst hc
  rfl

/-- After an update the lines stand. -/
@[simp] theorem irqUpdate_lines (f : Bool) (d : Dev) : (irqUpdate f d).irq.lines = irqLines d := rfl

theorem filter_self_none (n m : Nat) (p : Nat → Bool) :
    (List.range n).filter (fun k => bitOf m k && !bitOf m k && p k) = [] := by
  rw [List.filter_eq_nil_iff]
  intro a _
  cases bitOf m a <;> simp

/-- Where the lines stand already, an update changes nothing. -/
theorem irqUpdate_settled (f : Bool) (d : Dev) (h : d.irq.lines = irqLines d) : irqUpdate f d = d := by
  have hr : (List.range 4).filter (fun k => bitOf (irqLines d) k && !bitOf d.irq.lines k && bit (d.cfgW 0x518) k && !f) = [] := by
    rw [h, List.filter_eq_nil_iff]
    intro a _
    cases bitOf (irqLines d) a <;> simp
  obtain ⟨cfg, cores, models, rings, arm, ports, pt, mesh, cal, boot, irq, sec, led, peer, saf, tap, cp, free⟩ := d
  obtain ⟨pend, ep, lines⟩ := irq
  unfold irqUpdate
  simp only at h hr ⊢
  rw [hr, ← h]
  simp

/-- A log that stays as it is sets no ERRQ_PEND. -/
@[simp] theorem errqPendUpdate_same (l : ErrLog) (d : Dev) : errqPendUpdate l l d = d := by
  unfold errqPendUpdate
  cases l.errq.isEmpty <;> simp

-- Commits ---------------------------------------------------------------------------------------------------------------------

@[simp] theorem commitWork_pending (s : State) (w : Work) : (commitWork s w).pending = s.pending := rfl
@[simp] theorem commitWork_tb (s : State) (w : Work) : (commitWork s w).tb = s.tb := rfl
@[simp] theorem commitWork_ram (s : State) (w : Work) : (commitWork s w).ram = w.wr.reverse.foldl Ram.step s.ram := rfl

/-- After a commit the lines stand. -/
theorem commitWork_linesOk (s : State) (w : Work) : (commitWork s w).linesOk = true := by
  simp [State.linesOk, commitWork, irqLines_irqUpdate]

/-- A working copy without events leaves the log alone. -/
theorem logAfter_nil (s : State) (w : Work) (h : w.ev = []) : logAfter s w = s.log := by simp [logAfter, h]

/-- The commit of a working copy without events whose lines stand: its SRAM operations and its units. -/
theorem commitWork_quiet (s : State) (w : Work) (hev : w.ev = [])
    (hl : w.d.irq.lines = irqLines w.d) :
    commitWork s w = { s with ram := w.wr.reverse.foldl Ram.step s.ram, dev := w.d } := by
  have h1 : logAfter s w = s.log := logAfter_nil s w hev
  have hf : (s.log.fatal && !s.log.fatal) = false := by cases s.log.fatal <;> rfl
  have hs : (s.log.safe && !s.log.safe) = false := by cases s.log.safe <;> rfl
  simp only [commitWork, h1, hf, Bool.false_and, Bool.false_eq_true, if_false, hs, errqPendUpdate_same]
  rw [irqUpdate_settled _ _ hl]

/-- The commit of an unchanged working copy changes nothing. -/
theorem commitWork_self (s : State) (h : s.linesOk = true) : commitWork s s.work = s := by
  have := commitWork_quiet s s.work rfl (of_decide_eq_true h)
  simpa [State.work] using this

/-- Committing a change of units alone. -/
theorem commitWork_dev (s : State) (d : Dev) (hl : d.irq.lines = irqLines d) :
    commitWork s { s.work with d := d } = s.withDev d := by
  rw [commitWork_quiet s { s.work with d := d } rfl hl]
  rfl

end Sys2Proof.Machine
end

