-- ==== Sys2Proof/Laws/Crypto.lean ====
section
/-! SUPPORT. A state record written to host memory opens to what was written (R310 to R314): the AES rounds, XTS units and
records turned over and back. -/

-- Declarations are elaborated one after another: side by side, each would hold a thread and its stack.
set_option Elab.async false

namespace Sys2Proof.Machine

-- Bytes -----------------------------------------------------------------------------------------------------------------

theorem invSub_sub (x : Byte) : invSub (sub x) = x := by
  have h : ∀ n, n < 256 → invSub (sub (BitVec.ofNat 8 n)) = BitVec.ofNat 8 n := by decide +kernel
  simpa using h x.toNat x.isLt

theorem xtime_xor (x y : Byte) : xtime (x ^^^ y) = xtime x ^^^ xtime y := by
  unfold xtime
  rw [BitVec.shiftLeft_xor_distrib, BitVec.getLsbD_xor]
  have e : ∀ a b c : Byte, a ^^^ b = c ^^^ (c ^^^ (a ^^^ b)) := by
    intro a b c; rw [← BitVec.xor_assoc, BitVec.xor_self, BitVec.zero_xor]
  cases x.getLsbD 7 <;> cases y.getLsbD 7 <;> simp <;> first | ac_rfl | (rw [e (x <<< 1) (y <<< 1) 27#8]; ac_rfl)

theorem gmul_xor (x y : Byte) (k : Nat) : gmul (x ^^^ y) k = gmul x k ^^^ gmul y k := by
  unfold gmul
  simp only [xtime_xor]
  cases bitOf k 0 <;> cases bitOf k 1 <;> cases bitOf k 2 <;> cases bitOf k 3 <;> simp <;> ac_rfl

/-- The four entries of the product of the two column matrices. -/
theorem gmul_table (n : Nat) (h : n < 256) :
    let a : Byte := BitVec.ofNat 8 n
    let t := fun c0 c1 c2 c3 => gmul (gmul a c0) 14 ^^^ gmul (gmul a c1) 11 ^^^ gmul (gmul a c2) 13 ^^^ gmul (gmul a c3) 9
    t 2 1 1 3 = a ∧ t 3 2 1 1 = 0 ∧ t 1 3 2 1 = 0 ∧ t 1 1 3 2 = 0 := by
  revert n
  decide +kernel

theorem column_back (a b c d : Byte) :
    gmul (gmul a 2 ^^^ gmul b 3 ^^^ gmul c 1 ^^^ gmul d 1) 14 ^^^ gmul (gmul b 2 ^^^ gmul c 3 ^^^ gmul d 1 ^^^ gmul a 1) 11 ^^^
      gmul (gmul c 2 ^^^ gmul d 3 ^^^ gmul a 1 ^^^ gmul b 1) 13 ^^^ gmul (gmul d 2 ^^^ gmul a 3 ^^^ gmul b 1 ^^^ gmul c 1) 9 = a := by
  have tab : ∀ x : Byte, _ := fun x => gmul_table x.toNat x.isLt
  simp only [BitVec.ofNat_toNat, BitVec.setWidth_eq] at tab
  simp only [gmul_xor]
  have ha := (tab a).1
  have hb := (tab b).2.1
  have hc := (tab c).2.2.1
  have hd := (tab d).2.2.2
  have e : ∀ a1 a2 a3 a4 b1 b2 b3 b4 c1 c2 c3 c4 d1 d2 d3 d4 : Byte,
      a1 ^^^ b1 ^^^ c1 ^^^ d1 ^^^ (b2 ^^^ c2 ^^^ d2 ^^^ a2) ^^^ (c3 ^^^ d3 ^^^ a3 ^^^ b3) ^^^ (d4 ^^^ a4 ^^^ b4 ^^^ c4) =
        (a1 ^^^ a2 ^^^ a3 ^^^ a4) ^^^ (b1 ^^^ b2 ^^^ b3 ^^^ b4) ^^^ (c1 ^^^ c2 ^^^ c3 ^^^ c4) ^^^ (d1 ^^^ d2 ^^^ d3 ^^^ d4) := by
    intros; ac_rfl
  rw [e, ha, hb, hc, hd]
  simp

/-- A list of sixteen bytes, written out. -/
theorem sixteen {x : List Byte} (h : x.length = 16) :
    ∃ a0 a1 a2 a3 a4 a5 a6 a7 a8 a9 a10 a11 a12 a13 a14 a15,
      x = [a0, a1, a2, a3, a4, a5, a6, a7, a8, a9, a10, a11, a12, a13, a14, a15] := by
  match x, h with
  | [a0, a1, a2, a3, a4, a5, a6, a7, a8, a9, a10, a11, a12, a13, a14, a15], _ =>
    exact ⟨a0, a1, a2, a3, a4, a5, a6, a7, a8, a9, a10, a11, a12, a13, a14, a15, rfl⟩

theorem mixWith_back {x : List Byte} (h : x.length = 16) : mixWith 14 11 13 9 (mixWith 2 3 1 1 x) = x := by
  obtain ⟨a0, a1, a2, a3, a4, a5, a6, a7, a8, a9, a10, a11, a12, a13, a14, a15, rfl⟩ := sixteen h
  have e : ∀ c0 c1 c2 c3 (b0 b1 b2 b3 b4 b5 b6 b7 b8 b9 b10 b11 b12 b13 b14 b15 : Byte),
      let g := fun w x y z => gmul w c0 ^^^ gmul x c1 ^^^ gmul y c2 ^^^ gmul z c3
      mixWith c0 c1 c2 c3 [b0, b1, b2, b3, b4, b5, b6, b7, b8, b9, b10, b11, b12, b13, b14, b15] =
        [g b0 b1 b2 b3, g b1 b2 b3 b0, g b2 b3 b0 b1, g b3 b0 b1 b2, g b4 b5 b6 b7, g b5 b6 b7 b4, g b6 b7 b4 b5, g b7 b4 b5 b6,
          g b8 b9 b10 b11, g b9 b10 b11 b8, g b10 b11 b8 b9, g b11 b8 b9 b10, g b12 b13 b14 b15, g b13 b14 b15 b12,
          g b14 b15 b12 b13, g b15 b12 b13 b14] := by
    intros; rfl
  rw [e, e]
  simp only [column_back]

theorem invShiftRows_shiftRows {x : List Byte} (h : x.length = 16) : invShiftRows (shiftRows x) = x := by
  obtain ⟨a0, a1, a2, a3, a4, a5, a6, a7, a8, a9, a10, a11, a12, a13, a14, a15, rfl⟩ := sixteen h
  rfl

theorem xorBytes_length (a b : List Byte) : (xorBytes a b).length = min a.length b.length := by simp [xorBytes]

theorem xorBytes_back {a k : List Byte} (h : a.length ≤ k.length) : xorBytes (xorBytes a k) k = a := by
  induction a generalizing k with
  | nil => simp [xorBytes]
  | cons x a ih =>
    cases k with
    | nil => simp at h
    | cons y k =>
      have := ih (k := k) (by simpa using h)
      simp only [xorBytes, List.zipWith_cons_cons] at this ⊢
      rw [this, BitVec.xor_assoc, BitVec.xor_self, BitVec.xor_zero]

theorem map_sub_back (x : List Byte) : (x.map sub).map invSub = x := by
  simp [List.map_map, Function.comp_def, invSub_sub]

-- AES -------------------------------------------------------------------------------------------------------------------

/-- One inner round of the cipher and of its inverse. -/
def aesRound (s k : List Byte) : List Byte := xorBytes (mixWith 2 3 1 1 (shiftRows (s.map sub))) k
def aesInvRound (t k : List Byte) : List Byte := mixWith 14 11 13 9 (xorBytes ((invShiftRows t).map invSub) k)

theorem aesRounds_snoc (l : List (List Byte)) (k s : List Byte) :
    aesRounds (l ++ [k]) s = xorBytes (shiftRows ((l.foldl aesRound s).map sub)) k := by
  induction l generalizing s with
  | nil => rfl
  | cons a l ih =>
    cases l with
    | nil => rfl
    | cons b l => exact ih (aesRound s a)

theorem aesInvRounds_snoc (l : List (List Byte)) (k t : List Byte) :
    aesInvRounds (l ++ [k]) t = xorBytes ((invShiftRows (l.foldl aesInvRound t)).map invSub) k := by
  induction l generalizing t with
  | nil => rfl
  | cons a l ih =>
    cases l with
    | nil => rfl
    | cons b l => exact ih (aesInvRound t a)

theorem shiftRows_length (x : List Byte) : (shiftRows x).length = 16 := by simp [shiftRows]
theorem mixWith_length (a b c d : Nat) (x : List Byte) : (mixWith a b c d x).length = 16 := by simp [mixWith]

theorem aesRound_length {s k : List Byte} (h : k.length = 16) : (aesRound s k).length = 16 := by
  simp [aesRound, xorBytes_length, mixWith_length, h]

theorem rounds_length {l : List (List Byte)} {s : List Byte} (hl : ∀ k ∈ l, k.length = 16) (hs : s.length = 16) :
    (l.foldl aesRound s).length = 16 := by
  induction l generalizing s with
  | nil => exact hs
  | cons k l ih => exact ih (fun x hx => hl x (by simp [hx])) (aesRound_length (hl k (by simp)))

theorem aesInvRound_round {s k : List Byte} (hk : k.length = 16) :
    aesInvRound (shiftRows ((aesRound s k).map sub)) k = shiftRows (s.map sub) := by
  unfold aesInvRound
  rw [invShiftRows_shiftRows (by simp [aesRound_length hk]), map_sub_back]
  unfold aesRound
  rw [xorBytes_back (by simp [mixWith_length, hk]), mixWith_back (shiftRows_length _)]

theorem rounds_back (r : List (List Byte)) (s : List Byte) (hr : ∀ k ∈ r, k.length = 16) :
    r.foldl aesInvRound (shiftRows ((r.reverse.foldl aesRound s).map sub)) = shiftRows (s.map sub) := by
  induction r with
  | nil => rfl
  | cons k r ih =>
    have hr' : ∀ x ∈ r, x.length = 16 := fun x hx => hr x (by simp [hx])
    simp only [List.reverse_cons, List.foldl_append, List.foldl_cons, List.foldl_nil]
    rw [aesInvRound_round (hr k (by simp))]
    exact ih hr'

/-- AES decryption undoes encryption, under any two or more round keys of sixteen bytes. -/
theorem aesDec_aesEnc {ks : List (List Byte)} {b : List Byte} (h2 : 2 ≤ ks.length) (hk : ∀ k ∈ ks, k.length = 16)
    (hb : b.length = 16) : aesDec ks (aesEnc ks b) = b := by
  obtain ⟨k0, rest, rfl⟩ : ∃ k0 rest, ks = k0 :: rest := by
    cases ks with
    | nil => simp at h2
    | cons k r => exact ⟨k, r, rfl⟩
  obtain ⟨l, kn, rfl⟩ : ∃ l kn, rest = l ++ [kn] := by
    refine ⟨rest.dropLast, rest.getLast (by rintro rfl; simp at h2), ?_⟩
    exact (List.dropLast_concat_getLast _).symm
  have h0 : k0.length = 16 := hk k0 (by simp)
  have hn : kn.length = 16 := hk kn (by simp)
  have hl : ∀ k ∈ l, k.length = 16 := fun k h => hk k (by simp [h])
  have hx : (xorBytes b k0).length = 16 := by simp [xorBytes_length, hb, h0]
  have henc : aesEnc (k0 :: (l ++ [kn])) b = xorBytes (shiftRows ((l.foldl aesRound (xorBytes b k0)).map sub)) kn :=
    aesRounds_snoc _ _ _
  have hdec : ∀ c, aesDec (k0 :: (l ++ [kn])) c = aesInvRounds (l.reverse ++ [k0]) (xorBytes c kn) := by
    intro c; simp [aesDec]
  rw [henc, hdec, xorBytes_back (by simp [shiftRows_length, hn]), aesInvRounds_snoc]
  have hb' := rounds_back l.reverse (xorBytes b k0) (by simpa using hl)
  rw [List.reverse_reverse] at hb'
  rw [hb', invShiftRows_shiftRows (by simpa using hx), map_sub_back, xorBytes_back (by simp [hb, h0])]

theorem aesEnc_length {ks : List (List Byte)} {b : List Byte} (h2 : 2 ≤ ks.length) (hk : ∀ k ∈ ks, k.length = 16) :
    (aesEnc ks b).length = 16 := by
  obtain ⟨k0, rest, rfl⟩ : ∃ k0 rest, ks = k0 :: rest := by
    cases ks with
    | nil => simp at h2
    | cons k r => exact ⟨k, r, rfl⟩
  obtain ⟨l, kn, rfl⟩ : ∃ l kn, rest = l ++ [kn] := by
    refine ⟨rest.dropLast, rest.getLast (by rintro rfl; simp at h2), ?_⟩
    exact (List.dropLast_concat_getLast _).symm
  have hn : kn.length = 16 := hk kn (by simp)
  show (aesRounds (l ++ [kn]) (xorBytes b k0)).length = 16
  rw [aesRounds_snoc]
  simp [xorBytes_length, shiftRows_length, hn]

theorem nth_mem_length {ws : List (List Byte)} {n : Nat} (h : ∀ w ∈ ws, w.length = 4) (hn : n < ws.length) :
    (nth [] ws n).length = 4 := by
  have : nth [] ws n = ws[n] := by simp [nth, hn]
  rw [this]; exact h _ (List.getElem_mem hn)

theorem aesExpand_words (n i : Nat) (rc : Byte) (ws : List (List Byte)) (hl : 8 ≤ ws.length) (hw : ∀ w ∈ ws, w.length = 4) :
    (aesExpand n i rc ws).length = n + ws.length ∧ ∀ w ∈ aesExpand n i rc ws, w.length = 4 := by
  induction n generalizing i rc ws with
  | zero => exact ⟨by simp [aesExpand], hw⟩
  | succ n ih =>
    have h0 := nth_mem_length hw (n := 0) (by omega)
    have h7 := nth_mem_length hw (n := 7) (by omega)
    unfold aesExpand
    refine (fun a => ⟨by rw [a.1]; simp; omega, a.2⟩) (ih _ _ _ (by simp; omega) ?_)
    intro w hm
    rcases List.mem_cons.mp hm with rfl | hm
    · rw [xorBytes_length, h7]
      split
      · simp [xorBytes_length, h0]
      · split <;> simp [h0]
    · exact hw w hm

/-- The key schedule gives fifteen round keys of sixteen bytes. -/
theorem aesKeys_shape {key : List Byte} (h : key.length = 32) : (aesKeys key).length = 15 ∧ ∀ k ∈ aesKeys key, k.length = 16 := by
  refine ⟨by simp [aesKeys], ?_⟩
  intro k hk
  simp only [aesKeys, List.mem_map, List.mem_range] at hk
  obtain ⟨r, hr, rfl⟩ := hk
  have sh := aesExpand_words 52 8 1 ((List.range 8).map fun i => sliceAt key (4 * i) 4).reverse (by simp) (by
    intro w hw
    simp only [List.mem_reverse, List.mem_map, List.mem_range] at hw
    obtain ⟨i, hi, rfl⟩ := hw
    simp only [sliceAt, List.length_append, List.length_take, List.length_drop, List.length_replicate, h]; omega)
  generalize aesExpand 52 8 1 ((List.range 8).map fun i => sliceAt key (4 * i) 4).reverse = ws at sh
  have h4 : ((ws.reverse.drop (4 * r)).take 4).length = 4 := by simp [sh.1]; omega
  have hw : ∀ w ∈ (ws.reverse.drop (4 * r)).take 4, w.length = 4 := fun w hm =>
    sh.2 w (List.mem_reverse.mp (List.mem_of_mem_drop (List.mem_of_mem_take hm)))
  match hq : (ws.reverse.drop (4 * r)).take 4, h4, hw with
  | [a, b, c, d], _, hw =>
    have := hw a (by simp); have := hw b (by simp); have := hw c (by simp); have := hw d (by simp)
    simp [*]

-- XTS units and records ---------------------------------------------------------------------------------------------------

theorem leBytes_length (n x : Nat) : (leBytes n x).length = n := by
  induction n generalizing x with
  | zero => rfl
  | succ n ih => simp [leBytes, ih]

theorem xtsBlocks_length (f : List Byte → List Byte) (hf : ∀ b, (f b).length = 16) (n t : Nat) (bs : List Byte) :
    (xtsBlocks f n t bs).length = 16 * n := by
  induction n generalizing t bs with
  | zero => rfl
  | succ n ih => simp [xtsBlocks, xorBytes_length, hf, leBytes_length, ih]; omega

theorem xtsBlocks_back (f g : List Byte → List Byte) (hf : ∀ b, (f b).length = 16) (hg : ∀ b, b.length = 16 → g (f b) = b)
    (n t : Nat) (bs : List Byte) (h : bs.length = 16 * n) : xtsBlocks g n t (xtsBlocks f n t bs) = bs := by
  induction n generalizing t bs with
  | zero => simpa [xtsBlocks] using (List.eq_nil_of_length_eq_zero (by omega : bs.length = 0)).symm
  | succ n ih =>
    have h16 : (bs.take 16).length = 16 := by simp; omega
    have hx : (xorBytes (f (xorBytes (bs.take 16) (leBytes 16 t))) (leBytes 16 t)).length = 16 := by
      simp [xorBytes_length, hf, leBytes_length]
    simp only [xtsBlocks]
    rw [List.take_append_of_le_length (by omega), List.take_of_length_le (by omega), List.drop_append_of_le_length (by omega),
      List.drop_of_length_le (by omega), List.nil_append, ih _ _ (by simp; omega), xorBytes_back (by simp [hf, leBytes_length]),
      hg _ (by simp [xorBytes_length, h16, leBytes_length]), xorBytes_back (by rw [leBytes_length]; omega)]
    exact List.take_append_drop 16 bs

theorem xtsUnit_length {k1 k2 : List Byte} {tw : Nat} {u : List Byte} (h1 : k1.length = 32) (hu : u.length = 512) :
    (xtsUnit false k1 k2 tw u).length = 512 := by
  have sh := aesKeys_shape h1
  have e : xtsUnit false k1 k2 tw u =
      xtsBlocks (aesEnc (aesKeys k1)) (u.length / 16) (leNat (aesEnc (aesKeys k2) (leBytes 16 tw))) u := rfl
  rw [e, xtsBlocks_length _ (fun b => aesEnc_length (by omega) sh.2)]
  omega

theorem xtsUnit_back {k1 k2 : List Byte} {tw : Nat} {u : List Byte} (h1 : k1.length = 32) (hu : u.length = 512) :
    xtsUnit true k1 k2 tw (xtsUnit false k1 k2 tw u) = u := by
  have sh := aesKeys_shape h1
  have hl := xtsUnit_length (k2 := k2) (tw := tw) h1 hu
  have e : ∀ dec v, xtsUnit dec k1 k2 tw v = xtsBlocks (if dec then aesDec (aesKeys k1) else aesEnc (aesKeys k1)) (v.length / 16)
      (leNat (aesEnc (aesKeys k2) (leBytes 16 tw))) v := fun _ _ => rfl
  rw [e true, hl, e false, hu]
  exact xtsBlocks_back _ _ (fun b => aesEnc_length (by omega) sh.2) (fun b hb => aesDec_aesEnc (by omega) sh.2 hb) _ _ _ (by omega)

theorem cryptUnits_length {key : List Byte} (hk : 32 ≤ key.length) (s : Nat) (c : CtxEntry) (n j : Nat) (bs : List Byte)
    (h : bs.length = 512 * n) : (cryptUnits false key s c n j bs).length = 512 * n := by
  induction n generalizing j bs with
  | zero => rfl
  | succ n ih =>
    simp only [cryptUnits, List.length_append]
    rw [xtsUnit_length (by simp; omega) (by simp; omega), ih _ _ (by simp; omega)]
    omega

theorem cryptUnits_back {key : List Byte} (hk : 32 ≤ key.length) (s : Nat) (c : CtxEntry) (n j : Nat) (bs : List Byte)
    (h : bs.length = 512 * n) : cryptUnits true key s c n j (cryptUnits false key s c n j bs) = bs := by
  induction n generalizing j bs with
  | zero => simpa [cryptUnits] using (List.eq_nil_of_length_eq_zero (by omega : bs.length = 0)).symm
  | succ n ih =>
    have hu : (bs.take 512).length = 512 := by simp; omega
    have hx := xtsUnit_length (k1 := key.take 32) (k2 := key.drop 32) (tw := recordTweak s c j) (by simp; omega) hu
    simp only [cryptUnits]
    generalize hX : xtsUnit false (key.take 32) (key.drop 32) (recordTweak s c j) (bs.take 512) = x at hx
    rw [List.take_append_of_le_length (by omega), List.take_of_length_le (by omega : x.length ≤ 512),
      List.drop_append_of_le_length (by omega), List.drop_of_length_le (by omega : x.length ≤ 512), List.nil_append,
      ih _ _ (by simp; omega), ← hX, xtsUnit_back (by simp; omega) hu]
    exact List.take_append_drop 512 bs

theorem recordHeader_length (s : Nat) (c : CtxEntry) (n d : Nat) : (recordHeader s c n d).length = 512 := by
  simp only [recordHeader, List.length_append, leBytes_length, List.length_replicate]

/-- A record as R310 writes it, over the state bytes `st`, opens to its payload (R314). -/
theorem openRecord_back {key : List Byte} (hk : 32 ≤ key.length) (s : Nat) (c : CtxEntry) (m : Model) (st : List Byte)
    (hs : st.length = m.stateBytes) (hm : m.stateBytes ≤ 2048 * m.halfPages) :
    let pl := st ++ List.replicate (2048 * m.halfPages - m.stateBytes) 0
    openRecord key s c m (cryptUnits false key s c (1 + 4 * m.halfPages) 0 (recordHeader s c m.stateBytes (crc64 st) ++ pl)) =
      some pl := by
  intro pl
  have hh := recordHeader_length s c m.stateBytes (crc64 st)
  have hpl : pl.length = 2048 * m.halfPages := by simp [pl, hs]; omega
  unfold openRecord
  rw [cryptUnits_back hk _ _ _ _ _ (by simp [hh, hpl]; omega)]
  have hd : (recordHeader s c m.stateBytes (crc64 st) ++ pl).drop 512 = pl := by
    rw [List.drop_append_of_le_length (by omega), List.drop_of_length_le (by omega), List.nil_append]
  have ht : (recordHeader s c m.stateBytes (crc64 st) ++ pl).take 512 = recordHeader s c m.stateBytes (crc64 st) := by
    rw [List.take_append_of_le_length (by omega), List.take_of_length_le (by omega)]
  have hst : pl.take m.stateBytes = st := by
    simp only [pl]; rw [List.take_append_of_le_length (by omega), List.take_of_length_le (by omega)]
  have hz : (recordHeader s c m.stateBytes (crc64 st) ++ pl).drop (512 + m.stateBytes) =
      List.replicate (2048 * m.halfPages - m.stateBytes) 0 := by
    rw [← List.drop_drop, hd]
    simp only [pl]
    rw [List.drop_append_of_le_length (by omega), List.drop_of_length_le (by omega), List.nil_append]
  simp [hd, ht, hst, hz]

end Sys2Proof.Machine
end

