-- ==== Sys2Proof/Laws/Log.lean ====
section
/-! SUPPORT. What the events of a command do to the error log: the queue and the waiting reactions stay within their bounds, a fatal
error and its code stay. -/

-- Declarations are elaborated one after another: side by side, each would hold a thread and its stack.
set_option Elab.async false

namespace Sys2Proof.Machine

theorem chainEntries_length (t : W64) (who : Option (Nat × Nat × W16)) (inj loss : Bool) (codes : List (W16 × W32)) :
    (chainEntries t who inj loss codes).length = min 4 codes.length := by simp [chainEntries]

-- Placing a chain (R612, R614) ------------------------------------------------------------------------------------------------

@[simp] theorem ErrLog.place_react (l : ErrLog) (es : List ErrEntry) : (l.place es).react = l.react := by
  unfold ErrLog.place; split <;> rfl
@[simp] theorem ErrLog.place_fatal (l : ErrLog) (es : List ErrEntry) : (l.place es).fatal = l.fatal := by
  unfold ErrLog.place; split <;> rfl
@[simp] theorem ErrLog.place_fcode (l : ErrLog) (es : List ErrEntry) : (l.place es).fcode = l.fcode := by
  unfold ErrLog.place; split <;> rfl
@[simp] theorem ErrLog.place_safe (l : ErrLog) (es : List ErrEntry) : (l.place es).safe = l.safe := by
  unfold ErrLog.place; split <;> rfl
@[simp] theorem ErrLog.place_err (l : ErrLog) (es : List ErrEntry) : (l.place es).err = l.err := by
  unfold ErrLog.place; split <;> rfl
theorem ErrLog.place_errq (l : ErrLog) (es : List ErrEntry) (h : l.errq.length ≤ 64) : (l.place es).errq.length ≤ 64 := by
  unfold ErrLog.place
  split
  · simpa using ‹_›
  · exact h

-- The bounds -----------------------------------------------------------------------------------------------------------------

/-- The bounds of R605, R611 and R612 on a log. -/
def ErrLog.ok (l : ErrLog) : Prop := l.errq.length ≤ 64 ∧ l.react.length ≤ 16 ∧ (l.fatal = true → l.react = [])

theorem ErrLog.place_ok (l : ErrLog) (es : List ErrEntry) (h : l.ok) : (l.place es).ok :=
  ⟨ErrLog.place_errq l es h.1, by simpa using h.2.1, by simpa using h.2.2⟩

theorem ErrLog.raiseFatal_ok (l : ErrLog) (c : W16) (es : List ErrEntry) (hq : l.errq.length ≤ 64)
    (hr : l.fatal = true → l.react = []) : (l.raiseFatal c es).ok := by
  unfold ErrLog.raiseFatal
  split
  · rename_i hf
    exact ⟨hq, by simp [hr hf], fun _ => hr hf⟩
  · exact ⟨hq, by simp, fun _ => rfl⟩

theorem ErrLog.raiseSafety_ok (t : W64) (l : ErrLog) (c : W16) (d : W32) (inj : Bool) (cores : List Nat) (h : l.ok) :
    (l.raiseSafety t c d inj cores).ok := by
  unfold ErrLog.raiseSafety
  split
  · exact h
  · rename_i hf
    dsimp only
    split
    · refine ErrLog.raiseFatal_ok _ _ _ (ErrLog.place_errq _ _ h.1) ?_
      simp [hf]
    · rename_i hn
      exact ⟨h.1, Nat.le_of_not_gt hn, fun hh => absurd hh hf⟩

theorem ErrLog.step_ok (t : W64) (l : ErrLog) (e : Ev) (h : l.ok) : (l.step t e).ok := by
  cases e with
  | chain codes who inj cores =>
    have hp := ErrLog.place_ok l (chainEntries t who inj l.loss codes) h
    rcases codes with _ | ⟨⟨c, d⟩, r⟩
    · exact hp
    · simp only [ErrLog.step]
      split
      · exact ErrLog.raiseFatal_ok _ _ _ hp.1 hp.2.2
      · split
        · exact ErrLog.raiseSafety_ok t _ c d inj cores hp
        · exact hp
  | safe => exact h
  | clearErr => exact h
  | pop => exact ⟨by simp only [ErrLog.step, List.length_drop]; have := h.1; omega, h.2⟩
  | takeReact =>
    refine ⟨h.1, ?_, fun hf => ?_⟩
    · simp only [ErrLog.step, List.length_drop]; have := h.2.1; omega
    · simp [ErrLog.step, h.2.2 hf]

theorem ErrLog.foldl_ok (t : W64) (es : List Ev) (l : ErrLog) (h : l.ok) : (es.foldl (fun l e => l.step t e) l).ok := by
  induction es generalizing l with
  | nil => exact h
  | cons e es ih => exact ih _ (ErrLog.step_ok t l e h)

theorem logAfter_ok (s : State) (w : Work) (h : s.log.ok) : (logAfter s w).ok := ErrLog.foldl_ok _ _ _ h

-- What stays (R608 to R610) ------------------------------------------------------------------------------------------------------

/-- The second log is the first after further events: a fatal error and its code stay, the safe state stays. -/
def ErrLog.keeps (l m : ErrLog) : Prop :=
  (l.fatal = true → m.fatal = true ∧ m.fcode = l.fcode) ∧ (l.safe = true → m.safe = true)

theorem ErrLog.raiseFatal_keeps (l : ErrLog) (c : W16) (es : List ErrEntry) : l.keeps (l.raiseFatal c es) := by
  unfold ErrLog.raiseFatal ErrLog.keeps
  split
  · exact ⟨fun h => ⟨h, rfl⟩, fun _ => rfl⟩
  · rename_i h
    exact ⟨fun hf => absurd hf h, fun hs => by simp [hs]⟩

theorem ErrLog.raiseSafety_keeps (t : W64) (l : ErrLog) (c : W16) (d : W32) (inj : Bool) (cores : List Nat) :
    l.keeps (l.raiseSafety t c d inj cores) := by
  unfold ErrLog.raiseSafety
  split
  · exact ⟨fun h => ⟨h, rfl⟩, fun h => h⟩
  · rename_i hf
    refine ⟨fun h => absurd h hf, fun hs => ?_⟩
    dsimp only
    split
    · exact (ErrLog.raiseFatal_keeps _ _ _).2 (by simpa using hs)
    · exact hs

theorem ErrLog.step_keeps (t : W64) (l : ErrLog) (e : Ev) : l.keeps (l.step t e) := by
  cases e with
  | chain codes who inj cores =>
    rcases codes with _ | ⟨⟨c, d⟩, r⟩
    · exact ⟨fun h => by simp [ErrLog.step, h], fun h => by simp [ErrLog.step, h]⟩
    · have key : ∀ m : ErrLog, (l.place (chainEntries t who inj l.loss ((c, d) :: r))).keeps m → l.keeps m := by
        intro m hm
        exact ⟨fun h => by simpa using hm.1 (by simpa using h), fun h => hm.2 (by simpa using h)⟩
      simp only [ErrLog.step]
      apply key
      split
      · exact ErrLog.raiseFatal_keeps _ _ _
      · split
        · exact ErrLog.raiseSafety_keeps t _ c d inj cores
        · exact ⟨fun h => ⟨h, rfl⟩, fun h => h⟩
  | safe => exact ⟨fun h => ⟨h, rfl⟩, fun _ => rfl⟩
  | clearErr => exact ⟨fun h => ⟨h, rfl⟩, fun h => h⟩
  | pop => exact ⟨fun h => ⟨h, rfl⟩, fun h => h⟩
  | takeReact => exact ⟨fun h => ⟨h, rfl⟩, fun h => h⟩

theorem ErrLog.foldl_keeps (t : W64) (es : List Ev) (l : ErrLog) : l.keeps (es.foldl (fun l e => l.step t e) l) := by
  induction es generalizing l with
  | nil => exact ⟨fun h => ⟨h, rfl⟩, fun h => h⟩
  | cons e es ih =>
    have h1 := ErrLog.step_keeps t l e
    have h2 := ih (l.step t e)
    refine ⟨fun h => ?_, fun h => h2.2 (h1.2 h)⟩
    obtain ⟨ha, hb⟩ := h1.1 h
    obtain ⟨hc, hd⟩ := h2.1 ha
    exact ⟨hc, hd.trans hb⟩

theorem logAfter_keeps (s : State) (w : Work) : s.log.keeps (logAfter s w) := ErrLog.foldl_keeps _ _ _

-- The log of a commit --------------------------------------------------------------------------------------------------------------

theorem commitWork_log_ok (s : State) (w : Work) (h : s.log.ok) : (commitWork s w).log.ok := by
  have := logAfter_ok s w h
  unfold commitWork
  dsimp only
  split
  · exact this
  · exact this

theorem commitWork_log_keeps (s : State) (w : Work) : s.log.keeps (commitWork s w).log := by
  have := logAfter_keeps s w
  unfold commitWork
  dsimp only
  split
  · exact ⟨this.1, fun _ => rfl⟩
  · exact this

end Sys2Proof.Machine
end

