-- ==== Sys2Proof/Laws/Issue.lean ====
section
/-! SUPPORT. What issuing an instruction does, said once: an instruction that completes leaves the working copy its meaning
gives it, with the pc moved on; one that sleeps or fails changes what Res says. -/

-- Declarations are elaborated one after another: side by side, each would hold a thread and its stack.
set_option Elab.async false

namespace Sys2Proof.Machine

-- Lists and cores -----------------------------------------------------------------------------------------------------------

theorem nth_setNth_same {α : Type} (d : α) (l : List α) (i : Nat) (v : α) (h : i < l.length) : nth d (setNth l i v) i = v := by
  simp [nth, setNth, h]

theorem nth_setNth_other {α : Type} (d : α) (l : List α) (i j : Nat) (v : α) (h : j ≠ i) :
    nth d (setNth l i v) j = nth d l j := by
  simp [nth, setNth, Ne.symm h]

theorem setNth_setNth {α : Type} (l : List α) (i : Nat) (a b : α) : setNth (setNth l i a) i b = setNth l i b := by
  simp [setNth]

theorem setNth_self {α : Type} (d : α) (l : List α) (i : Nat) : setNth l i (nth d l i) = l := by
  unfold setNth nth
  by_cases h : i < l.length
  · simp [h]
  · rw [List.set_eq_of_length_le (by omega)]

@[simp] theorem length_setNth {α : Type} (l : List α) (i : Nat) (v : α) : (setNth l i v).length = l.length := by simp [setNth]

theorem nth_out {α : Type} (d : α) (l : List α) (i : Nat) (h : l.length ≤ i) : nth d l i = d := by
  simp [nth, List.getElem?_eq_none h]

theorem init_thread (t : Nat) : (Core.init.thread t).st = .ended := by
  unfold Core.thread nth
  cases h : Core.init.threads[t]? with
  | none => rfl
  | some x =>
    have := List.mem_of_getElem? h
    simp only [Core.init, List.mem_replicate] at this
    simp [this.2, Thread.init]

/-- A thread that runs belongs to a core and a thread that exist. -/
theorem running_core (w : Work) (p t : Nat) (h : (w.thread p t).st = .running) : p < w.d.cores.length := by
  by_cases hp : p < w.d.cores.length
  · exact hp
  · have : w.core p = Core.init := nth_out _ _ _ (by omega)
    rw [Work.thread, this, init_thread] at h
    exact absurd h (by simp)

theorem running_thread (w : Work) (p t : Nat) (h : (w.thread p t).st = .running) : t < (w.core p).threads.length := by
  by_cases ht : t < (w.core p).threads.length
  · exact ht
  · have : (w.core p).thread t = Thread.init := nth_out _ _ _ (by omega)
    rw [Work.thread, this] at h
    exact absurd h (by simp [Thread.init])

-- Working copies ------------------------------------------------------------------------------------------------------------------

@[simp] theorem modCore_tb (w : Work) (p : Nat) (f : Core → Core) : (w.modCore p f).tb = w.tb := rfl
@[simp] theorem modCore_log (w : Work) (p : Nat) (f : Core → Core) : (w.modCore p f).log = w.log := rfl
@[simp] theorem modCore_ram (w : Work) (p : Nat) (f : Core → Core) : (w.modCore p f).ram = w.ram := rfl
@[simp] theorem modCore_wr (w : Work) (p : Nat) (f : Core → Core) : (w.modCore p f).wr = w.wr := rfl
@[simp] theorem modCore_ev (w : Work) (p : Nat) (f : Core → Core) : (w.modCore p f).ev = w.ev := rfl
@[simp] theorem modThread_tb (w : Work) (p t : Nat) (f : Thread → Thread) : (w.modThread p t f).tb = w.tb := rfl
@[simp] theorem modThread_log (w : Work) (p t : Nat) (f : Thread → Thread) : (w.modThread p t f).log = w.log := rfl
@[simp] theorem modThread_ram (w : Work) (p t : Nat) (f : Thread → Thread) : (w.modThread p t f).ram = w.ram := rfl
@[simp] theorem modThread_wr (w : Work) (p t : Nat) (f : Thread → Thread) : (w.modThread p t f).wr = w.wr := rfl
@[simp] theorem modThread_ev (w : Work) (p t : Nat) (f : Thread → Thread) : (w.modThread p t f).ev = w.ev := rfl

/-- The core that was changed. -/
theorem modCore_core_same (w : Work) (p : Nat) (f : Core → Core) (h : p < w.d.cores.length) :
    (w.modCore p f).core p = f (w.core p) := nth_setNth_same _ _ _ _ h

/-- Every other core. -/
theorem modCore_core_other (w : Work) (p q : Nat) (f : Core → Core) (h : q ≠ p) : (w.modCore p f).core q = w.core q :=
  nth_setNth_other _ _ _ _ _ h

theorem modThread_eq (w : Work) (p t : Nat) (f : Thread → Thread) :
    w.modThread p t f = w.modCore p fun c => c.withThread t (f (c.thread t)) := rfl

/-- Two changes of one core. -/
theorem modCore_modCore (w : Work) (p : Nat) (f g : Core → Core) :
    (w.modCore p f).modCore p g = w.modCore p fun c => if p < w.d.cores.length then g (f c) else f c := by
  by_cases h : p < w.d.cores.length
  · simp [Work.modCore, Work.core, nth_setNth_same, h, setNth_setNth]
  · have : ∀ v, setNth w.d.cores p v = w.d.cores := fun v => List.set_eq_of_length_le (by omega)
    simp [Work.modCore, this]

@[simp] theorem withThread_thread_same (k : Core) (t : Nat) (th : Thread) (h : t < k.threads.length) :
    (k.withThread t th).thread t = th := nth_setNth_same _ _ _ _ h

-- Ends of instructions --------------------------------------------------------------------------------------------------------------

/-- A running thread makes no deadlock. -/
theorem stallCheck_running (w : Work) (p t : Nat) (ht : t < 8) (h : (w.thread p t).st = .running) : w.stallCheck p = w := by
  have hmem : t ∈ w.liveThreads p := by simp [Work.liveThreads, ht, h]
  have hw : w.stillWaits p t = none := by simp [Work.stillWaits, h]
  have hall : ∀ f : Nat → Bool, f t = false → (w.liveThreads p).all f = false := by
    intro f hf
    rw [List.all_eq_false]
    exact ⟨t, hmem, by simp [hf]⟩
  unfold Work.stallCheck
  by_cases hc : (w.core p).cur.isNone = true
  · simp [hc]
  · simp only [hc]
    rw [hall _ (by simp [hw]), hall _ (by simp [hw])]
    simp

/-- What current tells. -/
theorem current_running {w : Work} {p t : Nat} {x : Ctx × Option (Nat × Nat)} (h : w.current p t = some x) :
    (w.thread p t).st = .running ∧ t < 8 ∧ p < 32 ∧ w.ctxOf p = some x.1 ∧ x.1.e.ph = .run ∧
      x.2 = fetchAt x.1.img (w.thread p t).pc := by
  unfold Work.current at h
  split at h
  · rename_i hc
    simp only [Bool.and_eq_true, beq_iff_eq, decide_eq_true_eq] at hc
    split at h
    · rename_i c hctx
      split at h
      · rename_i hph
        simp only [Option.some.injEq] at h
        subst h
        exact ⟨hc.1.1, hc.1.2, hc.2, hctx, by simpa using hph, rfl⟩
      · simp at h
    · simp at h
  · simp at h

/-- An instruction of a row at a running thread, up to how it ends. -/
theorem run_instr (row : Row) (p t : Nat) (f : Ctx → Nat → Nat → Work → Res) (s : State) (word : Nat)
    (h : s.issues p t row word = true) :
    ∃ c, s.ctx? p = some c ∧ c.e.ph = .run ∧
      run (instr row p t f) s = .next (commitWork s (s.work.apply p t ((f c word 4 s.work).counted row p))) := by
  simp only [State.issues, State.acts, Bool.and_eq_true, Bool.not_eq_true', decide_eq_true_eq] at h
  obtain ⟨⟨⟨⟨⟨hfatal, hpow⟩, -⟩, hcur⟩, hrow⟩, harm⟩ := h
  cases hx : s.work.current p t with
  | none => simp [hx] at hcur
  | some x =>
    obtain ⟨c, o⟩ := x
    simp only [hx, Option.map_some, Option.some.injEq] at hcur
    have hr := current_running hx
    refine ⟨c, hr.2.2.2.1, hr.2.2.2.2.1, ?_⟩
    have hlive : (s.work.log.fatal || !s.work.d.boot.powered) = false := by simp [State.work, hfatal, hpow]
    have ha : s.work.takeArmed 2 p = none := by simpa using harm
    unfold run lift live
    simp only [hlive, Bool.false_eq_true, if_false]
    unfold instr
    simp [hx, hcur, hrow, ha]

/-- An issuing thread is running and its numbers are in range. -/
theorem issues_running {s : State} {p t : Nat} {row : Row} {word : Nat} (h : s.issues p t row word = true) :
    (s.thread p t).st = .running ∧ t < 8 ∧ p < 32 := by
  simp only [State.issues, State.acts, Bool.and_eq_true, decide_eq_true_eq] at h
  obtain ⟨⟨⟨⟨-, -⟩, hcur⟩, -⟩, -⟩ := h
  cases hx : s.work.current p t with
  | none => simp [hx] at hcur
  | some x => exact ⟨(current_running hx).1, (current_running hx).2.1, (current_running hx).2.2.1⟩

/-- An instruction that completes without an event: the SRAM changes and the units of its working copy, its core moved on. -/
theorem run_instr_done (row : Row) (p t : Nat) (f : Ctx → Nat → Nat → Work → Res) (s : State) (word : Nat) (w : Work)
    (h : s.issues p t row word = true) (hf : ∀ c, s.ctx? p = some c → f c word 4 s.work = w.done p t)
    (hev : w.ev = []) (hirq : w.d.irq = s.dev.irq) (hcfg : w.d.cfg = s.dev.cfg)
    (hst : (w.thread p t).st = .running) :
    run (instr row p t f) s = .next
      ({ s with ram := w.wr.reverse.foldl Ram.step s.ram, dev := w.d }.withCore p ((w.core p).advanced row t)) := by
  obtain ⟨c, hc, -, hrun⟩ := run_instr row p t f s word h
  rw [hrun, hf c hc]
  have h8 := (issues_running h).2.1
  have hp := running_core w p t hst
  have ht := running_thread w p t hst
  simp only [State.issues, State.acts, Bool.and_eq_true, decide_eq_true_eq] at h
  obtain ⟨⟨⟨⟨-, hlines⟩, -⟩, -⟩, -⟩ := h
  have hlin : s.dev.irq.lines = irqLines s.dev := by simpa [State.linesOk] using hlines
  have key : s.work.apply p t ((w.done p t).counted row p) = w.modCore p fun k => k.advanced row t := by
    have hs : ∀ k : Core, (k.thread t).st = .running → k.threads.length = (w.core p).threads.length →
        (w.modCore p fun _ => k).stallCheck p = w.modCore p fun _ => k := by
      intro k hk _
      refine stallCheck_running _ p t h8 ?_
      rw [Work.thread, modCore_core_same _ _ _ hp]
      exact hk
    have hadv : (((w.core p).advanced row t).thread t).st = .running := by
      have : ((w.core p).advanced row t).thread t = { (w.core p).thread t with pc := ((w.core p).thread t).pc + 4 } :=
        nth_setNth_same _ _ _ _ ht
      rw [this]; exact hst
    have e : (w.modCore p fun k => k.advanced row t) = w.modCore p fun _ => (w.core p).advanced row t := rfl
    rw [e]
    cases hv : row.isVector with
    | true =>
      simp only [Work.done, Res.counted, hv, if_true, Work.apply, modThread_eq, modCore_modCore, hp]
      have e2 : (w.modCore p fun c => ({ c with perf := { c.perf with vops := (c.perf.vops + 1) % 2 ^ 64 } } : Core).withThread t
          { ({ c with perf := { c.perf with vops := (c.perf.vops + 1) % 2 ^ 64 } } : Core).thread t with pc := (w.thread p t).pc + 4 })
          = w.modCore p fun _ => (w.core p).advanced row t := by
        simp only [Work.modCore, Core.advanced, hv, if_true]; rfl
      rw [e2]
      exact hs _ hadv (by simp [Core.advanced])
    | false =>
      simp only [Work.done, Res.counted, hv, Bool.false_eq_true, if_false, Work.apply, modThread_eq]
      have e2 : (w.modCore p fun c => c.withThread t { c.thread t with pc := (w.thread p t).pc + 4 })
          = w.modCore p fun _ => (w.core p).advanced row t := by
        simp only [Work.modCore, Core.advanced, hv]; rfl
      rw [e2]
      exact hs _ hadv (by simp [Core.advanced])
  rw [key]
  have hl : (w.modCore p fun k => k.advanced row t).d.irq.lines = irqLines (w.modCore p fun k => k.advanced row t).d := by
    rw [irqLines_congr (w.modCore p fun k => k.advanced row t).d s.dev hirq hcfg]
    simp only [Work.modCore, hirq, hlin]
  have := commitWork_quiet s (w.modCore p fun k => k.advanced row t) hev hl
  rw [this]
  rfl

/-- An instruction that changes its core alone. -/
theorem run_instr_core (row : Row) (p t : Nat) (f : Ctx → Nat → Nat → Work → Res) (s : State) (word : Nat) (k : Core)
    (h : s.issues p t row word = true)
    (hf : ∀ c, s.ctx? p = some c → f c word 4 s.work = (s.work.modCore p fun _ => k).done p t)
    (hst : (k.thread t).st = .running) :
    run (instr row p t f) s = .next (s.withCore p (k.advanced row t)) := by
  have hp := running_core s.work p t (issues_running h).1
  have hk : (s.work.modCore p fun _ => k).core p = k := modCore_core_same _ _ _ hp
  rw [run_instr_done row p t f s word _ h hf rfl rfl rfl (by rw [Work.thread, hk]; exact hst), hk]
  simp [State.withCore, Work.modCore, State.work, setNth_setNth]

/-- An instruction that changes vector registers, masks and flags alone. -/
theorem run_instr_vec (row : Row) (p t : Nat) (f : Ctx → Nat → Nat → Work → Res) (s : State) (word : Nat) (vec : VecState)
    (fl : XFlags) (h : s.issues p t row word = true)
    (hf : ∀ c, s.ctx? p = some c →
      f c word 4 s.work = (s.work.modCore p fun _ => { s.core p with vec := vec, flags := fl }).done p t) :
    run (instr row p t f) s =
      .next (s.withCore p { (s.core p).advanced row t with vec := vec, flags := fl }) :=
  run_instr_core row p t f s word _ h hf (issues_running h).1

/-- An instruction that changes its thread's registers and the core's flags. -/
theorem run_instr_reg (row : Row) (p t : Nat) (f : Ctx → Nat → Nat → Work → Res) (s : State) (word : Nat) (fl : XFlags)
    (th : Thread) (h : s.issues p t row word = true) (hst : th.st = .running)
    (hf : ∀ c, s.ctx? p = some c → f c word 4 s.work =
      (s.work.modCore p fun _ => { s.core p with flags := fl }.withThread t th).done p t) :
    run (instr row p t f) s =
      .next (s.withCore p (({ s.core p with flags := fl }.withThread t th).advanced row t)) := by
  have ht := running_thread s.work p t (issues_running h).1
  have hth : ({ s.core p with flags := fl }.withThread t th).thread t = th := withThread_thread_same _ _ _ ht
  exact run_instr_core row p t f s word _ h hf (by rw [hth]; exact hst)

end Sys2Proof.Machine
end

