-- ==== Sys2Proof/Laws/Vector.lean ====
section
/-! SUPPORT. What the shared operations of the vector engine do: writing a vector register, writing a mask register, gathering
flags and poison. -/

-- Declarations are elaborated one after another: side by side, each would hold a thread and its stack.
set_option Elab.async false

namespace Sys2Proof.Machine

@[simp] theorem setLane_m (s : VecState) (r i : Nat) (v : W32) (p : Bool) : (s.setLane r i v p).m = s.m := rfl

/-- One lane written, every lane read. -/
theorem setLane_lane (s : VecState) (r i q j : Nat) (v : W32) (p : Bool) (hi : i < 64) (hj : j < 64) :
    ((s.setLane r i v p).lane q j, (s.setLane r i v p).poisoned q j) =
      if q = r ∧ j = i then (v, p) else (s.lane q j, s.poisoned q j) := by
  by_cases h : 64 * q + j = 64 * r + i
  · have h' : q = r ∧ j = i := by omega
    simp [VecState.setLane, VecState.lane, VecState.poisoned, h']
  · have h' : ¬ (q = r ∧ j = i) := by omega
    simp only [VecState.setLane, VecState.lane, VecState.poisoned, tabGet_tabSet, h, if_false, h']

theorem writeLanes_m (vs : VecState) (vl : Nat) (me mz : Bool) (msk vd : Nat) (f : Nat → W32 × Bool) :
    (writeLanes vs vl me mz msk vd f).m = vs.m := by
  unfold writeLanes
  generalize hl : lanes64 = l
  clear hl
  suffices h : ∀ acc : VecState, acc.m = vs.m → (l.foldl (fun acc i =>
      if laneActive vs vl me msk i then acc.setLane vd i (f i).1 (f i).2
      else if mz && decide (i < vl) then acc.setLane vd i 0 false else acc) acc).m = vs.m from h vs rfl
  induction l with
  | nil => exact fun _ h => h
  | cons a l ih =>
    intro acc h
    apply ih
    dsimp only
    split
    · exact h
    · split <;> exact h

/-- Writing a destination register is the rule of R182. -/
theorem writeLanes_spec (vs : VecState) (vl : Nat) (me mz : Bool) (msk vd : Nat) (f : Nat → W32 × Bool) :
    lanesWritten vs (writeLanes vs vl me mz msk vd f) vl me mz msk vd f := by
  refine ⟨writeLanes_m vs vl me mz msk vd f, ?_⟩
  unfold writeLanes lanes64
  suffices h : ∀ n, n ≤ 64 → ∀ r l, l < 64 →
      (((List.range n).foldl (fun acc i =>
        if laneActive vs vl me msk i then acc.setLane vd i (f i).1 (f i).2
        else if mz && decide (i < vl) then acc.setLane vd i 0 false else acc) vs).lane r l,
       ((List.range n).foldl (fun acc i =>
        if laneActive vs vl me msk i then acc.setLane vd i (f i).1 (f i).2
        else if mz && decide (i < vl) then acc.setLane vd i 0 false else acc) vs).poisoned r l) =
      if l < n then
        (if r = vd ∧ laneActive vs vl me msk l = true then f l
         else if r = vd ∧ mz = true ∧ l < vl then (0, false) else (vs.lane r l, vs.poisoned r l))
      else (vs.lane r l, vs.poisoned r l) by
    intro r l hl
    rw [h 64 (Nat.le_refl 64) r l hl]
    simp [hl]
  intro n hn r l hl
  induction n with
  | zero => simp
  | succ n ih =>
    rw [List.range_succ, List.foldl_append]
    simp only [List.foldl_cons, List.foldl_nil]
    have ih := ih (by omega)
    generalize ((List.range n).foldl (fun acc i =>
        if laneActive vs vl me msk i then acc.setLane vd i (f i).1 (f i).2
        else if mz && decide (i < vl) then acc.setLane vd i 0 false else acc) vs) = acc at ih ⊢
    by_cases ha : laneActive vs vl me msk n = true
    · rw [if_pos ha, setLane_lane _ _ _ _ _ _ _ (by omega) hl, ih]
      by_cases hln : l = n
      · subst hln
        by_cases hr : r = vd
        · simp [hr, ha]
        · simp [hr]
      · have : l < n + 1 ↔ l < n := by omega
        simp [hln, this]
    · rw [if_neg ha]
      by_cases hz : (mz && decide (n < vl)) = true
      · rw [if_pos hz, setLane_lane _ _ _ _ _ _ _ (by omega) hl, ih]
        simp only [Bool.and_eq_true, decide_eq_true_eq] at hz
        by_cases hln : l = n
        · subst hln
          by_cases hr : r = vd
          · simp [hr, ha, hz]
          · simp [hr]
        · have : l < n + 1 ↔ l < n := by omega
          simp [hln, this]
      · rw [if_neg hz, ih]
        simp only [Bool.and_eq_true, decide_eq_true_eq] at hz
        by_cases hln : l = n
        · subst hln
          simp only [Nat.lt_irrefl, if_false, Nat.lt_succ_self, if_true]
          by_cases hr : r = vd
          · simp [hr, ha, hz]
          · simp [hr]
        · have : l < n + 1 ↔ l < n := by omega
          simp [this]

/-- A sum of distinct powers of two has its bits where the summands stand. -/
theorem maskSum_lt (f : Nat → Bool) (n : Nat) : ((List.range n).map fun i => if f i then 2 ^ i else 0).sum < 2 ^ n := by
  induction n with
  | zero => simp
  | succ n ih =>
    rw [List.range_succ, List.map_append, List.sum_append]
    simp only [List.map_cons, List.map_nil, List.sum_cons, List.sum_nil, Nat.add_zero]
    have : (if f n = true then 2 ^ n else 0) ≤ 2 ^ n := by split <;> omega
    rw [Nat.pow_succ]
    omega

theorem maskSum_testBit (f : Nat → Bool) (n l : Nat) (hl : l < n) :
    (((List.range n).map fun i => if f i then 2 ^ i else 0).sum).testBit l = f l := by
  induction n with
  | zero => omega
  | succ n ih =>
    rw [List.range_succ, List.map_append, List.sum_append]
    simp only [List.map_cons, List.map_nil, List.sum_cons, List.sum_nil, Nat.add_zero]
    have hlt := maskSum_lt f n
    by_cases hn : l = n
    · subst hn
      by_cases hf : f l = true
      · simp only [hf, if_true]
        rw [Nat.add_comm, Nat.testBit_two_pow_add_eq, Nat.testBit_lt_two_pow hlt]
        rfl
      · have hf : f l = false := by simpa using hf
        simp only [hf, Bool.false_eq_true, if_false, Nat.add_zero]
        rw [Nat.testBit_lt_two_pow hlt]
    · have hln : l < n := by omega
      by_cases hf : f n = true
      · simp only [hf, if_true]
        rw [Nat.add_comm, Nat.testBit_two_pow_add_gt hln, ih hln]
      · have hf : f n = false := by simpa using hf
        simp only [hf, Bool.false_eq_true, if_false, Nat.add_zero]
        exact ih hln

/-- A mask built from its bits has them. -/
theorem maskOf_bit (f : Nat → Bool) (l : Nat) (hl : l < 64) : (maskOf f).getLsbD l = f l := by
  have h := maskSum_testBit f 64 l hl
  unfold maskOf lanes64
  generalize ((List.range 64).map fun i => if f i then 2 ^ i else 0).sum = n at h ⊢
  rw [BitVec.getLsbD_ofNat, h]
  simp [hl]

/-- Writing a destination mask is the rule of R182 and R188. -/
theorem writeMask_spec (vs : VecState) (vl : Nat) (me mz : Bool) (msk md : Nat) (f : Nat → Bool) :
    maskWritten vs (writeMask vs vl me mz msk md f) vl me mz msk md f := by
  have hm : ∀ (v : BitVec 64) (r : Nat), (vs.setMask md v).mask r = if r = md then v else vs.mask r :=
    fun v r => tabGet_tabSet _ _ _ _ _
  have hv : ∀ v : BitVec 64, (vs.setMask md v).v = vs.v := fun _ => rfl
  have hp : ∀ v : BitVec 64, (vs.setMask md v).p = vs.p := fun _ => rfl
  refine ⟨hv _, hp _, ?_⟩
  intro r l hl
  refine Eq.trans (congrArg (fun x : BitVec 64 => x.getLsbD l) (hm _ r)) ?_
  by_cases hr : r = md
  · subst hr
    simp only [if_true]
    refine Eq.trans (maskOf_bit _ l hl) ?_
    simp only [true_and, Bool.and_eq_true, decide_eq_true_eq]
  · simp only [hr, if_false, false_and]

/-- The active lanes' flags joined one after another are their flags together. -/
theorem foldl_flags {α : Type} (ls : List α) (f : α → Flags) (a : Flags) :
    ls.foldl (fun a i => Flags.or a (f i)) a = Flags.or a (flagsOver (ls.map f)) := by
  induction ls generalizing a with
  | nil => simp [flagsOver, Flags.or]
  | cons x l ih =>
    rw [List.foldl_cons, ih]
    simp [flagsOver, Flags.or, Bool.or_assoc]

theorem laneFlags_eq (vs : VecState) (vl : Nat) (me : Bool) (msk : Nat) (f : Nat → Flags) :
    laneFlags vs vl me msk f = flagsOver ((active vs vl me msk).map f) := by
  unfold laneFlags active lanes64
  rw [foldl_flags]
  simp [Flags.or, Flags.none]

/-- Some active lane reads poison. -/
theorem anyPoison_eq (vs : VecState) (vl : Nat) (me : Bool) (msk : Nat) (srcs : List Nat) :
    anyPoison vs vl me msk srcs = (active vs vl me msk).any fun l => srcs.any fun r => vs.poisoned r l := by
  simp [anyPoison, active, lanes64, List.any_filter]

/-- The two-source rows run their operation. -/
theorem exec_bin (i : Instr) (row p t op) (hi : vopCommand i = some (row, p, t)) (hop : row.binOp = some op) (s) :
    exec i s = run (instr row p t (vopBin op p t)) s := by
  cases i <;> simp only [vopCommand, Option.some.injEq, reduceCtorEq, Prod.mk.injEq] at hi <;>
    obtain ⟨rfl, rfl, rfl⟩ := hi <;> simp only [Row.binOp, Option.some.injEq, reduceCtorEq] at hop <;> subst hop <;>
    show run (instr _ _ _ (vopBin _ _ _)) s = _ <;> 
    congr 3 <;> funext a b <;> simp [noFlags, BitVec.slt]

/-- The one-source rows run their operation. -/
theorem exec_un (i : Instr) (row p t op) (hi : vopCommand i = some (row, p, t)) (hop : row.unOp = some op) (s) :
    exec i s = run (instr row p t (vopUn op p t)) s := by
  cases i <;> simp only [vopCommand, Option.some.injEq, reduceCtorEq, Prod.mk.injEq] at hi <;>
    obtain ⟨rfl, rfl, rfl⟩ := hi <;> simp only [Row.unOp, Option.some.injEq, reduceCtorEq] at hop <;> subst hop <;>
    rfl

/-- The comparisons run their operation. -/
theorem exec_cmp (i : Instr) (row p t op) (hi : vopCommand i = some (row, p, t)) (hop : row.cmpOp = some op) (s) :
    exec i s = run (instr row p t (vopCmp op p t)) s := by
  cases i <;> simp only [vopCommand, Option.some.injEq, reduceCtorEq, Prod.mk.injEq] at hi <;>
    obtain ⟨rfl, rfl, rfl⟩ := hi <;> simp only [Row.cmpOp, Option.some.injEq, reduceCtorEq] at hop <;> subst hop <;>
    rfl

/-- The mask rows run their logic. -/
theorem exec_mask (i : Instr) (row p t op) (hi : vopCommand i = some (row, p, t)) (hop : row.maskLogic = some op) (s) :
    exec i s = run (instr row p t (vopMask op p t)) s := by
  cases i <;> simp only [vopCommand, Option.some.injEq, reduceCtorEq, Prod.mk.injEq] at hi <;>
    obtain ⟨rfl, rfl, rfl⟩ := hi <;> simp only [Row.maskLogic, Option.some.injEq, reduceCtorEq] at hop <;> subst hop <;>
    show run (instr _ _ _ (vopMask _ _ _)) s = _ <;> congr 3

/-- PS accumulates (R170). -/
theorem setPs_eq (fl : XFlags) (b : Bool) : fl.setPs b = { fl with ps := fl.ps || b } := by
  simp [XFlags.setPs]

end Sys2Proof.Machine
end

