-- ==== Sys2Proof/Laws/Memory.lean ====
section
/-! SUPPORT. What the loads of the memory engine do, and what the SRAM operations leave, said once. -/

-- Declarations are elaborated one after another: side by side, each would hold a thread and its stack.
set_option Elab.async false

namespace Sys2Proof.Machine

-- Loads ---------------------------------------------------------------------------------------------------------------------

/-- No lane fails where every lane has a value. -/
theorem firstErr_none {α : Type} (f : Nat → Except W16 α) (ls : List Nat) (h : ∀ l ∈ ls, ∃ x, f l = .ok x) :
    firstErr f ls = none := by
  induction ls with
  | nil => rfl
  | cons a l ih =>
    obtain ⟨x, hx⟩ := h a (by simp)
    simp [firstErr, hx, ih fun b hb => h b (by simp [hb])]

/-- A load whose active lanes all have a value writes them and changes nothing else. -/
theorem loadLanes_ok (p t : Nat) (v : VmemF) (f : Nat → Except W16 (W32 × Bool)) (s : State) (val : Nat → W32 × Bool)
    (h : ∀ l ∈ active (s.core p).vec (s.thread p t).vl v.me v.msk, f l = .ok (val l)) :
    ∃ vec, loadLanes p t v f s.work =
        (s.work.modCore p fun _ => { s.core p with vec := vec, flags := (s.core p).flags }).done p t ∧
      lanesWritten (s.core p).vec vec (s.thread p t).vl v.me v.mz v.msk v.vd val := by
  have he : firstErr f (activeLanes (s.work.core p).vec (s.work.thread p t).vl v) = none :=
    firstErr_none _ _ fun l hl => ⟨_, h l hl⟩
  refine ⟨writeLanes (s.core p).vec (s.thread p t).vl v.me v.mz v.msk v.vd fun i => match f i with
    | .ok x => x
    | .error _ => (0, false), ?_, ?_⟩
  · unfold loadLanes
    simp only [he]
    rfl
  · obtain ⟨h1, h2⟩ := writeLanes_spec (s.core p).vec (s.thread p t).vl v.me v.mz v.msk v.vd fun i => match f i with
      | .ok x => x
      | .error _ => (0, false)
    refine ⟨h1, fun r l hl => ?_⟩
    rw [h2 r l hl]
    by_cases hc : r = v.vd ∧ laneActive (s.core p).vec (s.thread p t).vl v.me v.msk l = true
    · have : f l = .ok (val l) := h l (by simp [active, hl, hc.2])
      simp only [hc, and_self, if_true, this]
    · simp only [hc, if_false]

-- The SRAMs --------------------------------------------------------------------------------------------------------------------

/-- Every change of the SRAMs keeps their canonical form. -/
theorem Ram.step_wf (r : Ram) (op : RamOp) (h : r.wf = true) : (r.step op).wf = true := by
  simp only [Ram.wf, Bool.and_eq_true] at h ⊢
  obtain ⟨⟨⟨⟨⟨⟨h1, h2⟩, h3⟩, h4⟩, h5⟩, h6⟩, h7⟩ := h
  cases op with
  | byte m a v =>
    match m with
    | 0 => exact ⟨⟨⟨⟨⟨⟨tabWf_tabSet _ _ _ _ h1, h2⟩, h3⟩, h4⟩, h5⟩, h6⟩, h7⟩
    | 1 => exact ⟨⟨⟨⟨⟨⟨h1, tabWf_tabSet _ _ _ _ h2⟩, h3⟩, h4⟩, h5⟩, h6⟩, h7⟩
    | 2 => exact ⟨⟨⟨⟨⟨⟨h1, h2⟩, tabWf_tabSet _ _ _ _ h3⟩, h4⟩, h5⟩, h6⟩, h7⟩
    | 3 => exact ⟨⟨⟨⟨⟨⟨h1, h2⟩, h3⟩, tabWf_tabSet _ _ _ _ h4⟩, h5⟩, h6⟩, h7⟩
    | n + 4 => exact ⟨⟨⟨⟨⟨⟨h1, h2⟩, h3⟩, h4⟩, tabWf_tabSet _ _ _ _ h5⟩, h6⟩, h7⟩
  | poison m g b =>
    match m with
    | 0 => exact ⟨⟨⟨⟨⟨⟨h1, h2⟩, h3⟩, h4⟩, h5⟩, tabWf_tabSet _ _ _ _ h6⟩, h7⟩
    | n + 1 => exact ⟨⟨⟨⟨⟨⟨h1, h2⟩, h3⟩, h4⟩, h5⟩, h6⟩, tabWf_tabSet _ _ _ _ h7⟩

theorem Ram.foldl_step_wf (ops : List RamOp) (r : Ram) (h : r.wf = true) : (ops.foldl Ram.step r).wf = true := by
  induction ops generalizing r with
  | nil => exact h
  | cons op ops ih => exact ih _ (Ram.step_wf r op h)

/-- A commit keeps the canonical form of the SRAMs. -/
theorem commitWork_memoryOk (s : State) (w : Work) (h : s.memoryOk = true) : (commitWork s w).memoryOk = true :=
  Ram.foldl_step_wf _ _ h

/-- Reading a byte after one change. -/
theorem Ram.get_step_byte (r : Ram) (mem a : Nat) (v : Byte) (m b : Nat) (hm : mem < 5) (h : m < 5) :
    (r.step (.byte mem a v)).get m b = if m = mem ∧ b = a then v else r.get m b := by
  have hmem : mem = 0 ∨ mem = 1 ∨ mem = 2 ∨ mem = 3 ∨ mem = 4 := by omega
  have hm' : m = 0 ∨ m = 1 ∨ m = 2 ∨ m = 3 ∨ m = 4 := by omega
  rcases hmem with rfl | rfl | rfl | rfl | rfl <;> rcases hm' with rfl | rfl | rfl | rfl | rfl <;>
    simp [Ram.step, Ram.get, tabGet_tabSet]

theorem Ram.get_step_poison (r : Ram) (mem g : Nat) (x : Bool) (m b : Nat) :
    (r.step (.poison mem g x)).get m b = r.get m b := by
  match mem with
  | 0 => rfl
  | n + 1 => rfl

/-- Reading a granule's poison after one change. -/
theorem Ram.poisoned_step_byte (r : Ram) (mem a : Nat) (v : Byte) (m g : Nat) :
    (r.step (.byte mem a v)).poisoned m g = r.poisoned m g := by
  match mem with
  | 0 => rfl
  | 1 => rfl
  | 2 => rfl
  | 3 => rfl
  | n + 4 => rfl

theorem Ram.poisoned_step_poison (r : Ram) (mem g : Nat) (x : Bool) (m h : Nat) (hm : mem < 2) (h2 : m < 2) :
    (r.step (.poison mem g x)).poisoned m h = if m = mem ∧ h = g then x else r.poisoned m h := by
  have hmem : mem = 0 ∨ mem = 1 := by omega
  have hm' : m = 0 ∨ m = 1 := by omega
  rcases hmem with rfl | rfl <;> rcases hm' with rfl | rfl <;> simp [Ram.step, Ram.poisoned, tabGet_tabSet]

end Sys2Proof.Machine
end

