-- ==== Sys2Proof/Laws/Exec.lean ====
section
/-! SUPPORT. What any command can do, said once: it always answers a next state, and that is a commit of some working copy, a commit
beside a new timebase, or a reset; the queue is kept, and a safe state stays safe. -/

-- Declarations are elaborated one after another: side by side, each would hold a thread and its stack.
set_option Elab.async false

namespace Sys2Proof.Machine

/-- The commands that are no commit of a working copy: the resets and the samples of the timebase. -/
def Instr.special : Instr → Bool
  | .rstNFall | .rstNRise | .pwrOkFall | .timebaseUpdate .. | .tbInvalid => true
  | _ => false

/-- Every other command is a change of the working copy, committed. -/
theorem exec_lift (c : Instr) (s : State) (h : Instr.special c = false) : ∃ f, exec c s = lift f s := by
  cases c <;> first | exact ⟨_, rfl⟩ | simp [Instr.special] at h

/-- The samples of the timebase: nothing, or a commit beside a new timebase. -/
theorem timebaseUpdate_form (ns : Nat) (valid : Bool) (s : State) :
    timebaseUpdate ns valid s = s ∨ ∃ w tb, timebaseUpdate ns valid s = { commitWork s w with tb := tb } := by
  unfold timebaseUpdate
  split
  · exact .inl rfl
  · exact .inr ⟨_, _, rfl⟩

theorem tbInvalid_form (s : State) : tbInvalid s = s ∨ ∃ w tb, tbInvalid s = { commitWork s w with tb := tb } := by
  simp only [tbInvalid]
  split
  · exact .inl rfl
  · exact .inr ⟨_, _, rfl⟩

/-- What a next state can be. -/
theorem exec_cases (c : Instr) (s : State) :
    ∃ t, exec c s = .next t ∧
      (t = s ∨ (∃ p u, t = s.lose p u ∧ (c = .rstNFall ∨ c = .rstNRise ∨ c = .pwrOkFall)) ∨
        ∃ w tb, t = { commitWork s w with tb := tb }) := by
  cases hs : Instr.special c with
  | false =>
    obtain ⟨f, hf⟩ := exec_lift c s hs
    exact ⟨commitWork s (f s.work), hf, .inr (.inr ⟨f s.work, s.tb, rfl⟩)⟩
  | true =>
    cases c <;> simp [Instr.special] at hs
    case timebaseUpdate ns v =>
      exact ⟨_, rfl, (timebaseUpdate_form ns v s).elim .inl fun h => .inr (.inr h)⟩
    case tbInvalid => exact ⟨_, rfl, (tbInvalid_form s).elim .inl fun h => .inr (.inr h)⟩
    case rstNFall => exact ⟨_, rfl, .inr (.inl ⟨false, _, rfl, .inl rfl⟩)⟩
    case pwrOkFall => exact ⟨_, rfl, .inr (.inl ⟨false, _, rfl, .inr (.inr rfl)⟩)⟩
    case rstNRise =>
      refine ⟨_, rfl, ?_⟩
      cases s.dev.boot.powered
      · exact .inr (.inl ⟨true, _, rfl, .inr (.inl rfl)⟩)
      · exact .inl rfl

/-- No command changes the queue. -/
theorem exec_pending (c : Instr) (s t : State) (h : exec c s = .next t) : t.pending = s.pending := by
  obtain ⟨u, hu, hc⟩ := exec_cases c s
  cases h.symm.trans hu
  rcases hc with rfl | ⟨p, v, rfl, -⟩ | ⟨w, tb, rfl⟩ <;> rfl

-- Safe states -------------------------------------------------------------------------------------------------------------------

theorem safeState_iff (s : State) : s.safeState = true ↔ s.ram.wf = true ∧ s.log.ok ∧ s.linesOk = true := by
  simp only [State.safeState, State.memoryOk, State.errqOk, State.reactOk, ErrLog.ok, Bool.and_eq_true, decide_eq_true_eq,
    Bool.or_eq_true, Bool.not_eq_true', List.isEmpty_iff]
  constructor
  · rintro ⟨⟨⟨a, b⟩, c, d⟩, e⟩
    exact ⟨a, ⟨b, c, fun hf => d.resolve_left (by simp [hf])⟩, e⟩
  · rintro ⟨a, ⟨b, c, d⟩, e⟩
    refine ⟨⟨⟨a, b⟩, c, ?_⟩, e⟩
    cases hf : s.log.fatal
    · exact .inl rfl
    · exact .inr (d hf)

theorem lose_safeState (s : State) (p v : Bool) : (s.lose p v).safeState = true := by
  have : (s.lose p v).linesOk = true := by
    have h : irqLines (s.lose p v).dev = irqLines Dev.reset := irqLines_congr _ _ rfl rfl
    unfold State.linesOk
    rw [h]
    exact (by decide : decide (Dev.reset.irq.lines = irqLines Dev.reset) = true)
  rw [safeState_iff]
  exact ⟨rfl, (by decide : ErrLog.reset.errq.length ≤ 64 ∧ ErrLog.reset.react.length ≤ 16 ∧ (ErrLog.reset.fatal = true → ErrLog.reset.react = [])),
    this⟩

theorem commitWork_safeState (s : State) (w : Work) (tb : Timebase) (h : s.safeState = true) :
    ({ commitWork s w with tb := tb } : State).safeState = true := by
  rw [safeState_iff] at h ⊢
  exact ⟨commitWork_memoryOk s w h.1, commitWork_log_ok s w h.2.1, commitWork_linesOk s w⟩

end Sys2Proof.Machine
end

