-- ==== Sys2Proof/Laws/PerInstr.lean ====
section
/-! SUPPORT. What well-formedness says of every command as it is written: each of its numbers fits 64 bits. One lemma per command. -/

namespace Sys2Proof.Laws.WellFormed

-- One lemma at a time: elaborated side by side, each would hold a thread of its own.
set_option Elab.async false

/-- The numbers a command carries: the ring, core, thread, stream, port, slot or page it names, and its times and codes. -/
def operands (i : Instr) : List Nat :=
  match i with
  | .step ring => [ring]
  | .chunk ring => [ring]
  | .biwin ring => [ring]
  | .bind ring => [ring]
  | .release ring => [ring]
  | .fill ring => [ring]
  | .spill ring => [ring]
  | .wload ring => [ring]
  | .tload ring => [ring]
  | .tfence ring => [ring]
  | .fence ring => [ring]
  | .kill ring => [ring]
  | .nop ring => [ring]
  | .tableRead ring => [ring]
  | .streamDrift ring => [ring]
  | .streamRestore ring => [ring]
  | .winCounts ring => [ring]
  | .challenge ring => [ring]
  | .auth ring => [ring]
  | .close ring => [ring]
  | .attest ring => [ring]
  | .propose ring => [ring]
  | .countersign ring => [ring]
  | .withdraw ring => [ring]
  | .perfRead ring => [ring]
  | .retireRead ring => [ring]
  | .retire ring => [ring]
  | .castRegion ring => [ring]
  | .doorbellPollTimer => []
  | .nudge => []
  | .doorbellPageRead => []
  | .descriptorFetch ring => [ring]
  | .batchListRead ring seq => [ring, seq]
  | .descriptorResume ring seq => [ring, seq]
  | .coresGranted hold => [hold]
  | .coreStepEnd core => [core]
  | .commitPoint ring seq => [ring, seq]
  | .deadlinePassed ring seq => [ring, seq]
  | .fillVerified stream => [stream]
  | .fillFailed stream => [stream]
  | .spillWritesAccepted stream => [stream]
  | .spillFail stream => [stream]
  | .pageZeroed page => [page]
  | .digestPassDone stream => [stream]
  | .contextPatrol _ _ => []
  | .portReadResponse port id _ status _ _ => [port, id, status]
  | .portWriteResponse port id status => [port, id, status]
  | .retryBudgetExpiry port id => [port, id]
  | .ledgerEntryAccepted => []
  | .tloadDone ring seq => [ring, seq]
  | .tfenceProcessed ring seq => [ring, seq]
  | .bankSwitch core => [core]
  | .resyncDone core => [core]
  | .csrAccess core thread => [core, thread]
  | .baseInstruction core thread _ => [core, thread]
  | .fadd core thread => [core, thread]
  | .fsub core thread => [core, thread]
  | .fmul core thread => [core, thread]
  | .fma core thread => [core, thread]
  | .fnma core thread => [core, thread]
  | .fmin core thread => [core, thread]
  | .fmax core thread => [core, thread]
  | .fsgnj core thread => [core, thread]
  | .iadd core thread => [core, thread]
  | .isub core thread => [core, thread]
  | .imul core thread => [core, thread]
  | .imin core thread => [core, thread]
  | .imax core thread => [core, thread]
  | .vand core thread => [core, thread]
  | .vor core thread => [core, thread]
  | .vxor core thread => [core, thread]
  | .vsll core thread => [core, thread]
  | .vsrl core thread => [core, thread]
  | .vsra core thread => [core, thread]
  | .fcmplt core thread => [core, thread]
  | .fcmple core thread => [core, thread]
  | .fcmpeq core thread => [core, thread]
  | .icmplt core thread => [core, thread]
  | .icmpeq core thread => [core, thread]
  | .fcvti core thread => [core, thread]
  | .icvtf core thread => [core, thread]
  | .fabs core thread => [core, thread]
  | .fneg core thread => [core, thread]
  | .vmov core thread => [core, thread]
  | .laneid core thread => [core, thread]
  | .vsplat core thread => [core, thread]
  | .vsel core thread => [core, thread]
  | .reduceFsum core thread => [core, thread]
  | .reduceFmax core thread => [core, thread]
  | .reduceFmin core thread => [core, thread]
  | .reduceIsum core thread => [core, thread]
  | .reduceImax core thread => [core, thread]
  | .reduceImin core thread => [core, thread]
  | .mpop core thread => [core, thread]
  | .mfirst core thread => [core, thread]
  | .mand core thread => [core, thread]
  | .mor core thread => [core, thread]
  | .mandn core thread => [core, thread]
  | .mxor core thread => [core, thread]
  | .mnot core thread => [core, thread]
  | .mset core thread => [core, thread]
  | .mclr core thread => [core, thread]
  | .vfn core thread => [core, thread]
  | .vgact core thread => [core, thread]
  | .vld core thread => [core, thread]
  | .vst core thread => [core, thread]
  | .prd core thread => [core, thread]
  | .pwr core thread => [core, thread]
  | .vlds core thread => [core, thread]
  | .vsts core thread => [core, thread]
  | .vrng core thread => [core, thread]
  | .vldb core thread => [core, thread]
  | .xmma core thread => [core, thread]
  | .xrel core thread => [core, thread]
  | .xchain core thread => [core, thread]
  | .xtally core thread => [core, thread]
  | .xstout core thread => [core, thread]
  | .xstin core thread => [core, thread]
  | .xstrd core thread => [core, thread]
  | .fetch core thread => [core, thread]
  | .store core thread => [core, thread]
  | .stage core thread => [core, thread]
  | .rfree core thread => [core, thread]
  | .wopen core thread => [core, thread]
  | .wclose core thread => [core, thread]
  | .xsetvl core thread => [core, thread]
  | .xwait core thread => [core, thread]
  | .xcnt core thread => [core, thread]
  | .xstart core thread => [core, thread]
  | .xend core thread => [core, thread]
  | .xjoin core thread => [core, thread]
  | .xfence core thread => [core, thread]
  | .xcset core thread => [core, thread]
  | .threadWake core thread => [core, thread]
  | .xwaitLimit core thread => [core, thread]
  | .mmaComputeStart core => [core]
  | .mmaDrainDone core => [core]
  | .tallyCompute core slot => [core, slot]
  | .chainMerge core chain => [core, chain]
  | .fetchPassComplete port slot => [port, slot]
  | .fetchLineLand port slot => [port, slot]
  | .sprueLineAccept core => [core]
  | .gatherDrain core line => [core, line]
  | .remoteStoreArrival core => [core]
  | .remoteStoreAck core => [core]
  | .meshFlitArrival fromCore toCore _ _ kind src dst => [fromCore, toCore, kind, src, dst]
  | .caliperComparison core _ _ _ => [core]
  | .probeCountReached core => [core]
  | .trimProcedureDone _ => []
  | .brateWindowEnd _ => []
  | .timebaseUpdate ns _ => [ns]
  | .tbInvalid => []
  | .stall unit core inst => [unit, core, inst]
  | .codewordInvalid unit core inst => [unit, core, inst]
  | .maquetteSchedule => []
  | .maquetteForce core => [core]
  | .maquetteDone core _ unit => [core, unit]
  | .safetyReactionStart => []
  | .retestDone core _ => [core]
  | .eccFinding _ => []
  | .patrolScrub _ => []
  | .lockScrubDone core _ => [core]
  | .fatalError code => [code]
  | .castSectionWritten => []
  | .castTimeout => []
  | .sfAliveToggle _ => []
  | .sfSafeReq => []
  | .helloTimer => []
  | .hello link _ => [link]
  | .proof link _ => [link]
  | .heartbeatTimer => []
  | .heartbeat link _ => [link]
  | .digestSendTimer => []
  | .digest link _ => [link]
  | .digestWaitExpiry stream gen => [stream, gen]
  | .linkSilence link pos => [link, pos]
  | .rejoinReq link _ => [link]
  | .rejoinPassStep => []
  | .stateFrame link _ => [link]
  | .held link _ => [link]
  | .fillReq link _ => [link]
  | .installAck link _ => [link]
  | .spanData link _ => [link]
  | .spanAck link _ => [link]
  | .spanAckTimeout sid link dst => [sid, link, dst]
  | .spanHeldExpiry => []
  | .frameDiscard link _ => [link]
  | .gclEntryChange => []
  | .linkFaultReceived link kind => [link, kind]
  | .ethTxClockStop link => [link]
  | .authLockoutExpiry => []
  | .proposalExpiry => []
  | .quiesceComplete => []
  | .rngFail => []
  | .telemetryWindow power => [power]
  | .keyRecordReceived _ => []
  | .keyRecordTimeout => []
  | .selftestDone _ _ => []
  | .fwChecksDone _ => []
  | .bootCtrlGo _ => []
  | .stCtrlRetrim _ => []
  | .stCtrlOpp _ => []
  | .armtCtxSelWrite _ => []
  | .numsigLoRead => []
  | .ledgerSeqLoRead => []
  | .sqEnable ring _ => [ring]
  | .sqDisable ring _ => [ring]
  | .cqEnable ring _ => [ring]
  | .cqDisable ring _ => [ring]
  | .irqPendClear _ _ => []
  | .errqPendClear _ => []
  | .safeStatusErrClear _ => []
  | .pop _ => []
  | .safeInjectGo _ => []
  | .pair _ => []
  | .rejoin _ => []
  | .promote _ => []
  | .demote _ => []
  | .peerResyncGo _ => []
  | .configWrite offset _ => [offset]
  | .bypass _ => []
  | .idcode => []
  | .sqstat => []
  | .sqcfg _ => []
  | .sqmem _ => []
  | .sqhalt _ => []
  | .tapReset => []
  | .rstNFall => []
  | .rstNRise => []
  | .pwrOkFall => []
  | .portRequestGrant port id _ => [port, id]
  | .frameTransmitEnd link => [link]

/-- A well-formed command carries no number of more than 64 bits. -/
def Statement (i : Instr) : Prop := wellFormed i = true → ∀ n ∈ operands i, n < 2 ^ 64

theorem step (ring : Nat) : Statement (.step ring) := by
  intro h n hn; simp [wellFormed, ringOk] at h; simp [operands] at hn; omega
theorem chunk (ring : Nat) : Statement (.chunk ring) := by
  intro h n hn; simp [wellFormed, ringOk] at h; simp [operands] at hn; omega
theorem biwin (ring : Nat) : Statement (.biwin ring) := by
  intro h n hn; simp [wellFormed, ringOk] at h; simp [operands] at hn; omega
theorem bind (ring : Nat) : Statement (.bind ring) := by
  intro h n hn; simp [wellFormed, ringOk] at h; simp [operands] at hn; omega
theorem release (ring : Nat) : Statement (.release ring) := by
  intro h n hn; simp [wellFormed, ringOk] at h; simp [operands] at hn; omega
theorem fill (ring : Nat) : Statement (.fill ring) := by
  intro h n hn; simp [wellFormed, ringOk] at h; simp [operands] at hn; omega
theorem spill (ring : Nat) : Statement (.spill ring) := by
  intro h n hn; simp [wellFormed, ringOk] at h; simp [operands] at hn; omega
theorem wload (ring : Nat) : Statement (.wload ring) := by
  intro h n hn; simp [wellFormed, ringOk] at h; simp [operands] at hn; omega
theorem tload (ring : Nat) : Statement (.tload ring) := by
  intro h n hn; simp [wellFormed, ringOk] at h; simp [operands] at hn; omega
theorem tfence (ring : Nat) : Statement (.tfence ring) := by
  intro h n hn; simp [wellFormed, ringOk] at h; simp [operands] at hn; omega
theorem fence (ring : Nat) : Statement (.fence ring) := by
  intro h n hn; simp [wellFormed, ringOk] at h; simp [operands] at hn; omega
theorem kill (ring : Nat) : Statement (.kill ring) := by
  intro h n hn; simp [wellFormed, ringOk] at h; simp [operands] at hn; omega
theorem nop (ring : Nat) : Statement (.nop ring) := by
  intro h n hn; simp [wellFormed, ringOk] at h; simp [operands] at hn; omega
theorem tableRead (ring : Nat) : Statement (.tableRead ring) := by
  intro h n hn; simp [wellFormed, ringOk] at h; simp [operands] at hn; omega
theorem streamDrift (ring : Nat) : Statement (.streamDrift ring) := by
  intro h n hn; simp [wellFormed, ringOk] at h; simp [operands] at hn; omega
theorem streamRestore (ring : Nat) : Statement (.streamRestore ring) := by
  intro h n hn; simp [wellFormed, ringOk] at h; simp [operands] at hn; omega
theorem winCounts (ring : Nat) : Statement (.winCounts ring) := by
  intro h n hn; simp [wellFormed, ringOk] at h; simp [operands] at hn; omega
theorem challenge (ring : Nat) : Statement (.challenge ring) := by
  intro h n hn; simp [wellFormed, ringOk] at h; simp [operands] at hn; omega
theorem auth (ring : Nat) : Statement (.auth ring) := by
  intro h n hn; simp [wellFormed, ringOk] at h; simp [operands] at hn; omega
theorem close (ring : Nat) : Statement (.close ring) := by
  intro h n hn; simp [wellFormed, ringOk] at h; simp [operands] at hn; omega
theorem attest (ring : Nat) : Statement (.attest ring) := by
  intro h n hn; simp [wellFormed, ringOk] at h; simp [operands] at hn; omega
theorem propose (ring : Nat) : Statement (.propose ring) := by
  intro h n hn; simp [wellFormed, ringOk] at h; simp [operands] at hn; omega
theorem countersign (ring : Nat) : Statement (.countersign ring) := by
  intro h n hn; simp [wellFormed, ringOk] at h; simp [operands] at hn; omega
theorem withdraw (ring : Nat) : Statement (.withdraw ring) := by
  intro h n hn; simp [wellFormed, ringOk] at h; simp [operands] at hn; omega
theorem perfRead (ring : Nat) : Statement (.perfRead ring) := by
  intro h n hn; simp [wellFormed, ringOk] at h; simp [operands] at hn; omega
theorem retireRead (ring : Nat) : Statement (.retireRead ring) := by
  intro h n hn; simp [wellFormed, ringOk] at h; simp [operands] at hn; omega
theorem retire (ring : Nat) : Statement (.retire ring) := by
  intro h n hn; simp [wellFormed, ringOk] at h; simp [operands] at hn; omega
theorem castRegion (ring : Nat) : Statement (.castRegion ring) := by
  intro h n hn; simp [wellFormed, ringOk] at h; simp [operands] at hn; omega
theorem doorbellPollTimer : Statement (.doorbellPollTimer) := by
  intro _ n hn; simp [operands] at hn
theorem nudge : Statement (.nudge) := by
  intro _ n hn; simp [operands] at hn
theorem doorbellPageRead : Statement (.doorbellPageRead) := by
  intro _ n hn; simp [operands] at hn
theorem descriptorFetch (ring : Nat) : Statement (.descriptorFetch ring) := by
  intro h n hn; simp [wellFormed, ringOk] at h; simp [operands] at hn; omega
theorem batchListRead (ring : Nat) (seq : Nat) : Statement (.batchListRead ring seq) := by
  intro h n hn; simp [wellFormed, keyOk, ringOk] at h; simp [operands] at hn; omega
theorem descriptorResume (ring : Nat) (seq : Nat) : Statement (.descriptorResume ring seq) := by
  intro h n hn; simp [wellFormed, keyOk, ringOk] at h; simp [operands] at hn; omega
theorem coresGranted (hold : Nat) : Statement (.coresGranted hold) := by
  intro h n hn; simp [wellFormed, maskOk] at h; simp [operands] at hn; omega
theorem coreStepEnd (core : Nat) : Statement (.coreStepEnd core) := by
  intro h n hn; simp [wellFormed, coreOk] at h; simp [operands] at hn; omega
theorem commitPoint (ring : Nat) (seq : Nat) : Statement (.commitPoint ring seq) := by
  intro h n hn; simp [wellFormed, keyOk, ringOk] at h; simp [operands] at hn; omega
theorem deadlinePassed (ring : Nat) (seq : Nat) : Statement (.deadlinePassed ring seq) := by
  intro h n hn; simp [wellFormed, keyOk, ringOk] at h; simp [operands] at hn; omega
theorem fillVerified (stream : Nat) : Statement (.fillVerified stream) := by
  intro h n hn; simp [wellFormed, streamOk] at h; simp [operands] at hn; omega
theorem fillFailed (stream : Nat) : Statement (.fillFailed stream) := by
  intro h n hn; simp [wellFormed, streamOk] at h; simp [operands] at hn; omega
theorem spillWritesAccepted (stream : Nat) : Statement (.spillWritesAccepted stream) := by
  intro h n hn; simp [wellFormed, streamOk] at h; simp [operands] at hn; omega
theorem spillFail (stream : Nat) : Statement (.spillFail stream) := by
  intro h n hn; simp [wellFormed, streamOk] at h; simp [operands] at hn; omega
theorem pageZeroed (page : Nat) : Statement (.pageZeroed page) := by
  intro h n hn; simp [wellFormed, pageOk] at h; simp [operands] at hn; omega
theorem digestPassDone (stream : Nat) : Statement (.digestPassDone stream) := by
  intro h n hn; simp [wellFormed, streamOk] at h; simp [operands] at hn; omega
theorem contextPatrol (ctxBad : List Nat) (stateBad : List Nat) : Statement (.contextPatrol ctxBad stateBad) := by
  intro _ n hn; simp [operands] at hn
theorem portReadResponse (port : Nat) (id : Nat) (data : List Byte) (status : Nat) (poison : Bool) (tags : List Byte) : Statement (.portReadResponse port id data status poison tags) := by
  intro h n hn; simp [wellFormed, idOk, portOk, statusOk] at h; simp [operands] at hn; omega
theorem portWriteResponse (port : Nat) (id : Nat) (status : Nat) : Statement (.portWriteResponse port id status) := by
  intro h n hn; simp [wellFormed, idOk, portOk, statusOk] at h; simp [operands] at hn; omega
theorem retryBudgetExpiry (port : Nat) (id : Nat) : Statement (.retryBudgetExpiry port id) := by
  intro h n hn; simp [wellFormed, idOk, portOk] at h; simp [operands] at hn; omega
theorem ledgerEntryAccepted : Statement (.ledgerEntryAccepted) := by
  intro _ n hn; simp [operands] at hn
theorem tloadDone (ring : Nat) (seq : Nat) : Statement (.tloadDone ring seq) := by
  intro h n hn; simp [wellFormed, keyOk, ringOk] at h; simp [operands] at hn; omega
theorem tfenceProcessed (ring : Nat) (seq : Nat) : Statement (.tfenceProcessed ring seq) := by
  intro h n hn; simp [wellFormed, keyOk, ringOk] at h; simp [operands] at hn; omega
theorem bankSwitch (core : Nat) : Statement (.bankSwitch core) := by
  intro h n hn; simp [wellFormed, coreOk] at h; simp [operands] at hn; omega
theorem resyncDone (core : Nat) : Statement (.resyncDone core) := by
  intro h n hn; simp [wellFormed, coreOk] at h; simp [operands] at hn; omega
theorem csrAccess (core : Nat) (thread : Nat) : Statement (.csrAccess core thread) := by
  intro h n hn; simp [wellFormed, coreOk, threadOk] at h; simp [operands] at hn; omega
theorem baseInstruction (core : Nat) (thread : Nat) (shadowOk : Bool) : Statement (.baseInstruction core thread shadowOk) := by
  intro h n hn; simp [wellFormed, coreOk, threadOk] at h; simp [operands] at hn; omega
theorem fadd (core : Nat) (thread : Nat) : Statement (.fadd core thread) := by
  intro h n hn; simp [wellFormed, coreOk, threadOk] at h; simp [operands] at hn; omega
theorem fsub (core : Nat) (thread : Nat) : Statement (.fsub core thread) := by
  intro h n hn; simp [wellFormed, coreOk, threadOk] at h; simp [operands] at hn; omega
theorem fmul (core : Nat) (thread : Nat) : Statement (.fmul core thread) := by
  intro h n hn; simp [wellFormed, coreOk, threadOk] at h; simp [operands] at hn; omega
theorem fma (core : Nat) (thread : Nat) : Statement (.fma core thread) := by
  intro h n hn; simp [wellFormed, coreOk, threadOk] at h; simp [operands] at hn; omega
theorem fnma (core : Nat) (thread : Nat) : Statement (.fnma core thread) := by
  intro h n hn; simp [wellFormed, coreOk, threadOk] at h; simp [operands] at hn; omega
theorem fmin (core : Nat) (thread : Nat) : Statement (.fmin core thread) := by
  intro h n hn; simp [wellFormed, coreOk, threadOk] at h; simp [operands] at hn; omega
theorem fmax (core : Nat) (thread : Nat) : Statement (.fmax core thread) := by
  intro h n hn; simp [wellFormed, coreOk, threadOk] at h; simp [operands] at hn; omega
theorem fsgnj (core : Nat) (thread : Nat) : Statement (.fsgnj core thread) := by
  intro h n hn; simp [wellFormed, coreOk, threadOk] at h; simp [operands] at hn; omega
theorem iadd (core : Nat) (thread : Nat) : Statement (.iadd core thread) := by
  intro h n hn; simp [wellFormed, coreOk, threadOk] at h; simp [operands] at hn; omega
theorem isub (core : Nat) (thread : Nat) : Statement (.isub core thread) := by
  intro h n hn; simp [wellFormed, coreOk, threadOk] at h; simp [operands] at hn; omega
theorem imul (core : Nat) (thread : Nat) : Statement (.imul core thread) := by
  intro h n hn; simp [wellFormed, coreOk, threadOk] at h; simp [operands] at hn; omega
theorem imin (core : Nat) (thread : Nat) : Statement (.imin core thread) := by
  intro h n hn; simp [wellFormed, coreOk, threadOk] at h; simp [operands] at hn; omega
theorem imax (core : Nat) (thread : Nat) : Statement (.imax core thread) := by
  intro h n hn; simp [wellFormed, coreOk, threadOk] at h; simp [operands] at hn; omega
theorem vand (core : Nat) (thread : Nat) : Statement (.vand core thread) := by
  intro h n hn; simp [wellFormed, coreOk, threadOk] at h; simp [operands] at hn; omega
theorem vor (core : Nat) (thread : Nat) : Statement (.vor core thread) := by
  intro h n hn; simp [wellFormed, coreOk, threadOk] at h; simp [operands] at hn; omega
theorem vxor (core : Nat) (thread : Nat) : Statement (.vxor core thread) := by
  intro h n hn; simp [wellFormed, coreOk, threadOk] at h; simp [operands] at hn; omega
theorem vsll (core : Nat) (thread : Nat) : Statement (.vsll core thread) := by
  intro h n hn; simp [wellFormed, coreOk, threadOk] at h; simp [operands] at hn; omega
theorem vsrl (core : Nat) (thread : Nat) : Statement (.vsrl core thread) := by
  intro h n hn; simp [wellFormed, coreOk, threadOk] at h; simp [operands] at hn; omega
theorem vsra (core : Nat) (thread : Nat) : Statement (.vsra core thread) := by
  intro h n hn; simp [wellFormed, coreOk, threadOk] at h; simp [operands] at hn; omega
theorem fcmplt (core : Nat) (thread : Nat) : Statement (.fcmplt core thread) := by
  intro h n hn; simp [wellFormed, coreOk, threadOk] at h; simp [operands] at hn; omega
theorem fcmple (core : Nat) (thread : Nat) : Statement (.fcmple core thread) := by
  intro h n hn; simp [wellFormed, coreOk, threadOk] at h; simp [operands] at hn; omega
theorem fcmpeq (core : Nat) (thread : Nat) : Statement (.fcmpeq core thread) := by
  intro h n hn; simp [wellFormed, coreOk, threadOk] at h; simp [operands] at hn; omega
theorem icmplt (core : Nat) (thread : Nat) : Statement (.icmplt core thread) := by
  intro h n hn; simp [wellFormed, coreOk, threadOk] at h; simp [operands] at hn; omega
theorem icmpeq (core : Nat) (thread : Nat) : Statement (.icmpeq core thread) := by
  intro h n hn; simp [wellFormed, coreOk, threadOk] at h; simp [operands] at hn; omega
theorem fcvti (core : Nat) (thread : Nat) : Statement (.fcvti core thread) := by
  intro h n hn; simp [wellFormed, coreOk, threadOk] at h; simp [operands] at hn; omega
theorem icvtf (core : Nat) (thread : Nat) : Statement (.icvtf core thread) := by
  intro h n hn; simp [wellFormed, coreOk, threadOk] at h; simp [operands] at hn; omega
theorem fabs (core : Nat) (thread : Nat) : Statement (.fabs core thread) := by
  intro h n hn; simp [wellFormed, coreOk, threadOk] at h; simp [operands] at hn; omega
theorem fneg (core : Nat) (thread : Nat) : Statement (.fneg core thread) := by
  intro h n hn; simp [wellFormed, coreOk, threadOk] at h; simp [operands] at hn; omega
theorem vmov (core : Nat) (thread : Nat) : Statement (.vmov core thread) := by
  intro h n hn; simp [wellFormed, coreOk, threadOk] at h; simp [operands] at hn; omega
theorem laneid (core : Nat) (thread : Nat) : Statement (.laneid core thread) := by
  intro h n hn; simp [wellFormed, coreOk, threadOk] at h; simp [operands] at hn; omega
theorem vsplat (core : Nat) (thread : Nat) : Statement (.vsplat core thread) := by
  intro h n hn; simp [wellFormed, coreOk, threadOk] at h; simp [operands] at hn; omega
theorem vsel (core : Nat) (thread : Nat) : Statement (.vsel core thread) := by
  intro h n hn; simp [wellFormed, coreOk, threadOk] at h; simp [operands] at hn; omega
theorem reduceFsum (core : Nat) (thread : Nat) : Statement (.reduceFsum core thread) := by
  intro h n hn; simp [wellFormed, coreOk, threadOk] at h; simp [operands] at hn; omega
theorem reduceFmax (core : Nat) (thread : Nat) : Statement (.reduceFmax core thread) := by
  intro h n hn; simp [wellFormed, coreOk, threadOk] at h; simp [operands] at hn; omega
theorem reduceFmin (core : Nat) (thread : Nat) : Statement (.reduceFmin core thread) := by
  intro h n hn; simp [wellFormed, coreOk, threadOk] at h; simp [operands] at hn; omega
theorem reduceIsum (core : Nat) (thread : Nat) : Statement (.reduceIsum core thread) := by
  intro h n hn; simp [wellFormed, coreOk, threadOk] at h; simp [operands] at hn; omega
theorem reduceImax (core : Nat) (thread : Nat) : Statement (.reduceImax core thread) := by
  intro h n hn; simp [wellFormed, coreOk, threadOk] at h; simp [operands] at hn; omega
theorem reduceImin (core : Nat) (thread : Nat) : Statement (.reduceImin core thread) := by
  intro h n hn; simp [wellFormed, coreOk, threadOk] at h; simp [operands] at hn; omega
theorem mpop (core : Nat) (thread : Nat) : Statement (.mpop core thread) := by
  intro h n hn; simp [wellFormed, coreOk, threadOk] at h; simp [operands] at hn; omega
theorem mfirst (core : Nat) (thread : Nat) : Statement (.mfirst core thread) := by
  intro h n hn; simp [wellFormed, coreOk, threadOk] at h; simp [operands] at hn; omega
theorem mand (core : Nat) (thread : Nat) : Statement (.mand core thread) := by
  intro h n hn; simp [wellFormed, coreOk, threadOk] at h; simp [operands] at hn; omega
theorem mor (core : Nat) (thread : Nat) : Statement (.mor core thread) := by
  intro h n hn; simp [wellFormed, coreOk, threadOk] at h; simp [operands] at hn; omega
theorem mandn (core : Nat) (thread : Nat) : Statement (.mandn core thread) := by
  intro h n hn; simp [wellFormed, coreOk, threadOk] at h; simp [operands] at hn; omega
theorem mxor (core : Nat) (thread : Nat) : Statement (.mxor core thread) := by
  intro h n hn; simp [wellFormed, coreOk, threadOk] at h; simp [operands] at hn; omega
theorem mnot (core : Nat) (thread : Nat) : Statement (.mnot core thread) := by
  intro h n hn; simp [wellFormed, coreOk, threadOk] at h; simp [operands] at hn; omega
theorem mset (core : Nat) (thread : Nat) : Statement (.mset core thread) := by
  intro h n hn; simp [wellFormed, coreOk, threadOk] at h; simp [operands] at hn; omega
theorem mclr (core : Nat) (thread : Nat) : Statement (.mclr core thread) := by
  intro h n hn; simp [wellFormed, coreOk, threadOk] at h; simp [operands] at hn; omega
theorem vfn (core : Nat) (thread : Nat) : Statement (.vfn core thread) := by
  intro h n hn; simp [wellFormed, coreOk, threadOk] at h; simp [operands] at hn; omega
theorem vgact (core : Nat) (thread : Nat) : Statement (.vgact core thread) := by
  intro h n hn; simp [wellFormed, coreOk, threadOk] at h; simp [operands] at hn; omega
theorem vld (core : Nat) (thread : Nat) : Statement (.vld core thread) := by
  intro h n hn; simp [wellFormed, coreOk, threadOk] at h; simp [operands] at hn; omega
theorem vst (core : Nat) (thread : Nat) : Statement (.vst core thread) := by
  intro h n hn; simp [wellFormed, coreOk, threadOk] at h; simp [operands] at hn; omega
theorem prd (core : Nat) (thread : Nat) : Statement (.prd core thread) := by
  intro h n hn; simp [wellFormed, coreOk, threadOk] at h; simp [operands] at hn; omega
theorem pwr (core : Nat) (thread : Nat) : Statement (.pwr core thread) := by
  intro h n hn; simp [wellFormed, coreOk, threadOk] at h; simp [operands] at hn; omega
theorem vlds (core : Nat) (thread : Nat) : Statement (.vlds core thread) := by
  intro h n hn; simp [wellFormed, coreOk, threadOk] at h; simp [operands] at hn; omega
theorem vsts (core : Nat) (thread : Nat) : Statement (.vsts core thread) := by
  intro h n hn; simp [wellFormed, coreOk, threadOk] at h; simp [operands] at hn; omega
theorem vrng (core : Nat) (thread : Nat) : Statement (.vrng core thread) := by
  intro h n hn; simp [wellFormed, coreOk, threadOk] at h; simp [operands] at hn; omega
theorem vldb (core : Nat) (thread : Nat) : Statement (.vldb core thread) := by
  intro h n hn; simp [wellFormed, coreOk, threadOk] at h; simp [operands] at hn; omega
theorem xmma (core : Nat) (thread : Nat) : Statement (.xmma core thread) := by
  intro h n hn; simp [wellFormed, coreOk, threadOk] at h; simp [operands] at hn; omega
theorem xrel (core : Nat) (thread : Nat) : Statement (.xrel core thread) := by
  intro h n hn; simp [wellFormed, coreOk, threadOk] at h; simp [operands] at hn; omega
theorem xchain (core : Nat) (thread : Nat) : Statement (.xchain core thread) := by
  intro h n hn; simp [wellFormed, coreOk, threadOk] at h; simp [operands] at hn; omega
theorem xtally (core : Nat) (thread : Nat) : Statement (.xtally core thread) := by
  intro h n hn; simp [wellFormed, coreOk, threadOk] at h; simp [operands] at hn; omega
theorem xstout (core : Nat) (thread : Nat) : Statement (.xstout core thread) := by
  intro h n hn; simp [wellFormed, coreOk, threadOk] at h; simp [operands] at hn; omega
theorem xstin (core : Nat) (thread : Nat) : Statement (.xstin core thread) := by
  intro h n hn; simp [wellFormed, coreOk, threadOk] at h; simp [operands] at hn; omega
theorem xstrd (core : Nat) (thread : Nat) : Statement (.xstrd core thread) := by
  intro h n hn; simp [wellFormed, coreOk, threadOk] at h; simp [operands] at hn; omega
theorem fetch (core : Nat) (thread : Nat) : Statement (.fetch core thread) := by
  intro h n hn; simp [wellFormed, coreOk, threadOk] at h; simp [operands] at hn; omega
theorem store (core : Nat) (thread : Nat) : Statement (.store core thread) := by
  intro h n hn; simp [wellFormed, coreOk, threadOk] at h; simp [operands] at hn; omega
theorem stage (core : Nat) (thread : Nat) : Statement (.stage core thread) := by
  intro h n hn; simp [wellFormed, coreOk, threadOk] at h; simp [operands] at hn; omega
theorem rfree (core : Nat) (thread : Nat) : Statement (.rfree core thread) := by
  intro h n hn; simp [wellFormed, coreOk, threadOk] at h; simp [operands] at hn; omega
theorem wopen (core : Nat) (thread : Nat) : Statement (.wopen core thread) := by
  intro h n hn; simp [wellFormed, coreOk, threadOk] at h; simp [operands] at hn; omega
theorem wclose (core : Nat) (thread : Nat) : Statement (.wclose core thread) := by
  intro h n hn; simp [wellFormed, coreOk, threadOk] at h; simp [operands] at hn; omega
theorem xsetvl (core : Nat) (thread : Nat) : Statement (.xsetvl core thread) := by
  intro h n hn; simp [wellFormed, coreOk, threadOk] at h; simp [operands] at hn; omega
theorem xwait (core : Nat) (thread : Nat) : Statement (.xwait core thread) := by
  intro h n hn; simp [wellFormed, coreOk, threadOk] at h; simp [operands] at hn; omega
theorem xcnt (core : Nat) (thread : Nat) : Statement (.xcnt core thread) := by
  intro h n hn; simp [wellFormed, coreOk, threadOk] at h; simp [operands] at hn; omega
theorem xstart (core : Nat) (thread : Nat) : Statement (.xstart core thread) := by
  intro h n hn; simp [wellFormed, coreOk, threadOk] at h; simp [operands] at hn; omega
theorem xend (core : Nat) (thread : Nat) : Statement (.xend core thread) := by
  intro h n hn; simp [wellFormed, coreOk, threadOk] at h; simp [operands] at hn; omega
theorem xjoin (core : Nat) (thread : Nat) : Statement (.xjoin core thread) := by
  intro h n hn; simp [wellFormed, coreOk, threadOk] at h; simp [operands] at hn; omega
theorem xfence (core : Nat) (thread : Nat) : Statement (.xfence core thread) := by
  intro h n hn; simp [wellFormed, coreOk, threadOk] at h; simp [operands] at hn; omega
theorem xcset (core : Nat) (thread : Nat) : Statement (.xcset core thread) := by
  intro h n hn; simp [wellFormed, coreOk, threadOk] at h; simp [operands] at hn; omega
theorem threadWake (core : Nat) (thread : Nat) : Statement (.threadWake core thread) := by
  intro h n hn; simp [wellFormed, coreOk, threadOk] at h; simp [operands] at hn; omega
theorem xwaitLimit (core : Nat) (thread : Nat) : Statement (.xwaitLimit core thread) := by
  intro h n hn; simp [wellFormed, coreOk, threadOk] at h; simp [operands] at hn; omega
theorem mmaComputeStart (core : Nat) : Statement (.mmaComputeStart core) := by
  intro h n hn; simp [wellFormed, coreOk] at h; simp [operands] at hn; omega
theorem mmaDrainDone (core : Nat) : Statement (.mmaDrainDone core) := by
  intro h n hn; simp [wellFormed, coreOk] at h; simp [operands] at hn; omega
theorem tallyCompute (core : Nat) (slot : Nat) : Statement (.tallyCompute core slot) := by
  intro h n hn; simp [wellFormed, coreOk, tileSlotOk] at h; simp [operands] at hn; omega
theorem chainMerge (core : Nat) (chain : Nat) : Statement (.chainMerge core chain) := by
  intro h n hn; simp [wellFormed, chainOk, coreOk] at h; simp [operands] at hn; omega
theorem fetchPassComplete (port : Nat) (slot : Nat) : Statement (.fetchPassComplete port slot) := by
  intro h n hn; simp [wellFormed, fetchSlotOk, portOk] at h; simp [operands] at hn; omega
theorem fetchLineLand (port : Nat) (slot : Nat) : Statement (.fetchLineLand port slot) := by
  intro h n hn; simp [wellFormed, fetchSlotOk, portOk] at h; simp [operands] at hn; omega
theorem sprueLineAccept (core : Nat) : Statement (.sprueLineAccept core) := by
  intro h n hn; simp [wellFormed, coreOk] at h; simp [operands] at hn; omega
theorem gatherDrain (core : Nat) (line : Nat) : Statement (.gatherDrain core line) := by
  intro h n hn; simp [wellFormed, coreOk, lineOk] at h; simp [operands] at hn; omega
theorem remoteStoreArrival (core : Nat) : Statement (.remoteStoreArrival core) := by
  intro h n hn; simp [wellFormed, coreOk] at h; simp [operands] at hn; omega
theorem remoteStoreAck (core : Nat) : Statement (.remoteStoreAck core) := by
  intro h n hn; simp [wellFormed, coreOk] at h; simp [operands] at hn; omega
theorem meshFlitArrival (fromCore : Nat) (toCore : Nat) (ok : Bool) (replayOk : Bool) (kind : Nat) (src : Nat) (dst : Nat) : Statement (.meshFlitArrival fromCore toCore ok replayOk kind src dst) := by
  intro h n hn; simp [wellFormed, coreOk, flitKindOk] at h; simp [operands] at hn; omega
theorem caliperComparison (core : Nat) (isMatch : Bool) (confirmMatch : Bool) (maquette : Bool) : Statement (.caliperComparison core isMatch confirmMatch maquette) := by
  intro h n hn; simp [wellFormed, coreOk] at h; simp [operands] at hn; omega
theorem probeCountReached (core : Nat) : Statement (.probeCountReached core) := by
  intro h n hn; simp [wellFormed, coreOk] at h; simp [operands] at hn; omega
theorem trimProcedureDone (trims : List Nat) : Statement (.trimProcedureDone trims) := by
  intro _ n hn; simp [operands] at hn
theorem brateWindowEnd (counts : List Nat) : Statement (.brateWindowEnd counts) := by
  intro _ n hn; simp [operands] at hn
theorem timebaseUpdate (ns : Nat) (valid : Bool) : Statement (.timebaseUpdate ns valid) := by
  intro h n hn; simp [wellFormed, nsOk] at h; simp [operands] at hn; omega
theorem tbInvalid : Statement (.tbInvalid) := by
  intro _ n hn; simp [operands] at hn
theorem stall (unit : Nat) (core : Nat) (inst : Nat) : Statement (.stall unit core inst) := by
  intro h n hn; simp [wellFormed, coreOk, instOk, unitOk] at h; simp [operands] at hn; omega
theorem codewordInvalid (unit : Nat) (core : Nat) (inst : Nat) : Statement (.codewordInvalid unit core inst) := by
  intro h n hn; simp [wellFormed, coreOk, instOk, unitOk] at h; simp [operands] at hn; omega
theorem maquetteSchedule : Statement (.maquetteSchedule) := by
  intro _ n hn; simp [operands] at hn
theorem maquetteForce (core : Nat) : Statement (.maquetteForce core) := by
  intro h n hn; simp [wellFormed, coreOk] at h; simp [operands] at hn; omega
theorem maquetteDone (core : Nat) (ok : Bool) (unit : Nat) : Statement (.maquetteDone core ok unit) := by
  intro h n hn; simp [wellFormed, coreOk, unitOk] at h; simp [operands] at hn; omega
theorem safetyReactionStart : Statement (.safetyReactionStart) := by
  intro _ n hn; simp [operands] at hn
theorem retestDone (core : Nat) (ok : Bool) : Statement (.retestDone core ok) := by
  intro h n hn; simp [wellFormed, coreOk] at h; simp [operands] at hn; omega
theorem eccFinding (f : EccFinding) : Statement (.eccFinding f) := by
  intro _ n hn; simp [operands] at hn
theorem patrolScrub (f : Option EccFinding) : Statement (.patrolScrub f) := by
  intro _ n hn; simp [operands] at hn
theorem lockScrubDone (core : Nat) (failed : List (Nat × Nat)) : Statement (.lockScrubDone core failed) := by
  intro h n hn; simp [wellFormed, coreOk, lockedLineOk] at h; simp [operands] at hn; omega
theorem fatalError (code : Nat) : Statement (.fatalError code) := by
  intro h n hn; simp [wellFormed, codeOk] at h; simp [operands] at hn; omega
theorem castSectionWritten : Statement (.castSectionWritten) := by
  intro _ n hn; simp [operands] at hn
theorem castTimeout : Statement (.castTimeout) := by
  intro _ n hn; simp [operands] at hn
theorem sfAliveToggle (confirmed : Bool) : Statement (.sfAliveToggle confirmed) := by
  intro _ n hn; simp [operands] at hn
theorem sfSafeReq : Statement (.sfSafeReq) := by
  intro _ n hn; simp [operands] at hn
theorem helloTimer : Statement (.helloTimer) := by
  intro _ n hn; simp [operands] at hn
theorem hello (link : Nat) (frame : RxFrame) : Statement (.hello link frame) := by
  intro h n hn; simp [wellFormed, linkOk] at h; simp [operands] at hn; omega
theorem proof (link : Nat) (frame : RxFrame) : Statement (.proof link frame) := by
  intro h n hn; simp [wellFormed, linkOk] at h; simp [operands] at hn; omega
theorem heartbeatTimer : Statement (.heartbeatTimer) := by
  intro _ n hn; simp [operands] at hn
theorem heartbeat (link : Nat) (frame : RxFrame) : Statement (.heartbeat link frame) := by
  intro h n hn; simp [wellFormed, linkOk] at h; simp [operands] at hn; omega
theorem digestSendTimer : Statement (.digestSendTimer) := by
  intro _ n hn; simp [operands] at hn
theorem digest (link : Nat) (frame : RxFrame) : Statement (.digest link frame) := by
  intro h n hn; simp [wellFormed, linkOk] at h; simp [operands] at hn; omega
theorem digestWaitExpiry (stream : Nat) (gen : Nat) : Statement (.digestWaitExpiry stream gen) := by
  intro h n hn; simp [wellFormed, seqOk, streamOk] at h; simp [operands] at hn; omega
theorem linkSilence (link : Nat) (pos : Nat) : Statement (.linkSilence link pos) := by
  intro h n hn; simp [wellFormed, linkOk, posOk] at h; simp [operands] at hn; omega
theorem rejoinReq (link : Nat) (frame : RxFrame) : Statement (.rejoinReq link frame) := by
  intro h n hn; simp [wellFormed, linkOk] at h; simp [operands] at hn; omega
theorem rejoinPassStep : Statement (.rejoinPassStep) := by
  intro _ n hn; simp [operands] at hn
theorem stateFrame (link : Nat) (frame : RxFrame) : Statement (.stateFrame link frame) := by
  intro h n hn; simp [wellFormed, linkOk] at h; simp [operands] at hn; omega
theorem held (link : Nat) (frame : RxFrame) : Statement (.held link frame) := by
  intro h n hn; simp [wellFormed, linkOk] at h; simp [operands] at hn; omega
theorem fillReq (link : Nat) (frame : RxFrame) : Statement (.fillReq link frame) := by
  intro h n hn; simp [wellFormed, linkOk] at h; simp [operands] at hn; omega
theorem installAck (link : Nat) (frame : RxFrame) : Statement (.installAck link frame) := by
  intro h n hn; simp [wellFormed, linkOk] at h; simp [operands] at hn; omega
theorem spanData (link : Nat) (frame : RxFrame) : Statement (.spanData link frame) := by
  intro h n hn; simp [wellFormed, linkOk] at h; simp [operands] at hn; omega
theorem spanAck (link : Nat) (frame : RxFrame) : Statement (.spanAck link frame) := by
  intro h n hn; simp [wellFormed, linkOk] at h; simp [operands] at hn; omega
theorem spanAckTimeout (sid : Nat) (link : Nat) (dst : Nat) : Statement (.spanAckTimeout sid link dst) := by
  intro h n hn; simp [wellFormed, linkOk, posOk, seqOk] at h; simp [operands] at hn; omega
theorem spanHeldExpiry : Statement (.spanHeldExpiry) := by
  intro _ n hn; simp [operands] at hn
theorem frameDiscard (link : Nat) (frame : RxFrame) : Statement (.frameDiscard link frame) := by
  intro h n hn; simp [wellFormed, linkOk] at h; simp [operands] at hn; omega
theorem gclEntryChange : Statement (.gclEntryChange) := by
  intro _ n hn; simp [operands] at hn
theorem linkFaultReceived (link : Nat) (kind : Nat) : Statement (.linkFaultReceived link kind) := by
  intro h n hn; simp [wellFormed, faultKindOk, linkOk] at h; simp [operands] at hn; omega
theorem ethTxClockStop (link : Nat) : Statement (.ethTxClockStop link) := by
  intro h n hn; simp [wellFormed, linkOk] at h; simp [operands] at hn; omega
theorem authLockoutExpiry : Statement (.authLockoutExpiry) := by
  intro _ n hn; simp [operands] at hn
theorem proposalExpiry : Statement (.proposalExpiry) := by
  intro _ n hn; simp [operands] at hn
theorem quiesceComplete : Statement (.quiesceComplete) := by
  intro _ n hn; simp [operands] at hn
theorem rngFail : Statement (.rngFail) := by
  intro _ n hn; simp [operands] at hn
theorem telemetryWindow (power : Nat) : Statement (.telemetryWindow power) := by
  intro h n hn; simp [wellFormed, powerOk] at h; simp [operands] at hn; omega
theorem keyRecordReceived (record : List Byte) : Statement (.keyRecordReceived record) := by
  intro _ n hn; simp [operands] at hn
theorem keyRecordTimeout : Statement (.keyRecordTimeout) := by
  intro _ n hn; simp [operands] at hn
theorem selftestDone (badCores : List (Nat × Nat)) (sharedFault : Bool) : Statement (.selftestDone badCores sharedFault) := by
  intro _ n hn; simp [operands] at hn
theorem fwChecksDone (failedRetests : List Nat) : Statement (.fwChecksDone failedRetests) := by
  intro _ n hn; simp [operands] at hn
theorem bootCtrlGo (value : W32) : Statement (.bootCtrlGo value) := by
  intro _ n hn; simp [operands] at hn
theorem stCtrlRetrim (value : W32) : Statement (.stCtrlRetrim value) := by
  intro _ n hn; simp [operands] at hn
theorem stCtrlOpp (value : W32) : Statement (.stCtrlOpp value) := by
  intro _ n hn; simp [operands] at hn
theorem armtCtxSelWrite (value : W32) : Statement (.armtCtxSelWrite value) := by
  intro _ n hn; simp [operands] at hn
theorem numsigLoRead : Statement (.numsigLoRead) := by
  intro _ n hn; simp [operands] at hn
theorem ledgerSeqLoRead : Statement (.ledgerSeqLoRead) := by
  intro _ n hn; simp [operands] at hn
theorem sqEnable (ring : Nat) (value : W32) : Statement (.sqEnable ring value) := by
  intro h n hn; simp [wellFormed, ringOk] at h; simp [operands] at hn; omega
theorem sqDisable (ring : Nat) (value : W32) : Statement (.sqDisable ring value) := by
  intro h n hn; simp [wellFormed, ringOk] at h; simp [operands] at hn; omega
theorem cqEnable (ring : Nat) (value : W32) : Statement (.cqEnable ring value) := by
  intro h n hn; simp [wellFormed, ringOk] at h; simp [operands] at hn; omega
theorem cqDisable (ring : Nat) (value : W32) : Statement (.cqDisable ring value) := by
  intro h n hn; simp [wellFormed, ringOk] at h; simp [operands] at hn; omega
theorem irqPendClear (hi : Bool) (value : W32) : Statement (.irqPendClear hi value) := by
  intro _ n hn; simp [operands] at hn
theorem errqPendClear (value : W32) : Statement (.errqPendClear value) := by
  intro _ n hn; simp [operands] at hn
theorem safeStatusErrClear (value : W32) : Statement (.safeStatusErrClear value) := by
  intro _ n hn; simp [operands] at hn
theorem pop (value : W32) : Statement (.pop value) := by
  intro _ n hn; simp [operands] at hn
theorem safeInjectGo (value : W32) : Statement (.safeInjectGo value) := by
  intro _ n hn; simp [operands] at hn
theorem pair (value : W32) : Statement (.pair value) := by
  intro _ n hn; simp [operands] at hn
theorem rejoin (value : W32) : Statement (.rejoin value) := by
  intro _ n hn; simp [operands] at hn
theorem promote (value : W32) : Statement (.promote value) := by
  intro _ n hn; simp [operands] at hn
theorem demote (value : W32) : Statement (.demote value) := by
  intro _ n hn; simp [operands] at hn
theorem peerResyncGo (value : W32) : Statement (.peerResyncGo value) := by
  intro _ n hn; simp [operands] at hn
theorem configWrite (offset : Nat) (value : W32) : Statement (.configWrite offset value) := by
  intro h n hn; simp [wellFormed, offsetOk] at h; simp [operands] at hn; omega
theorem bypass (bit : Bool) : Statement (.bypass bit) := by
  intro _ n hn; simp [operands] at hn
theorem idcode : Statement (.idcode) := by
  intro _ n hn; simp [operands] at hn
theorem sqstat : Statement (.sqstat) := by
  intro _ n hn; simp [operands] at hn
theorem sqcfg (dr : BitVec 48) : Statement (.sqcfg dr) := by
  intro _ n hn; simp [operands] at hn
theorem sqmem (dr : BitVec 544) : Statement (.sqmem dr) := by
  intro _ n hn; simp [operands] at hn
theorem sqhalt (bit : Bool) : Statement (.sqhalt bit) := by
  intro _ n hn; simp [operands] at hn
theorem tapReset : Statement (.tapReset) := by
  intro _ n hn; simp [operands] at hn
theorem rstNFall : Statement (.rstNFall) := by
  intro _ n hn; simp [operands] at hn
theorem rstNRise : Statement (.rstNRise) := by
  intro _ n hn; simp [operands] at hn
theorem pwrOkFall : Statement (.pwrOkFall) := by
  intro _ n hn; simp [operands] at hn
theorem portRequestGrant (port : Nat) (id : Nat) (ready : Bool) : Statement (.portRequestGrant port id ready) := by
  intro h n hn; simp [wellFormed, idOk, portOk] at h; simp [operands] at hn; omega
theorem frameTransmitEnd (link : Nat) : Statement (.frameTransmitEnd link) := by
  intro h n hn; simp [wellFormed, linkOk] at h; simp [operands] at hn; omega

end Sys2Proof.Laws.WellFormed
end

