-- ==== Sys2Proof/Laws/Shipped.lean ====
section
/-! SUPPORT. The shipped table images meet what R241 and R243 ask of their records; what R240 asks of them, as a premise. -/

-- Declarations are elaborated one after another: side by side, each would hold a thread and its stack.
set_option Elab.async false

namespace Sys2Proof.Machine
-- The accuracy of the shipped tables -----------------------------------------------------------------------------------------

/-- A real value lies within `n` ulp of binary32 of `y`: a unit is 2^-23 of the greatest power of two that is not above |y|, and of
2^-126 at least (R237, R240). -/
def withinUlp (n y v : ℝ) : Prop :=
  ∃ k : ℤ, -126 ≤ k ∧ (k = -126 ∨ (2 : ℝ) ^ k ≤ |y|) ∧ |v - y| ≤ n * (2 : ℝ) ^ (k - 23)

/-- The true value of a built-in function at a real argument of its domain (R240, R243). -/
def builtinTrue (slot : Nat) (x y : ℝ) : Prop :=
  match slot with
  | 0 => y = Real.exp x
  | 1 => 0 < x ∧ y = Real.log x
  | 2 => x ≠ 0 ∧ y = x⁻¹
  | _ => 0 < x ∧ y = (Real.sqrt x)⁻¹

/-- What a shipped built-in delivers before and after its final rounding. -/
def shippedExact (slot : Nat) (x : W32) : FnVal := lookup slot (shippedImage slot) x
def shippedResult (slot : Nat) (x : W32) : W32 := (shippedExact slot x).round.1

/-- What R240 holds the shipped images to: 1.5 ulp before the final rounding, 2 ulp after it. The images are free values, of which
shippedImage keeps only R241 and R243; what needs this bound takes it as a premise (log entry 12). -/
def shippedAccurate : Prop :=
  ∀ (slot : Nat) (x : W32) (d : Dy) (z : Bool) (y : ℝ),
    slot < 4 → shippedExact slot x = .exact d z → builtinTrue slot ((dyOf x).n * (2 : ℝ) ^ (dyOf x).e) y → |y| < 2 ^ 128 →
    withinUlp 1.5 y (d.n * (2 : ℝ) ^ d.e) ∧
    ((f32v (shippedResult slot x)).isNan = false → shippedResult slot x &&& 0x7FFFFFFF ≠ posInf →
      withinUlp 2 y ((dyOf (shippedResult slot x)).n * (2 : ℝ) ^ (dyOf (shippedResult slot x)).e))

-- What their records show --------------------------------------------------------------------------------------------------

/-- From record `i` on, a list of equal records holds the rest of them. -/
theorem drop_records (r : List Byte) (n i : Nat) (h : i ≤ n) :
    (List.replicate n r).flatten.drop (r.length * i) = (List.replicate (n - i) r).flatten := by
  induction i generalizing n with
  | zero => simp
  | succ i ih =>
    match n, h with
    | n + 1, h =>
      rw [List.replicate_succ, List.flatten_cons, Nat.mul_succ, Nat.add_comm, ← List.drop_drop, List.drop_left,
        ih n (by omega), Nat.succ_sub_succ]

/-- Every record of the flat exp image is the same. -/
theorem flatExp_seg (i : Nat) (h : i < 128) :
    builtinSeg flatExp i = builtinSeg (List.replicate 64 0 ++ leBytes 16 0x3F800000) 0 := by
  have hd : ∀ k, k ≤ 12 →
      word32 flatExp (64 + 16 * i + k) = word32 (List.replicate 64 0 ++ leBytes 16 0x3F800000) (64 + 16 * 0 + k) := by
    intro k hk
    have h1 : flatExp.drop (64 + 16 * i + k) =
        (leBytes 16 0x3F800000 ++ (List.replicate (127 - i) (leBytes 16 0x3F800000)).flatten).drop k := by
      rw [← List.drop_drop, ← List.drop_drop, flatExp, List.drop_left' (by simp)]
      have := drop_records (leBytes 16 0x3F800000) 128 i (by omega)
      rw [show (leBytes 16 0x3F800000).length = 16 from by decide] at this
      rw [this, show 128 - i = (127 - i) + 1 by omega, List.replicate_succ, List.flatten_cons]
    have h2 : (List.replicate 64 (0 : Byte) ++ leBytes 16 0x3F800000).drop (64 + 16 * 0 + k) = (leBytes 16 0x3F800000).drop k := by
      rw [← List.drop_drop, ← List.drop_drop, List.drop_left' (by simp)]; rfl
    unfold word32 sliceAt
    rw [h1, h2, List.drop_append_of_le_length (by rw [show (leBytes 16 0x3F800000).length = 16 from by decide]; omega),
      List.take_append_of_le_length (by rw [List.length_drop, show (leBytes 16 0x3F800000).length = 16 from by decide]; omega)]
  have h0 := hd 0 (by omega)
  simp only [Nat.add_zero] at h0
  simp only [builtinSeg, h0, hd 4 (by omega), hd 8 (by omega), hd 12 (by omega)]

/-- Where the free value is no image the spec allows, the flat one is. -/
theorem flatExp_ok : shippedOk 0 flatExp = true := by
  have hs : builtinSegs 0 = 128 := rfl
  have seg := flatExp_seg
  have h01 : ((0 : Nat) = 1) = False := by decide
  simp only [shippedOk, builtinMonoOk, builtinSeams, hs, Bool.and_eq_true, List.all_eq_true, List.mem_range, halfPairs,
    Bool.or_eq_true, h01, if_false, decide_false, Bool.false_and]
  refine ⟨⟨fun i hi => ?_, fun s h => ?_⟩, .inr ?_⟩
  · rw [seg i hi]; decide +kernel
  · simp only [List.mem_append, List.mem_map, List.mem_range, List.mem_singleton] at h
    obtain ⟨x, ⟨i, hi, rfl⟩, rfl⟩ | rfl := h
    · rw [seg _ (by omega), seg _ (by omega)]; decide +kernel
    · rw [seg _ (by omega), seg _ (by omega)]; decide +kernel
  · rw [seg 0 (by omega)]; decide +kernel

/-- Every shipped image is one the spec allows, as far as its records show it. -/
theorem shippedImage_ok (slot : Nat) (h : slot < 4) : shippedOk slot (shippedImage slot) = true := by
  unfold shippedImage
  split
  · assumption
  · match slot, h with
    | 0, _ => exact flatExp_ok
    | 1, _ => decide +kernel
    | 2, _ => decide +kernel
    | 3, _ => decide +kernel

end Sys2Proof.Machine
end

