-- ==== Sys2Proof/Laws/State.lean ====
section
/-! SUPPORT. One lemma per update and what it leaves: the setters of a state and of a working copy, all true by unfolding. -/

-- Declarations are elaborated one after another: side by side, each would hold a thread and its stack.
set_option Elab.async false

namespace Sys2Proof.Machine

-- States -----------------------------------------------------------------------------------------------------------------------

@[simp] theorem State.withDev_pending (s : State) (d : Dev) : (s.withDev d).pending = s.pending := rfl
@[simp] theorem State.withDev_tb (s : State) (d : Dev) : (s.withDev d).tb = s.tb := rfl
@[simp] theorem State.withDev_ram (s : State) (d : Dev) : (s.withDev d).ram = s.ram := rfl
@[simp] theorem State.withDev_log (s : State) (d : Dev) : (s.withDev d).log = s.log := rfl
@[simp] theorem State.withDev_dev (s : State) (d : Dev) : (s.withDev d).dev = d := rfl

@[simp] theorem State.withRam_pending (s : State) (r : Ram) : (s.withRam r).pending = s.pending := rfl
@[simp] theorem State.withRam_tb (s : State) (r : Ram) : (s.withRam r).tb = s.tb := rfl
@[simp] theorem State.withRam_ram (s : State) (r : Ram) : (s.withRam r).ram = r := rfl
@[simp] theorem State.withRam_log (s : State) (r : Ram) : (s.withRam r).log = s.log := rfl
@[simp] theorem State.withRam_dev (s : State) (r : Ram) : (s.withRam r).dev = s.dev := rfl

@[simp] theorem State.withCore_pending (s : State) (p : Nat) (k : Core) : (s.withCore p k).pending = s.pending := rfl
@[simp] theorem State.withCore_tb (s : State) (p : Nat) (k : Core) : (s.withCore p k).tb = s.tb := rfl
@[simp] theorem State.withCore_ram (s : State) (p : Nat) (k : Core) : (s.withCore p k).ram = s.ram := rfl
@[simp] theorem State.withCore_log (s : State) (p : Nat) (k : Core) : (s.withCore p k).log = s.log := rfl
@[simp] theorem State.withCore_dev (s : State) (p : Nat) (k : Core) : (s.withCore p k).dev = { s.dev with cores := setNth s.dev.cores p k } := rfl

@[simp] theorem State.withPt_pending (s : State) (x : Pt) : (s.withPt x).pending = s.pending := rfl
@[simp] theorem State.withPt_tb (s : State) (x : Pt) : (s.withPt x).tb = s.tb := rfl
@[simp] theorem State.withPt_ram (s : State) (x : Pt) : (s.withPt x).ram = s.ram := rfl
@[simp] theorem State.withPt_log (s : State) (x : Pt) : (s.withPt x).log = s.log := rfl
@[simp] theorem State.withPt_dev (s : State) (x : Pt) : (s.withPt x).dev = { s.dev with pt := x } := rfl

@[simp] theorem State.withPeer_pending (s : State) (x : Peer) : (s.withPeer x).pending = s.pending := rfl
@[simp] theorem State.withPeer_tb (s : State) (x : Peer) : (s.withPeer x).tb = s.tb := rfl
@[simp] theorem State.withPeer_ram (s : State) (x : Peer) : (s.withPeer x).ram = s.ram := rfl
@[simp] theorem State.withPeer_log (s : State) (x : Peer) : (s.withPeer x).log = s.log := rfl
@[simp] theorem State.withPeer_dev (s : State) (x : Peer) : (s.withPeer x).dev = { s.dev with peer := x } := rfl

@[simp] theorem State.work_tb (s : State) : s.work.tb = s.tb := rfl
@[simp] theorem State.work_log (s : State) : s.work.log = s.log := rfl
@[simp] theorem State.work_ram (s : State) : s.work.ram = s.ram := rfl
@[simp] theorem State.work_d (s : State) : s.work.d = s.dev := rfl
@[simp] theorem State.work_wr (s : State) : s.work.wr = [] := rfl
@[simp] theorem State.work_ev (s : State) : s.work.ev = [] := rfl
@[simp] theorem State.workOn_tb (s : State) (d : Dev) : (s.workOn d).tb = s.tb := rfl
@[simp] theorem State.workOn_log (s : State) (d : Dev) : (s.workOn d).log = s.log := rfl
@[simp] theorem State.workOn_ram (s : State) (d : Dev) : (s.workOn d).ram = s.ram := rfl
@[simp] theorem State.workOn_d (s : State) (d : Dev) : (s.workOn d).d = d := rfl
@[simp] theorem State.workOn_wr (s : State) (d : Dev) : (s.workOn d).wr = [] := rfl
@[simp] theorem State.workOn_ev (s : State) (d : Dev) : (s.workOn d).ev = [] := rfl
@[simp] theorem State.withDev_self (s : State) : s.withDev s.dev = s := rfl
@[simp] theorem State.withDev_withDev (s : State) (d e : Dev) : (s.withDev d).withDev e = s.withDev e := rfl
@[simp] theorem State.workOn_dev (s : State) : s.workOn s.dev = s.work := rfl

-- Working copies ----------------------------------------------------------------------------------------------------------------

@[simp] theorem Work.mod_tb (w : Work) (f : Dev → Dev) : (w.mod f).tb = w.tb := rfl
@[simp] theorem Work.mod_log (w : Work) (f : Dev → Dev) : (w.mod f).log = w.log := rfl
@[simp] theorem Work.mod_ram (w : Work) (f : Dev → Dev) : (w.mod f).ram = w.ram := rfl
@[simp] theorem Work.mod_d (w : Work) (f : Dev → Dev) : (w.mod f).d = f w.d := rfl
@[simp] theorem Work.mod_wr (w : Work) (f : Dev → Dev) : (w.mod f).wr = w.wr := rfl
@[simp] theorem Work.mod_ev (w : Work) (f : Dev → Dev) : (w.mod f).ev = w.ev := rfl

@[simp] theorem Work.modArm_tb (w : Work) (f : Arm → Arm) : (w.modArm f).tb = w.tb := rfl
@[simp] theorem Work.modArm_log (w : Work) (f : Arm → Arm) : (w.modArm f).log = w.log := rfl
@[simp] theorem Work.modArm_ram (w : Work) (f : Arm → Arm) : (w.modArm f).ram = w.ram := rfl
@[simp] theorem Work.modArm_d (w : Work) (f : Arm → Arm) : (w.modArm f).d = { w.d with arm := f w.d.arm } := rfl
@[simp] theorem Work.modArm_wr (w : Work) (f : Arm → Arm) : (w.modArm f).wr = w.wr := rfl
@[simp] theorem Work.modArm_ev (w : Work) (f : Arm → Arm) : (w.modArm f).ev = w.ev := rfl

@[simp] theorem Work.modBoot_tb (w : Work) (f : Boot → Boot) : (w.modBoot f).tb = w.tb := rfl
@[simp] theorem Work.modBoot_log (w : Work) (f : Boot → Boot) : (w.modBoot f).log = w.log := rfl
@[simp] theorem Work.modBoot_ram (w : Work) (f : Boot → Boot) : (w.modBoot f).ram = w.ram := rfl
@[simp] theorem Work.modBoot_d (w : Work) (f : Boot → Boot) : (w.modBoot f).d = { w.d with boot := f w.d.boot } := rfl
@[simp] theorem Work.modBoot_wr (w : Work) (f : Boot → Boot) : (w.modBoot f).wr = w.wr := rfl
@[simp] theorem Work.modBoot_ev (w : Work) (f : Boot → Boot) : (w.modBoot f).ev = w.ev := rfl

@[simp] theorem Work.modLed_tb (w : Work) (f : Ledger → Ledger) : (w.modLed f).tb = w.tb := rfl
@[simp] theorem Work.modLed_log (w : Work) (f : Ledger → Ledger) : (w.modLed f).log = w.log := rfl
@[simp] theorem Work.modLed_ram (w : Work) (f : Ledger → Ledger) : (w.modLed f).ram = w.ram := rfl
@[simp] theorem Work.modLed_d (w : Work) (f : Ledger → Ledger) : (w.modLed f).d = { w.d with led := f w.d.led } := rfl
@[simp] theorem Work.modLed_wr (w : Work) (f : Ledger → Ledger) : (w.modLed f).wr = w.wr := rfl
@[simp] theorem Work.modLed_ev (w : Work) (f : Ledger → Ledger) : (w.modLed f).ev = w.ev := rfl

@[simp] theorem Work.modSec_tb (w : Work) (f : Sec → Sec) : (w.modSec f).tb = w.tb := rfl
@[simp] theorem Work.modSec_log (w : Work) (f : Sec → Sec) : (w.modSec f).log = w.log := rfl
@[simp] theorem Work.modSec_ram (w : Work) (f : Sec → Sec) : (w.modSec f).ram = w.ram := rfl
@[simp] theorem Work.modSec_d (w : Work) (f : Sec → Sec) : (w.modSec f).d = { w.d with sec := f w.d.sec } := rfl
@[simp] theorem Work.modSec_wr (w : Work) (f : Sec → Sec) : (w.modSec f).wr = w.wr := rfl
@[simp] theorem Work.modSec_ev (w : Work) (f : Sec → Sec) : (w.modSec f).ev = w.ev := rfl

@[simp] theorem Work.modPeer_tb (w : Work) (f : Peer → Peer) : (w.modPeer f).tb = w.tb := rfl
@[simp] theorem Work.modPeer_log (w : Work) (f : Peer → Peer) : (w.modPeer f).log = w.log := rfl
@[simp] theorem Work.modPeer_ram (w : Work) (f : Peer → Peer) : (w.modPeer f).ram = w.ram := rfl
@[simp] theorem Work.modPeer_d (w : Work) (f : Peer → Peer) : (w.modPeer f).d = { w.d with peer := f w.d.peer } := rfl
@[simp] theorem Work.modPeer_wr (w : Work) (f : Peer → Peer) : (w.modPeer f).wr = w.wr := rfl
@[simp] theorem Work.modPeer_ev (w : Work) (f : Peer → Peer) : (w.modPeer f).ev = w.ev := rfl

@[simp] theorem Work.modPorts_tb (w : Work) (f : Ports → Ports) : (w.modPorts f).tb = w.tb := rfl
@[simp] theorem Work.modPorts_log (w : Work) (f : Ports → Ports) : (w.modPorts f).log = w.log := rfl
@[simp] theorem Work.modPorts_ram (w : Work) (f : Ports → Ports) : (w.modPorts f).ram = w.ram := rfl
@[simp] theorem Work.modPorts_d (w : Work) (f : Ports → Ports) : (w.modPorts f).d = { w.d with ports := f w.d.ports } := rfl
@[simp] theorem Work.modPorts_wr (w : Work) (f : Ports → Ports) : (w.modPorts f).wr = w.wr := rfl
@[simp] theorem Work.modPorts_ev (w : Work) (f : Ports → Ports) : (w.modPorts f).ev = w.ev := rfl

@[simp] theorem Work.modRings_tb (w : Work) (f : Rings → Rings) : (w.modRings f).tb = w.tb := rfl
@[simp] theorem Work.modRings_log (w : Work) (f : Rings → Rings) : (w.modRings f).log = w.log := rfl
@[simp] theorem Work.modRings_ram (w : Work) (f : Rings → Rings) : (w.modRings f).ram = w.ram := rfl
@[simp] theorem Work.modRings_d (w : Work) (f : Rings → Rings) : (w.modRings f).d = { w.d with rings := f w.d.rings } := rfl
@[simp] theorem Work.modRings_wr (w : Work) (f : Rings → Rings) : (w.modRings f).wr = w.wr := rfl
@[simp] theorem Work.modRings_ev (w : Work) (f : Rings → Rings) : (w.modRings f).ev = w.ev := rfl

@[simp] theorem Work.modSaf_tb (w : Work) (f : Saf → Saf) : (w.modSaf f).tb = w.tb := rfl
@[simp] theorem Work.modSaf_log (w : Work) (f : Saf → Saf) : (w.modSaf f).log = w.log := rfl
@[simp] theorem Work.modSaf_ram (w : Work) (f : Saf → Saf) : (w.modSaf f).ram = w.ram := rfl
@[simp] theorem Work.modSaf_d (w : Work) (f : Saf → Saf) : (w.modSaf f).d = { w.d with saf := f w.d.saf } := rfl
@[simp] theorem Work.modSaf_wr (w : Work) (f : Saf → Saf) : (w.modSaf f).wr = w.wr := rfl
@[simp] theorem Work.modSaf_ev (w : Work) (f : Saf → Saf) : (w.modSaf f).ev = w.ev := rfl

@[simp] theorem Work.modTap_tb (w : Work) (f : Tap → Tap) : (w.modTap f).tb = w.tb := rfl
@[simp] theorem Work.modTap_log (w : Work) (f : Tap → Tap) : (w.modTap f).log = w.log := rfl
@[simp] theorem Work.modTap_ram (w : Work) (f : Tap → Tap) : (w.modTap f).ram = w.ram := rfl
@[simp] theorem Work.modTap_d (w : Work) (f : Tap → Tap) : (w.modTap f).d = { w.d with tap := f w.d.tap } := rfl
@[simp] theorem Work.modTap_wr (w : Work) (f : Tap → Tap) : (w.modTap f).wr = w.wr := rfl
@[simp] theorem Work.modTap_ev (w : Work) (f : Tap → Tap) : (w.modTap f).ev = w.ev := rfl

@[simp] theorem Work.modSq_tb (w : Work) (r : Nat) (f : SqRing → SqRing) : (w.modSq r f).tb = w.tb := rfl
@[simp] theorem Work.modSq_log (w : Work) (r : Nat) (f : SqRing → SqRing) : (w.modSq r f).log = w.log := rfl
@[simp] theorem Work.modSq_ram (w : Work) (r : Nat) (f : SqRing → SqRing) : (w.modSq r f).ram = w.ram := rfl
@[simp] theorem Work.modSq_d (w : Work) (r : Nat) (f : SqRing → SqRing) : (w.modSq r f).d = { w.d with rings := { w.d.rings with sq := tabMod SqRing.init w.d.rings.sq r f } } := rfl
@[simp] theorem Work.modSq_wr (w : Work) (r : Nat) (f : SqRing → SqRing) : (w.modSq r f).wr = w.wr := rfl
@[simp] theorem Work.modSq_ev (w : Work) (r : Nat) (f : SqRing → SqRing) : (w.modSq r f).ev = w.ev := rfl

@[simp] theorem Work.modCq_tb (w : Work) (r : Nat) (f : CqRing → CqRing) : (w.modCq r f).tb = w.tb := rfl
@[simp] theorem Work.modCq_log (w : Work) (r : Nat) (f : CqRing → CqRing) : (w.modCq r f).log = w.log := rfl
@[simp] theorem Work.modCq_ram (w : Work) (r : Nat) (f : CqRing → CqRing) : (w.modCq r f).ram = w.ram := rfl
@[simp] theorem Work.modCq_d (w : Work) (r : Nat) (f : CqRing → CqRing) : (w.modCq r f).d = { w.d with rings := { w.d.rings with cq := tabMod CqRing.init w.d.rings.cq r f } } := rfl
@[simp] theorem Work.modCq_wr (w : Work) (r : Nat) (f : CqRing → CqRing) : (w.modCq r f).wr = w.wr := rfl
@[simp] theorem Work.modCq_ev (w : Work) (r : Nat) (f : CqRing → CqRing) : (w.modCq r f).ev = w.ev := rfl

@[simp] theorem Work.modExec_tb (w : Work) (r k : Nat) (f : Exec → Exec) : (w.modExec r k f).tb = w.tb := rfl
@[simp] theorem Work.modExec_log (w : Work) (r k : Nat) (f : Exec → Exec) : (w.modExec r k f).log = w.log := rfl
@[simp] theorem Work.modExec_ram (w : Work) (r k : Nat) (f : Exec → Exec) : (w.modExec r k f).ram = w.ram := rfl
@[simp] theorem Work.modExec_d (w : Work) (r k : Nat) (f : Exec → Exec) : (w.modExec r k f).d = { w.d with rings := { w.d.rings with execs := modFirst (isExec r k) f w.d.rings.execs } } := rfl
@[simp] theorem Work.modExec_wr (w : Work) (r k : Nat) (f : Exec → Exec) : (w.modExec r k f).wr = w.wr := rfl
@[simp] theorem Work.modExec_ev (w : Work) (r k : Nat) (f : Exec → Exec) : (w.modExec r k f).ev = w.ev := rfl

@[simp] theorem Work.modCtx_tb (w : Work) (k : Nat) (f : CtxEntry → CtxEntry) : (w.modCtx k f).tb = w.tb := rfl
@[simp] theorem Work.modCtx_log (w : Work) (k : Nat) (f : CtxEntry → CtxEntry) : (w.modCtx k f).log = w.log := rfl
@[simp] theorem Work.modCtx_ram (w : Work) (k : Nat) (f : CtxEntry → CtxEntry) : (w.modCtx k f).ram = w.ram := rfl
@[simp] theorem Work.modCtx_d (w : Work) (k : Nat) (f : CtxEntry → CtxEntry) : (w.modCtx k f).d = { w.d with arm := { w.d.arm with ctx := tabMod CtxEntry.init w.d.arm.ctx k f } } := rfl
@[simp] theorem Work.modCtx_wr (w : Work) (k : Nat) (f : CtxEntry → CtxEntry) : (w.modCtx k f).wr = w.wr := rfl
@[simp] theorem Work.modCtx_ev (w : Work) (k : Nat) (f : CtxEntry → CtxEntry) : (w.modCtx k f).ev = w.ev := rfl

@[simp] theorem Work.modPos_tb (w : Work) (b : Nat) (f : PeerPos → PeerPos) : (w.modPos b f).tb = w.tb := rfl
@[simp] theorem Work.modPos_log (w : Work) (b : Nat) (f : PeerPos → PeerPos) : (w.modPos b f).log = w.log := rfl
@[simp] theorem Work.modPos_ram (w : Work) (b : Nat) (f : PeerPos → PeerPos) : (w.modPos b f).ram = w.ram := rfl
@[simp] theorem Work.modPos_d (w : Work) (b : Nat) (f : PeerPos → PeerPos) : (w.modPos b f).d = { w.d with peer := { w.d.peer with pos := tabMod PeerPos.init w.d.peer.pos b f } } := rfl
@[simp] theorem Work.modPos_wr (w : Work) (b : Nat) (f : PeerPos → PeerPos) : (w.modPos b f).wr = w.wr := rfl
@[simp] theorem Work.modPos_ev (w : Work) (b : Nat) (f : PeerPos → PeerPos) : (w.modPos b f).ev = w.ev := rfl

@[simp] theorem Work.raise_tb (w : Work) (codes : List (W16 × W32)) (who : Option (Nat × Nat × W16)) :
    (w.raise codes who).tb = w.tb := rfl
@[simp] theorem Work.raise_log (w : Work) (codes : List (W16 × W32)) (who : Option (Nat × Nat × W16)) :
    (w.raise codes who).log = w.log := rfl
@[simp] theorem Work.raise_ram (w : Work) (codes : List (W16 × W32)) (who : Option (Nat × Nat × W16)) :
    (w.raise codes who).ram = w.ram := rfl
@[simp] theorem Work.raise_d (w : Work) (codes : List (W16 × W32)) (who : Option (Nat × Nat × W16)) :
    (w.raise codes who).d = w.d := rfl
@[simp] theorem Work.raise_wr (w : Work) (codes : List (W16 × W32)) (who : Option (Nat × Nat × W16)) :
    (w.raise codes who).wr = w.wr := rfl
@[simp] theorem Work.raise_ev (w : Work) (codes : List (W16 × W32)) (who : Option (Nat × Nat × W16)) :
    (w.raise codes who).ev = .chain codes who false [] :: w.ev := rfl

-- Gates ----------------------------------------------------------------------------------------------------------------------------

/-- While a fatal error is handled a meaning of the running block does nothing (R608). -/
theorem live_fatal (f : Work → Work) (w : Work) (h : w.log.fatal = true) : live f w = w := by simp [live, h]
theorem live_dark (f : Work → Work) (w : Work) (h : w.d.boot.powered = false) : live f w = w := by simp [live, h]
theorem live_acts (f : Work → Work) (s : State) (h : s.acts = true) : live f s.work = f s.work := by
  simp only [State.acts, Bool.and_eq_true, Bool.not_eq_true'] at h
  simp [live, h.1.1, h.1.2]
/-- A detector of errors only logs then (R611). -/
theorem watch_fatal (f : Work → Work) (w : Work) (h : w.log.fatal = true) : (watch f w).d = w.d ∧ (watch f w).wr = w.wr := by
  unfold watch
  split
  · exact ⟨rfl, rfl⟩
  · simp
theorem acts_linesOk (s : State) (h : s.acts = true) : s.linesOk = true := by
  simp only [State.acts, Bool.and_eq_true] at h
  exact h.2

/-- No consequence of an error touches a core, a context entry or a model. -/
@[simp] theorem commitWork_cores (s : State) (w : Work) : (commitWork s w).dev.cores = w.d.cores := by
  unfold commitWork irqUpdate errqPendUpdate enterSafe fatalStop
  dsimp only
  repeat' split
  all_goals rfl
@[simp] theorem commitWork_arm (s : State) (w : Work) : (commitWork s w).dev.arm = w.d.arm := by
  unfold commitWork irqUpdate errqPendUpdate enterSafe fatalStop
  dsimp only
  repeat' split
  all_goals rfl
@[simp] theorem commitWork_models (s : State) (w : Work) : (commitWork s w).dev.models = w.d.models := by
  unfold commitWork irqUpdate errqPendUpdate enterSafe fatalStop
  dsimp only
  repeat' split
  all_goals rfl
@[simp] theorem commitWork_rings (s : State) (w : Work) : (commitWork s w).dev.rings = w.d.rings := by
  unfold commitWork irqUpdate errqPendUpdate enterSafe fatalStop
  dsimp only
  repeat' split
  all_goals rfl
@[simp] theorem commitWork_cfg (s : State) (w : Work) : (commitWork s w).dev.cfg = w.d.cfg := by
  unfold commitWork irqUpdate errqPendUpdate enterSafe fatalStop
  dsimp only
  repeat' split
  all_goals rfl
@[simp] theorem commitWork_boot (s : State) (w : Work) : (commitWork s w).dev.boot = w.d.boot := by
  unfold commitWork irqUpdate errqPendUpdate enterSafe fatalStop
  dsimp only
  repeat' split
  all_goals rfl
@[simp] theorem commitWork_pt (s : State) (w : Work) : (commitWork s w).dev.pt = w.d.pt := by
  unfold commitWork irqUpdate errqPendUpdate enterSafe fatalStop
  dsimp only
  repeat' split
  all_goals rfl
@[simp] theorem commitWork_mesh (s : State) (w : Work) : (commitWork s w).dev.mesh = w.d.mesh := by
  unfold commitWork irqUpdate errqPendUpdate enterSafe fatalStop
  dsimp only
  repeat' split
  all_goals rfl
@[simp] theorem commitWork_led (s : State) (w : Work) : (commitWork s w).dev.led = w.d.led := by
  unfold commitWork irqUpdate errqPendUpdate enterSafe fatalStop
  dsimp only
  repeat' split
  all_goals rfl
@[simp] theorem commitWork_cal (s : State) (w : Work) : (commitWork s w).dev.cal = w.d.cal := by
  unfold commitWork irqUpdate errqPendUpdate enterSafe fatalStop
  dsimp only
  repeat' split
  all_goals rfl

end Sys2Proof.Machine
end

