-- ==== Sys2Proof/Tests/Scenes.lean ====
section
/-! SUPPORT. Small concrete states for the tests and for the witnesses of the statements: a block in READY, a step that runs on
four cores, and what the single families of commands need. -/

-- Declarations are elaborated one after another: side by side, each would hold a thread and its stack.
set_option Elab.async false

namespace Sys2Proof.Tests

open Sys2Proof Sys2Proof.Machine

-- The block -----------------------------------------------------------------------------------------------------------

/-- A block in READY at 10 s of a valid timebase, its map of four cores, its random source good. -/
def ready : State :=
  { State.reset with
    tb := { Timebase.reset with now := 10000000000, valid := true }
    dev := { Dev.reset with
      boot := { Boot.reset with state := 6, coreMap := [0, 1, 2, 3] }
      sec := { Sec.reset with rngOk := true } } }

/-- A state with its units changed, and with core `p` changed. -/
def dev (f : Dev → Dev) (s : State) : State := { s with dev := f s.dev }
def core (p : Nat) (f : Core → Core) (s : State) : State := s.withCore p (f (s.core p))

/-- A register's word set; the second drops words the reset value already gives. -/
def reg (off v : Nat) (s : State) : State := dev (fun d => d.setCfgW off (w32 v)) s

-- A running step --------------------------------------------------------------------------------------------------------

/-- A descriptor's 64 bytes from (offset, bytes) pieces. -/
def bytesAt (n : Nat) (ps : List (Nat × List Byte)) : List Byte :=
  ps.foldl (fun b p => patchBytes b p.1 p.2) (List.replicate n 0)

/-- A descriptor of opcode `o`, job `j`, word 1, deadline, further pieces, its checksum in place. -/
def desc (o j w1 dl : Nat) (ps : List (Nat × List Byte)) : List Byte :=
  let b := bytesAt 64 ([(0, leBytes 4 (o * 2 ^ 24 + j)), (4, leBytes 4 w1), (8, leBytes 8 dl)] ++ ps)
  patchBytes b 60 (leBytes 4 (crc32 (b.take 60)))

/-- No deadline. -/
def noDl : Nat := 2 ^ 64 - 1

/-- The layer record, regions, windows and slots of a model of two slots whose program is `prog`. -/
def layer : Layer := ⟨1, false, 0, 0, 2, 0, 0, 64⟩
def region0 : Region := ⟨0, true, 3, 1024, 16⟩
def window0 : Window := ⟨0, true, true, true, 5, 2048, 64⟩
def window1 : Window := ⟨2, true, true, false, 6, 0, 64⟩
def slotImg (prog : List Byte) : SlotImg :=
  { prog := prog, entry := 0, consts := leBytes 4 0x80, scratch := 128, wbase := 0, wlines := 64, asBase := 0, asLen := 4096,
    cacheOk := false, kbase := 0, klen := 0, regions := [region0, { region0 with mem := 1, base := 128 }],
    windows := [window0, window1] }
def model (prog : List Byte) : Model :=
  { handle := 5, job := 9, seed := 7, layers := [layer], slots := [slotImg prog, slotImg prog], digest := [], dead := false }

/-- A lane of stream `k` as phase 3 left it. -/
def busyLane (k : Nat) : Lane := ⟨k, false, 0, .busy, 0, false, false, false, 4, 2⟩
def absentLane (k : Nat) : Lane := { busyLane k with ph := .absent, code := 0x2102 }

/-- The STEP of ring 2, number 3, of two lanes on model 5, running on cores 0 and 1. -/
def stepDesc : List Byte := desc 1 9 (5 * 2 ^ 24 + 2) noDl
  [(0x18, leBytes 8 (0x1000 * 2 ^ 22 + 64)), (0x30, leBytes 8 0x10000)]
def stepExec : Exec :=
  { Exec.fresh 2 3 stepDesc 0 0 3 with ph := .run, lanes := [busyLane 40, absentLane 41], cores := [0, 1], stage := 1 }

/-- Core 0 and 1 run it, thread 1 of core 0 stands at pc 0 with the registers `x`; the other threads have ended. -/
def running (prog : List Nat) (x : List (Nat × Nat)) : State :=
  let m := model (prog.flatMap (leBytes 4))
  let cur := fun i => some (⟨2, 3, i, false, false, true⟩ : Cur)
  let th : Thread := { Thread.init with st := .running, vl := 4, x := x.map fun p => (p.1, w32 p.2) }
  { ready with
    dev := { ready.dev with
      models := [m]
      rings := { Rings.reset with execs := [stepExec], nextOrder := 1 }
      cores := setNth (setNth ready.dev.cores 0 { Core.init with cur := cur 0, threads := setNth Core.init.threads 1 th })
        1 { Core.init with cur := cur 1 }
      arm := { Arm.reset with
        ctx := [(40, { CtxEntry.init with model := 5, st := .busy, gen := 2, sidx := 4, sslot := 1 })]
        slots := [(1, ⟨[10], [11], []⟩)] } } }

-- Words of the step program ----------------------------------------------------------------------------------------------

/-- VOP (R186): FUNCT, MZ, ME, MSK, VS2, VS1, VD. -/
def vop (f mz me msk vs2 vs1 vd : Nat) : Nat :=
  f * 2 ^ 27 + mz * 2 ^ 26 + me * 2 ^ 25 + msk * 2 ^ 22 + vs2 * 2 ^ 17 + vs1 * 2 ^ 12 + vd * 2 ^ 7 + 0x0B
/-- VMEM (R195): FUNCT, SITE, FMT, MZ, ME, MSK, RS1, VD. -/
def vmem (f site fmt mz me msk rs1 vd : Nat) : Nat :=
  f * 2 ^ 29 + site * 2 ^ 25 + fmt * 2 ^ 22 + mz * 2 ^ 21 + me * 2 ^ 20 + msk * 2 ^ 17 + rs1 * 2 ^ 12 + vd * 2 ^ 7 + 0x2B
/-- XCMD and XSYS (R210, R213): FUNCT3, RS2, RS1, RD. -/
def xcmd (f rs2 rs1 rd : Nat) : Nat := rs2 * 2 ^ 20 + rs1 * 2 ^ 15 + f * 2 ^ 12 + rd * 2 ^ 7 + 0x5B
def xsys (f rs2 rs1 rd : Nat) : Nat := rs2 * 2 ^ 20 + rs1 * 2 ^ 15 + f * 2 ^ 12 + rd * 2 ^ 7 + 0x7B

/-- The vector registers and masks with which thread 1 of core 0 works: lanes 0 to 3 of v1 hold 1.0, 2.0, -3.0 and a NaN, those of
v2 2.0, 0.5, 4.0, 1.0, lane 1 of v2 is poisoned, mask 1 is 0101b. -/
def vec0 : VecState :=
  ⟨[(64, 0x3F800000), (65, 0x40000000), (66, 0xC0400000), (67, 0x7FC00000), (128, 0x40000000), (129, 0x3F000000), (130, 0x40800000),
    (131, 0x3F800000), (192, 0x11111111), (193, 0x22222222), (194, 0x33333333), (195, 0x44444444), (196, 0x55555555)],
   [(129, true)], [(1, 5)]⟩
def withVec (s : State) : State := core 0 (fun k => { k with vec := vec0 }) s
def vopState (w : Nat) : State := withVec (running [w] [(4, 0x12345678)])

-- Memory accesses --------------------------------------------------------------------------------------------------------

/-- An even table image of four segments, 1 + t / 2 each. -/
def tableImage : List Byte :=
  bytesAt 96 ([(0, leBytes 4 (2 * 2 ^ 20)), (4, leBytes 4 (2 * 2 ^ 8)), (8, leBytes 4 0x7F800000)] ++
    (List.range 4).map fun i => (64 + 8 * i, leBytes 8 (0x3F800000 + 0x3F000 * 2 ^ 32)))
def withTable (s : State) : State :=
  core 0 (fun k => { k with tables := { k.tables with bank0 := k.tables.bank0.set 5 (.image tableImage) } }) s

/-- The word at pc 0 with the address in x5; some bytes stand in the memories of cores 0 and 1, slot 1 of both plinths is DONE. -/
def memState (w a : Nat) : State :=
  let done : TileSlot := { TileSlot.init with st := .done, kind := .fp, poison := 2 }
  let s := withVec (running [w] [(5, a)])
  let put := fun (t : Tab Byte) (a : Nat) (b : List Byte) => tabSetRun 0 t a b
  let s := (core 0 (fun k => { k with plinth := { k.plinth with slots := [(1, done)] } }) s).withRam
    { s.ram with
      ws := put [] 0x100 [1, 2, 3, 4, 5, 6, 7, 8]
      asm := put (put (put [] 0x8000 [0, 0, 0x80, 0x3F, 0, 0, 0, 0x40]) (2048 * 64 + 0x40) [9, 8, 7, 6]) 0x7FFF0 [1]
      pl := put (put [] (16384 + 256) [0, 0, 0x80, 0x3F]) (262144 + 0x100) [7, 0, 0, 0]
      st := put [] (10 * 2048) [0x80, 0x3F, 0, 0x40]
      asP := [(0x8000 / 16, true)] }
  { s with dev := { s.dev with models := s.dev.models.map fun m => { m with slots := m.slots.map fun i => { i with asLen := 8192 } } } }

/-- Core 0 runs the checker copy. -/
def asChecker (s : State) : State := core 0 (fun k => { k with cur := some ⟨2, 3, 0, true, false, true⟩ }) s

-- Array and statistic unit ---------------------------------------------------------------------------------------------

/-- An MMA command of one slot: binary32 kind or the int8 pair by `w0`, two rows and three products. -/
def mmaBytes : List Byte :=
  leBytes 4 (2 ^ 28 + 5 * 2 ^ 23 + 2 ^ 20 + 2 ^ 19 + 3 * 2 ^ 12 + 1 * 2 ^ 6) ++ leBytes 4 3 ++ leBytes 4 8 ++ leBytes 4 4
def mma : Mma := ⟨1, false, false, 5, 0, true, true, false, 3, 2, 3, 8, 4, []⟩

def rows64 (a b : Nat) : List StatRow := (List.range 64).map fun i => ⟨(a : Int), w32 (0x3F800000 + i), w32 b, i == 5⟩

/-- The word at pc 0 with registers; an MMA command in the data memory, slot 2 DONE with a record, chain 1 open, counter 3 at 4. -/
def xState (w : Nat) (x : List (Nat × Nat)) : State :=
  let s := running [w] x
  let s := core 0 (fun k => { k with
    land := { k.land with ctrs := [(3, 4)] }
    plinth := { k.plinth with
      slots := [(2, { TileSlot.init with st := .done, record := rows64 3 0x40000000 })]
      chains := [(1, ⟨4, 1, true, [0], [], rows64 2 0x3F000000, []⟩)] }
    gather := [⟨40, false, [], 0, 0⟩] }) s
  { s with dev := { s.dev with models := s.dev.models.map fun m => { m with slots := m.slots.map fun i => { i with consts := mmaBytes } } } }

/-- Four commands wait behind one that computes. -/
def queueFull (s : State) : State := core 0 (fun k => { k with queue := List.replicate 4 mma, mmas := [mma] }) s

/-- An int8 command at the head of the queue, its slot FREE, some operand bytes in place. -/
def computing : State :=
  let s := running [0x13] []
  (core 0 (fun k => { k with queue := [mma] }) s).withRam
    { s.ram with asm := tabSetRun 0 [] 512 [1, 2, 0xFF], ws := tabSetRun 0 [] 256 [3, 4, 5] }

/-- The command drains, its slot accumulates. -/
def draining (final : Bool) : State :=
  core 0 (fun k => { k with
    mmas := [{ mma with isFinal := final }]
    plinth := { k.plinth with slots := [(3, { TileSlot.init with st := .accum, kind := .int, len := 3 })] } }) (running [0x13] [])

/-- XTALLY of slot 2, ordinal 3 of chain 1, two columns, with HOLD; the slot's state is `st`. -/
def tallyWord : Nat := 2 ^ 24 + 1 * 2 ^ 16 + 3 * 2 ^ 8 + 1 * 2 ^ 4 + 2
def tallyState (st : TileSt) : State :=
  let s := xState (xcmd 3 0 5 0) [(5, tallyWord)]
  (core 0 (fun k => { k with
    mmas := [mma]
    plinth := { k.plinth with slots := [(2, { TileSlot.init with st := st, poison := 1 })] } }) s).withRam
    { s.ram with pl := tabSetRun 0 [] 32768 [0, 0, 0x80, 0x3F, 0, 0, 0, 0x40] }
def asleep (why : Sleep) (s : State) : State :=
  core 0 (fun k => k.withThread 1 { k.thread 1 with st := .sleeping why }) s
def tallyWaits : State := asleep (.tally 2) (tallyState .done)

/-- Chain 1 holds a record whose turn it is, the first (0) or the last of two (1). -/
def mergeState (n : Nat) : State :=
  core 0 (fun k => { k with plinth := { k.plinth with
    slots := [(2, { TileSlot.init with st := .held })]
    chains := [(1, ⟨n + 1, n, true, [0, 1], [⟨n, rows64 3 0x40000000⟩], rows64 2 0x3F000000, [2]⟩)] } }) (running [0x13] [])
def closedChain : State :=
  core 0 (fun k => { k with plinth := { k.plinth with chains := [(1, ⟨2, 2, false, [0, 1], [], rows64 2 0x3F000000, []⟩)] } })
    (running [xcmd 6 0 5 6] [(5, 1)])

/-- The same step runs beside the units of another state. -/
def withStep (s : State) : State :=
  let r := (running [0x13] []).dev
  dev (fun d => { d with models := r.models, rings := r.rings, cores := r.cores, arm := r.arm }) s

-- Threads -------------------------------------------------------------------------------------------------------------------

/-- Thread 0 runs too. -/
def twoThreads (s : State) : State := core 0 (fun k => k.withThread 0 { k.thread 0 with st := .running }) s

/-- A stream of thread 1 of core 0: a linear FETCH of two records of one line into region 0. -/
def ptCmd : PtCmd :=
  { isStore := false, isrc := 0, lay := false, cmp := 0, cache := false, ew := 0, reg := 0, dest := 0, ibuf := 0, dbuf := 1,
    nrec := 2, ioff := 0, doff := 0, stride := 64, clen := 0, rlen := 64, cbeats := 0, tsz := 4, sline := 0 }
def stream : PtStream :=
  { port := 1, slot := 0, epoch := 0, order := 0, core := 0, thread := 1, ring := 2, seq := 3, lslot := 0, checker := false,
    cmd := ptCmd, idxs := [], idxReq := 0, fed := 2, lineQ := [], got := [], landed := 0, passes := 0, bad := [], dec := none,
    paid := false, src := [], carry := [] }
def withStream (s : State) : State := s.withPt { s.dev.pt with streams := [stream], order := 1 }

/-- The fields of an RV32 word: opcode, rd, FUNCT3, rs1, rs2, FUNCT7. -/
def rv (op rd f3 rs1 rs2 f7 : Nat) : Nat :=
  f7 * 2 ^ 25 + rs2 * 2 ^ 20 + rs1 * 2 ^ 15 + f3 * 2 ^ 12 + rd * 2 ^ 7 + op

-- Pointing engines and mesh ----------------------------------------------------------------------------------------------

def words (ws : List Nat) : List Byte := ws.flatMap (leBytes 4)
/-- Engine 1, index from the lanes, buffer 1, region 0; two records of 64 bytes. -/
def fetchCmd : List Byte := words [2 * 2 ^ 28 + 2 ^ 25 + 2 * 2 ^ 23 + 2 ^ 6, 2, 0, 0, 64, 64, 4, 0]
def storeCmd : List Byte := words [3 * 2 ^ 28 + 2 ^ 25 + 2 * 2 ^ 23 + 2 ^ 6, 2, 0, 0, 64, 64, 64, 0]
def stageCmd : List Byte := words [4 * 2 ^ 28, 512, 600, 2, 0, 0, 0, 0]
def rfreeCmd : List Byte := words [6 * 2 ^ 28, 3, 0, 0, 0, 0, 0, 0]
def windowCmd (op : Nat) : List Byte := words [op * 2 ^ 28 + 1, 0, 0, 0, 0, 0, 0, 0]

/-- An XPT at pc 0, its command in the scratch region. -/
def xptState (cmd : List Byte) : State :=
  let s := running [xcmd 7 0 5 0] [(5, 32)]
  let s := core 0 (fun k => { k with
    scratch := tabSetRun 0 [] 28 cmd
    land := { k.land with heads := [(0, 5)], tails := [(0, 2)] } }) s
  s.withRam { s.ram with asm := tabSetRun 0 [] 32768 [1, 2, 3, 4], asP := [(2048, true)] }
/-- No slot of engine 1 is free. -/
def engineFull (s : State) : State :=
  s.withPt { s.dev.pt with streams := (List.range 256).map fun i => { stream with slot := i }, order := 256 }

def lineAt (r : Nat) (poison : Bool) : Nat × List Byte × Bool := (gotKey r (0x1000 + r), (List.range 64).map w8, poison)
/-- The stream's two lines are there; `n` have landed. -/
def landing (f : PtStream → PtStream) : State :=
  let s := running [0x13] []
  let x := { stream with got := [lineAt 0 false, lineAt 1 true], cmd := { ptCmd with isrc := 3, dbuf := 1 } }
  (core 0 (fun k => { k with land := { k.land with heads := [(0, 20)], tails := [(0, 8)] } }) s).withPt
    { s.dev.pt with streams := [f x], order := 1 }
def landState (n : Nat) : State := landing fun x => { x with landed := n }
def layState : State := landing fun x => { x with cmd := { x.cmd with lay := true } }
def layLanding : State := landing fun x => { x with cmd := { x.cmd with lay := true }, passes := 1, bad := [(1, 0)] }
def castLanding : State := landing fun x => { x with cmd := { x.cmd with dest := 1 } }
/-- A chain stream, and a command on core 0 that waits for its weight lines. -/
def sprueState : State :=
  core 0 (fun k => { k with mmas := [{ mma with wsr := true, wsrc := true }] }) (landing fun x => { x with cmd := { x.cmd with dest := 2 } })

/-- A store of core 0 on its way to window 0 of core 1, which is open there; `b` is its first byte. -/
def rstore (b : Byte) : RStore :=
  { fromCore := 0, toCore := 1, thread := 1, ring := 2, seq := 3, checker := false, slot := 1, win := 0, off := 60,
    bytes := (60, b) :: runFrom 61 [2, 3, 4, 5], poison := [61], hi := 65, lines := [0, 1], target := some window0, queued := 0 }
/-- Core 1 has the step, which has not begun there. -/
def notBegun (s : State) : State := core 1 (fun k => { k with cur := k.cur.map fun c => { c with begun := false } }) s
def meshState (x : RStore) : State :=
  let s := core 1 (fun k => { k with land := { k.land with opens := [(0, true)] } }) (running [0x13] [])
  dev (fun d => { d with mesh := { d.mesh with stores := [x] } }) s
def remoteState (b : Byte) : State := meshState (rstore b)
def lateState : State := core 1 (fun k => { k with land := { k.land with opens := [] } }) (remoteState 7)
def nowhereState : State := meshState { rstore 7 with target := none }
def ackState (code : W16) : State :=
  dev (fun d => { d with mesh := { d.mesh with acks := [⟨1, 0, 1, 2, 3, code, 0⟩] } }) (running [0x13] [])
/-- The link of cores 2 and 3 had an error half a second ago. -/
def flitBefore : State := dev (fun d => { d with mesh := { d.mesh with flitErrs := [(2, 3, 9500000000)] } }) ready

-- Calipers, timebase, watchdogs ------------------------------------------------------------------------------------------

def cal2 (f : CoreCal → CoreCal) (s : State) : State := core 2 (fun k => { k with cal := f k.cal }) (core 0 (fun k => { k with cal := f k.cal }) s)
def comparing (n : Nat) (pend : Option Nat) (trim : Nat) : State :=
  cal2 (fun c => { c with compares := n, pend := pend, trim := trim, probes := 9 }) ready
/-- Core 0 has a step. -/
def onStep (s : State) : State := core 0 (fun k => { k with cur := some ⟨2, 3, 0, false, false, true⟩ }) s
/-- Core 2's array computes a group for a maquette run, core 0's one for a step. -/
def maquetteOn (s : State) : State := core 2 (fun k => { k with mq := { k.mq with running := true } }) s
def stepComputes (f : CoreCal → CoreCal) : State := core 0 (fun k => { k with mmas := [mma], cal := f k.cal }) (running [0x13] [])
def probed : State := cal2 (fun c => { c with trim := 3, probes := 4096 }) ready
def trimming : State := dev (fun d => { d with boot := { d.boot with state := 5 }, cal := { d.cal with busy := true } }) ready
/-- The rate window of the ending millisecond is no longer tainted. -/
def fair (s : State) : State := dev (fun d => { d with cal := { d.cal with taint := false } }) s
def rateFloor : State := reg 0x20C 1500 (fair ready)
def tainted : State := dev (fun d => { d with cal := { d.cal with taint := true } }) ready
def held : State := { ready with tb := { ready.tb with held := true } }
/-- tb_valid is low while a submission ring is enabled. -/
def noTime : State := { reg 0x1008 0x80000004 ready with tb := { ready.tb with valid := false } }
def maquette (forced : Bool) : State := core 2 (fun k => { k with mq := ⟨true, forced, none, none⟩ }) ready
def retesting (inj : Bool) : State := core 2 (fun k => { k with mq := ⟨false, false, some (3, inj), none⟩ }) ready
def reacts (code : W16) (detail : W32) (cores : List Nat) : State :=
  { ready with log := { ready.log with err := true, react := [⟨code, detail, cores, false⟩, ⟨0x8101, 0, [], false⟩] } }
def passedAgo (n : Nat) (s : State) : State := core 2 (fun k => { k with mq := { k.mq with passed := some (10000000000 - n) } }) s

-- Memory errors, fatal errors, the cast dump -------------------------------------------------------------------------------

/-- Lines 8 and 9 of core 0's activation store and line 3 of its weight store are locked; bytes stand in and beside them. -/
def lockedState : State :=
  let s := core 0 (fun k => { k with locks := ⟨[(8, 2)], true, [(3, 1)]⟩ }) ready
  s.withRam ⟨[(192, 5), (256, 6)], [(511, 1), (512, 2), (639, 3), (640, 4)], [(0, 7), (262144, 8)], [], [], [],
    [(31, true), (32, true), (40, true)]⟩
def fatal : State := { ready with log := { ready.log with fatal := true, err := true, fcode := 0xF102 } }
/-- A cast region of 64 KiB and more stands ready. -/
def dumpable : State := reg 0x128 64 (reg 0x120 0x4000000 ready)
def dumping (sect : Nat) (started bad : Bool) : State :=
  let s := fatal
  let c : Cast := ⟨s.tb, s.log, [], s.dev.irq, s.dev.cp, 0, 0, sect, started, 0, [], bad, false⟩
  reg 0x128 64 (reg 0x120 0x4000000 (dev (fun d => { d with saf := { d.saf with cast := some c } }) s))

-- Peer ports ----------------------------------------------------------------------------------------------------------------

def linkKey : List Byte := List.replicate 32 9
def keyRec : KeyRecord := ⟨List.replicate 64 7, linkKey, List.replicate 32 3⟩
/-- Position `pos` of two blocks in a mode (1 mirror, 2 span), both links on. -/
def blockAt (mode pos : Nat) : State :=
  reg 0x800 (mode + 4 * pos + 16 + 0xC0) (dev (fun d => { d with sec := { d.sec with keys := some keyRec } }) ready)
def peer (f : Peer → Peer) (s : State) : State := s.withPeer (f s.dev.peer)
/-- Paired with the other position in epoch 7, both links heard. -/
def pairedAt (mode pos : Nat) : State :=
  let o := 1 - pos
  peer (fun x => { x with pos := [(o, { PeerPos.init with paired := true, epoch := 7 })], up := [(o, true), (4 + o, true)] })
    (blockAt mode pos)
/-- A pairing attempt is under way, the other's HELLO has come; the others say whether it or the block itself is active. -/
def helloOf (mode pos : Nat) (active : Bool) : List Byte :=
  (peer (fun x => { x with active := active }) (blockAt mode pos)).work.helloPayload (List.replicate 16 (w8 (5 + pos)))
def tryingAt (mode pos : Nat) (other self : Bool) : State :=
  let o := 1 - pos
  peer (fun x => { x with active := self, pos := [(o, { PeerPos.init with trying := true, own := helloOf mode pos self, hello := helloOf mode o other })] })
    (blockAt mode pos)
/-- The frame a block at position `dst` of two receives from the other. -/
def frame (dst typ : Nat) (x : FrameArgs) (payload : List Byte) : RxFrame :=
  ⟨true, 0, true, fld (cfgReset 0x80C) 0 12, 0x88B5, frameBytes typ x 5 (if typ ≤ 2 then 0 else 7) dst (1 - dst) payload⟩
def proofFrame (mode pos : Nat) (other self : Bool) : RxFrame :=
  frame pos 2 {} ((tryingAt mode pos other self).work.proofOf linkKey (1 - pos) (1 - pos))
/-- A rejoin is under way. -/
def rejoining (seen : Bool) : State := peer (fun x => { x with rejoin := true, rjSeen := seen }) (pairedAt 1 1)
def active (s : State) : State := peer (fun x => { x with active := true }) s
/-- Link 1 is silent towards the other position, frames for it wait on link 0. -/
def silent1 (s : State) : State :=
  let o := tabGet 0 [(0, 1)] s.work.myPos
  peer (fun x => { x with up := [(o, true)], mute := [(4 + o, true)] }) s
def queued (s : State) : State :=
  peer (fun x => { x with txq := [⟨0, 1, 7, s.work.partnerPos, 0, 0, [], List.replicate 48 0⟩, ⟨0, 3, 3, s.work.partnerPos, 0, 0, [], List.replicate 32 0⟩] }) s

def digestOf (d : Nat) : List Byte := leBytes 4 40 ++ leBytes 4 2 ++ leBytes 8 d
/-- Stream 40 is in sync; an own digest of its generation 2 waits. -/
def digests (own : List DigEntry) : State :=
  peer (fun x => { x with sync := [(40, true)], digOwn := own, digQ := [⟨40, 2, 5⟩, ⟨41, 2, 6⟩] }) (pairedAt 1 0)

/-- The model loaded, stream 40 RESIDENT with a state slot, stream 41 SPILLED. -/
def streamsOf (st : StreamSt) (s : State) : State :=
  let e : CtxEntry := { CtxEntry.init with model := 5, st := st, gen := 2, sidx := 4, sslot := 1 }
  dev (fun d => { d with
    models := [model []]
    arm := { d.arm with
      ctx := [(40, e), (41, { CtxEntry.init with model := 5, st := .spilled, gen := 1, spill := 3 })]
      slots := [(1, ⟨[10], [11], []⟩)]
      pages := [(10, 1), (11, 1)] } }) (s.withRam { s.ram with st := [(20480, 0x80), (20481, 0x3F)] })
def mirrored (pos : Nat) : State := streamsOf .resident (pairedAt 1 pos)
def passing (next : Nat) (s : State) : State := peer (fun x => { x with active := true, pass := some ⟨next, []⟩ }) s
def transfer : List Byte := (streamsOf .resident (blockAt 1 0)).work.stateTransfer 40 (model [])

def spanPayload : List Byte := List.replicate 72 1
/-- A span store that is not acknowledged yet, `n` times sent again. -/
def spanSent (n : Nat) : State :=
  peer (fun x => { x with spanOut := [⟨0, 1, 2, 3, 8, 1, 1, n, frameBytes 8 {} 8 7 1 0 spanPayload⟩] }) (pairedAt 2 0)
/-- A step of two cores with a deadline, ready for the span stores paired with it; core 1's window 0 is open. -/
def spanStep : State :=
  let s := withStep (pairedAt 2 0)
  let e := { stepExec with desc := desc 1 9 (5 * 2 ^ 24 + 2) 9000000000 [], stage := 1 }
  core 1 (fun k => { k with land := { k.land with opens := [(0, true)] } }) (dev (fun d => { d with rings := { d.rings with execs := [e] } }) s)
def spanWaits : State := peer (fun x => { x with spanHeld := [⟨0, 1, 8, 9, 5, 0, [List.replicate 64 1], 0⟩] }) (pairedAt 2 0)
/-- SEQ 5 of link 0 has been seen; its outcome is recorded. -/
def seen5 (s : State) : State :=
  peer (fun x => { x with rxSeq := [(1, ⟨true, 5, [5]⟩)], outcomes := [(0, 1, 5, 0)] }) s
def seen400 (s : State) : State := peer (fun x => { x with rxSeq := [(1, ⟨true, 400, [400]⟩)] }) s
/-- The gate list is on: entry 0 opens queue 3 only. -/
def gated (s : State) : State := reg 0x880 (2 ^ 31 + 1000) (reg 0x860 1 s)

-- Start-up, security timers, configuration port, TAP ------------------------------------------------------------------------

/-- The block in boot state `n`. -/
def bootAt (n : Nat) (s : State) : State := dev (fun d => { d with boot := { d.boot with state := n } }) s
def going (s : State) : State := dev (fun d => { d with boot := { d.boot with go := true } }) s
/-- A key record of one test repair and the maker credential of the key of zeros. -/
def keyRecord : List Byte :=
  let b := leBytes 4 0x10001 ++ List.replicate 64 1 ++ List.replicate 32 2 ++ List.replicate 32 3 ++ leBytes 4 4 ++
    List.replicate 432 (w8 1) ++ leBytes 4 0x80000000
  b ++ leBytes 4 (crc32 b)
/-- A firmware image of 128 bytes signed by the key `pub`, read in whole, in a block that knows the key's hash. -/
def pub : List Byte := List.replicate 32 0x55
def image (version : Nat) : List Byte :=
  leBytes 4 0x57465153 ++ leBytes 4 0x0102 ++ leBytes 4 version ++ leBytes 4 0x03020000 ++ leBytes 4 192 ++ leBytes 4 0x80 ++
    List.replicate 8 0 ++ pub ++ List.replicate 64 9 ++ List.replicate 64 0x33
def imageRead (version : Nat) : State :=
  dev (fun d => { d with
    ports := { d.ports with jobs := [⟨1, .firmware, 0x10000, 192, [(0, image version)], 0, false, 0, 0⟩] }
    sec := { d.sec with keys := some keyRec, creds := [(3, sha256 pub)], arv := 4 } }) (reg 0x110 192 (bootAt 4 ready))
def dark : State := dev (fun d => { d with boot := { d.boot with powered := false } }) ready

/-- A proposal of ring 1 is pending; the change to confidential mode waits for the last step. -/
def proposed : State :=
  dev (fun d => { d with sec := { d.sec with proposal := some ⟨3, 1, 2, 2, List.replicate 64 1, List.replicate 32 2⟩ } }) ready
/-- The same for item 04h: a proposed point, and the key pair an ATTEST drew. -/
def bindingKeys (s : State) : State :=
  dev (fun d => { d with sec := { d.sec with
    proposal := some ⟨3, 1, 2, 4, List.replicate 65 1, List.replicate 32 2⟩
    attest := some (List.replicate 32 3, List.replicate 32 4) } }) s
def quiescing : State :=
  dev (fun d => { d with sec := { d.sec with quiesce := some ⟨1, 4, 4, List.replicate 129 1⟩ } }) ready
def quiescingFor (item : Nat) (s : State) : State :=
  dev (fun d => { d with sec := { d.sec with quiesce := some ⟨0, 1, item, List.replicate 129 1⟩ } }) s
def confidential (s : State) : State := dev (fun d => { d with sec := { d.sec with conf := true } }) s
def sealedUp (s : State) : State := dev (fun d => { d with sec := { d.sec with sealedUp := true } }) s
def unveiled (s : State) : State := dev (fun d => { d with sec := { d.sec with unveiled := true } }) s
def safe (s : State) : State := { s with log := { s.log with safe := true } }

/-- Submission ring 0 and completion ring 0 are enabled. -/
def cqOn (s : State) : State := reg 0x2008 0x80000004 (dev (fun d => { d with cal := { d.cal with need := false } }) s)
def ringsOn (s : State) : State := reg 0x1008 0x80000004 (cqOn s)
def opened : State :=
  dev (fun d => { d with sec := { d.sec with sessions := [⟨0, 1, 2⟩, ⟨1, 2, 1⟩], nonces := [(0, 1, [7]), (1, 1, [8])] } }) (ringsOn ready)

-- Memory ports ---------------------------------------------------------------------------------------------------------------

def ports (f : Ports → Ports) (s : State) : State := dev (fun d => { d with ports := f d.ports }) s
/-- A request of a unit on port 0, of one line, at 10000h. -/
def reqOf (u : User) : PortReq := { PortReq.base with user := u, addr := 0x10000 }
def writeOf (u : User) : PortReq := { reqOf u with isWrite := true, data := [(0, 1)] }
/-- Candidates; requests that transferred under id 7; a read in progress of key `k` for `len` bytes. -/
def offers (qs : List PortReq) (s : State) : State := ports (fun p => { p with cands := p.cands ++ qs }) s
def outstanding (q : PortReq) (s : State) : State := ports (fun p => { p with out := p.out ++ [{ q with id := 7, sent := true }] }) s
def reading (k : JobKey) (len : Nat) (s : State) : State :=
  ports (fun p => { p with jobs := p.jobs ++ [⟨1, k, 0x10000, len, [], 1, false, 0, 0⟩] }) s
/-- Host windows are on and none is enabled. -/
def walled (s : State) : State := reg 0x680 1 s
def keyed (s : State) : State := dev (fun d => { d with sec := { d.sec with confKey := List.replicate 32 7, keys := some keyRec } }) s
def granuleWrite : PortReq :=
  { reqOf (.spill 40) with isWrite := true, beats := 4, data := (List.range 256).map fun i => (i, w8 i) }
/-- An entry of the ledger is written and accepted; `more` wait behind it. -/
def entered (it : LedItem) (more : List LedItem) (s : State) : State :=
  dev (fun d => { d with led := { d.led with seq := 5, items := it :: more, entry := some [1, 2, 3], accepted := true } }) s
def event : LedItem := ⟨3, 1, 2, 15, 0, 9, 5, .event⟩
def ledgerAt (s : State) : State := reg 0x618 6 (reg 0x610 0x40000 s)

-- Rings and descriptors ---------------------------------------------------------------------------------------------------------

/-- Ring 0's next descriptor is `d`; the ring is on and has a session of role `role`, or none for 0. -/
def queuedDesc (role : Nat) (d : List Byte) (batch : Option (List Byte)) (s : State) : State :=
  dev (fun x => { x with
    rings := { x.rings with sq := [(0, { SqRing.init with head := 1, seq := 2, stail := 3, issued := 3, queue := [⟨1, d, batch⟩] })] }
    sec := { x.sec with sessions := if role = 0 then [] else [⟨0, 1, role⟩] } }) (ringsOn s)
def noJob (o w1 : Nat) (ps : List (Nat × List Byte)) : List Byte := desc o 9 w1 noDl ps
/-- The begun descriptor 1 of ring 0. -/
def begun (e : Exec) (s : State) : State :=
  dev (fun x => { x with rings := { x.rings with execs := x.rings.execs ++ [e], nextOrder := 1 } }) (ringsOn s)
def execOf (d : List Byte) (stage role : Nat) (data : List Byte) : Exec :=
  { Exec.fresh 0 1 d 0 0 3 with stage := stage, role := role, cred := 1, data := data }
def mgmtDesc (func rlen rcap : Nat) : List Byte :=
  noJob 0x40 func [(0x10, leBytes 8 0x10000), (0x18, leBytes 4 rlen), (0x20, leBytes 8 0x20000), (0x28, leBytes 4 rcap)]
/-- A MGMT descriptor whose request's one piece is outstanding; its privileged action once its entry is accepted. -/
def mgmtReads (func rlen rcap role : Nat) (s : State) : State :=
  outstanding (reqOf (.job 1 0)) (reading (.desc 0 1) rlen (begun (execOf (mgmtDesc func rlen rcap) 1 role []) s))
def mgmtActs (func rcap : Nat) (data : List Byte) (s : State) : State :=
  entered ⟨2, 3, 1, 15, 0, 9, 0, .action 0 1⟩ [] (begun (execOf (mgmtDesc func data.length rcap) 3 3 data) s)
def acts (d data : List Byte) (s : State) : State :=
  entered ⟨2, 3, 1, 15, 0, 9, 0, .action 0 1⟩ [] (begun (execOf d 2 3 data) s)
def streamOf40 (st : StreamSt) (s : State) : State := streamsOf st s
def mapOf (cs : List Nat) (s : State) : State := dev (fun d => { d with boot := { d.boot with coreMap := cs } }) s
def creds (s : State) : State :=
  dev (fun d => { d with sec := { d.sec with
    creds := [(1, sha256 (List.replicate 32 1)), (2, sha256 pub), (3, [])], nonces := [(0, 1, List.replicate 32 5)] } }) s

/-- A STEP of the streams 40 and 41 on model 5, with its batch list; a CHUNK and a BIWIN of stream 40. -/
def step2 : List Byte := noJob 1 (5 * 2 ^ 24 + 2) [(0x30, leBytes 8 0x10000)]
def step1 : List Byte := noJob 1 (5 * 2 ^ 24 + 1) [(0x30, leBytes 8 0x10000)]
def rtStep : List Byte := desc 1 (9 + 3 * 2 ^ 22) (5 * 2 ^ 24 + 1) 9000000000 [(0x30, leBytes 8 0x10000)]
def list40 : List Byte := words [40, 0, 0, 0, 41, 0, 0, 0]
def list40Gen (n : Nat) : List Byte := words [40 + 2 ^ 31, n, 0, 0]
def chunkOf (len : Nat) : List Byte := noJob 2 (5 * 2 ^ 24 + len) [(0x30, leBytes 4 40)]
def biwinOf (len : Nat) : List Byte := noJob 3 (5 * 2 ^ 24 + len) [(0x30, leBytes 4 40)]
def layersOf (l : Layer) (s : State) : State := dev (fun d => { d with models := d.models.map fun m => { m with layers := [l] } }) s
def biLayer : Layer := { layer with bi := true, w := 4 }
def lostCore (p : Nat) (s : State) : State := core p (fun k => { k with lost := true }) s
def otherModel (s : State) : State := dev (fun d => { d with models := [{ model [] with handle := 6 }, model []], arm := { d.arm with
  ctx := [(40, { CtxEntry.init with model := 6, st := .resident, gen := 2, sidx := 4, sslot := 1 })] } }) s
/-- Another descriptor has begun before: `o` of a job, of ring `r`, in a phase. -/
def earlier (d : List Byte) (r : Nat) (ph : Phase) (s : State) : State :=
  dev (fun x => { x with rings := { x.rings with
    execs := x.rings.execs ++ [{ Exec.fresh r 0 d 0 0 3 with ph := ph }], nextOrder := 1 } }) s
def fenceDesc (w ring seq : Nat) : List Byte := noJob 0x30 w [(0x10, leBytes 4 ring), (0x14, leBytes 4 seq)]
/-- Ring `r` has had descriptor 1 fetched. -/
def fetchedOn (r : Nat) (s : State) : State :=
  dev (fun d => { d with rings := { d.rings with
    sq := tabMod SqRing.init d.rings.sq r fun q => { q with seq := 2, fetchedAny := true } } }) s
def killDesc (job : Nat) : List Byte := noJob 0x31 0 [(0x10, leBytes 4 job)]
def loadDesc (o w1 len : Nat) : List Byte := noJob o w1 [(0x10, leBytes 8 0x10000), (0x18, leBytes 4 len)]
def streamDesc (o w1 k : Nat) (ps : List (Nat × List Byte)) : List Byte := noJob o w1 ((0x10, leBytes 4 k) :: ps)
def ledgerOn (s : State) : State := dev (fun d => { d with led := { d.led with seq := 3 } }) (ledgerAt s)
/-- The KILL of job 9 that is descriptor 4 of ring 1 waits for its ledger entry. -/
def killHolds (s : State) : State :=
  dev (fun d => { d with rings := { d.rings with
    kills := [(9, 1, 4)]
    execs := d.rings.execs ++ [{ Exec.fresh 1 4 (killDesc 9) 0 0 3 with order := 7 }] } }) s
/-- The KILL of job 9 is descriptor 1 of ring 0. -/
def killingOwn (s : State) : State := dev (fun d => { d with rings := { d.rings with kills := [(9, 0, 1)] } }) s
/-- Sixteen entries of the repair map name one macro. -/
def crowdedMap (s : State) : State :=
  dev (fun d => { d with saf := { d.saf with testMap := (List.range 16).map fun i => BitVec.ofNat 32 i } }) s
def killing (s : State) : State := dev (fun d => { d with rings := { d.rings with kills := [(9, 1, 4)] } }) s
def resyncing (p : Nat) (s : State) : State := core p (fun k => { k with tables := { k.tables with resync := true } }) s
def fencesAt (n : Nat) (s : State) : State := dev (fun d => { d with rings := { d.rings with fences := n } }) s
def switched (n : Nat) (s : State) : State := dev (fun d => { d with cores := d.cores.map fun k => { k with tables := { k.tables with switches := n } } }) s
/-- The doorbell page read: ring 0's STAIL and CHEAD. -/
def pageRead (key : JobKey) (len : Nat) (b : List Byte) (bad : Bool) (s : State) : State :=
  ports (fun p => { p with jobs := [⟨1, key, 0x10000, len, [(0, b)], 0, bad, 0x3106, 7⟩] }) s
def ring0 (s : State) : State :=
  dev (fun x => { x with rings := { x.rings with sq := [(0, { SqRing.init with stail := 3, issued := 3 })] } }) (ringsOn s)

-- Streams -------------------------------------------------------------------------------------------------------------------------

def ctx40 (f : CtxEntry → CtxEntry) (s : State) : State :=
  dev (fun d => { d with arm := { d.arm with ctx := tabMod CtxEntry.init d.arm.ctx 40 f } }) s
def resident (cur : Bool) : State := ctx40 (fun c => { c with spill := 3, spillCur := cur }) (streamsOf .resident ready)
def spilled (s : State) : State :=
  dev (fun d => { d with arm := { d.arm with ctx := [(40, { CtxEntry.init with model := 5, st := .spilled, gen := 2, sidx := 4, spill := 3, spillCur := true })], slots := [], pages := [] } })
    (streamsOf .spilled s)
def passed40 (s : State) : State := dev (fun d => { d with arm := { d.arm with passes := [⟨40, 0, 0, 0, false⟩] } }) s
/-- Descriptor 1 of ring 0 waits with its lanes. -/
def laneWait (k : Nat) : Lane := { Lane.init with stream := k }
def waits (d : List Byte) (lanes : List Lane) (s : State) : State := begun { execOf d 0 1 [] with ph := .wait, lanes := lanes } s
/-- Stream 40's record is being read or written for it. -/
def recordJob (fill evict ok : Bool) (s : State) : State :=
  dev (fun d => { d with arm := { d.arm with jobs := [⟨40, fill, 0, 1, 9, evict, noDl, ok, if ok then 0 else 0x3106, 7⟩] } }) s
def recordOf40 : List Byte :=
  let s := keyed (resident false)
  let m := model []
  let st := s.work.activeState 40 m.stateBytes
  cryptUnits false (keyRec.memKey) 40 (s.work.ctx 40) (1 + 4 * m.halfPages) 0
    (recordHeader 40 (s.work.ctx 40) m.stateBytes (crc64 st) ++ (st ++ List.replicate (2048 * m.halfPages - m.stateBytes) 0))
/-- The fill of stream 40 has brought the bytes `b`. -/
def filling (b : List Byte) (s : State) : State :=
  recordJob true false true (pageRead (.fill 40) b.length b false (keyed (ctx40 (fun c => { c with spill := 3, st := .filling }) (streamsOf .resident s))))
def fillDesc : List Byte := streamDesc 0x12 0 40 []

-- Steps ---------------------------------------------------------------------------------------------------------------------------

/-- A STEP that is ready for its cores; one that has ended on cores 0 and 1, with the checker's copy on 2 and 3. -/
def readyStep (d : List Byte) : State := begun { execOf d 0 1 [] with ph := .ready, lanes := [busyLane 40] } (streamsOf .busy ready)
def endedStep (d : List Byte) (lanes : List Lane) (checker : List Nat) : State :=
  let cur := fun i c k => ({ k with cur := some ⟨0, 1, i, c, true, true⟩ } : Core)
  let s := begun { execOf d 1 1 [] with ph := .run, lanes := lanes, cores := [0, 1], checker := checker } (streamsOf .busy ready)
  core 0 (cur 0 false) (core 1 (cur 1 false) (if checker = [] then s else core 2 (cur 0 true) (core 3 (cur 1 true) s)))
def digestOn (s : State) : State := core 0 (fun k => k.withThread 0 { k.thread 0 with digest := 5 }) s
def runsLate (pol : Bool) : List Byte := desc 1 (9 + 2 ^ 23 + (if pol then 2 ^ 22 else 0)) (5 * 2 ^ 24 + 1) 9000000000 [(0x30, leBytes 8 0x10000)]
/-- A step that its deadline passes in phase `ph`. -/
def lateIn (ph : Phase) (pol : Bool) (lanes : List Lane) : State :=
  begun { execOf (runsLate pol) 0 1 [] with ph := ph, lanes := lanes } (streamsOf .busy ready)

/-- A model image of one layer and one slot whose one weight line holds 0 to 63. -/
def modelImage : List Byte :=
  bytesAt 704 [(0, leBytes 4 0x53514D49), (4, leBytes 4 (2 ^ 16 + 1)), (0x18, leBytes 4 64), (0x1C, leBytes 4 128),
    (64, leBytes 4 (3 * 2 ^ 28)), (72, leBytes 4 4), (76, leBytes 4 1),
    (128 + 0, leBytes 4 192), (128 + 4, leBytes 4 4), (128 + 0x18, leBytes 4 640), (128 + 0x1C, leBytes 4 64),
    (128 + 0x20, leBytes 4 7), (128 + 0x28, leBytes 4 256), (128 + 0x2C, leBytes 4 384), (128 + 0x30, leBytes 4 (16 * 65536)),
    (640, (List.range 64).map w8)]

/-- The header of the frame a link receives. -/
def hdrOf (s : State) (link : Nat) (fr : RxFrame) : Hdr :=
  match s.work.judge link fr with
  | .accept h => h
  | .dup h => h
  | _ => ⟨0, 0, 0, 0, 0, 0, 0, 0, 0, 0, 0⟩

end Sys2Proof.Tests
end

