-- ==== Sys2Proof/Tests/Slice0.lean ====
section
/-! SUPPORT. The author's own tests: an ill-formed command for each check of well-formedness, and single commands whose results
were worked out by hand from the rules named. -/

namespace Sys2Proof.Slice0

open Sys2Proof Sys2Proof.Machine Sys2Proof.Tests

-- One theorem at a time: evaluated side by side, each would hold a thread of its own.
set_option Elab.async false

-- Well-formedness: one ill-formed command for each check ----------------------------------------------------------------------

theorem test_refuses_ring : wellFormed (.step 64) = false := by decide
theorem test_refuses_key : wellFormed (.batchListRead 0 (2 ^ 64)) = false := by decide
theorem test_refuses_seq : wellFormed (.digestWaitExpiry 0 (2 ^ 32)) = false := by decide
theorem test_refuses_mask : wellFormed (.coresGranted (2 ^ 32)) = false := by decide
theorem test_refuses_flit_kind : wellFormed (.meshFlitArrival 0 1 true true 3 0 1) = false := by decide
theorem test_refuses_locked_line : wellFormed (.lockScrubDone 0 [(3, 0)]) = false := by decide
theorem test_refuses_core : wellFormed (.coreStepEnd 32) = false := by decide
theorem test_refuses_thread : wellFormed (.fadd 0 8) = false := by decide
theorem test_refuses_stream : wellFormed (.fillVerified 65536) = false := by decide
theorem test_refuses_port : wellFormed (.portWriteResponse 8 0 0) = false := by decide
theorem test_refuses_id : wellFormed (.portWriteResponse 0 256 0) = false := by decide
theorem test_refuses_status : wellFormed (.portWriteResponse 0 0 2) = false := by decide
theorem test_refuses_page : wellFormed (.pageZeroed 8192) = false := by decide
theorem test_refuses_link : wellFormed (.ethTxClockStop 2) = false := by decide
theorem test_refuses_position : wellFormed (.linkSilence 0 4) = false := by decide
theorem test_refuses_fetch_slot : wellFormed (.fetchLineLand 0 256) = false := by decide
theorem test_refuses_tile_slot : wellFormed (.tallyCompute 0 16) = false := by decide
theorem test_refuses_chain : wellFormed (.chainMerge 0 4) = false := by decide
theorem test_refuses_unit : wellFormed (.stall 256 0 0) = false := by decide
theorem test_refuses_time : wellFormed (.timebaseUpdate (2 ^ 64) true) = false := by decide
theorem test_refuses_code : wellFormed (.fatalError 65536) = false := by decide
theorem test_refuses_fault_kind : wellFormed (.linkFaultReceived 0 3) = false := by decide
theorem test_refuses_power : wellFormed (.telemetryWindow 256) = false := by decide
theorem test_refuses_register : wellFormed (.configWrite 2 0) = false := by decide
theorem test_refuses_frame : wellFormed (.hello 0 ⟨true, 0, true, 4096, 0, []⟩) = false := by decide
theorem test_refuses_finding : wellFormed (.eccFinding ⟨0, 0, 20480, 0, false, false⟩) = false := by decide
theorem test_refuses_trims : wellFormed (.trimProcedureDone [0]) = false := by decide
theorem test_accepts : wellFormed (.fadd 31 7) = true := by decide

-- The table gives no row bits, so no word spells a command ------------------------------------------------------------------------

theorem test_no_word_decodes : decodeTableWord 32 5 = none := by decide

-- One command -----------------------------------------------------------------------------------------------------------------------

/-- The state a command leaves; the state before it where it answers none. -/
def after (i : Instr) (s : State) : State :=
  match exec i s with
  | .next t => t
  | _ => s

/-- Register `r` of thread 1 of core 0, word `l` of vector register `v`, the newest error's code. -/
def x (s : State) (r : Nat) : Nat := ((s.thread 0 1).reg r).toNat
def lane (s : State) (v l : Nat) : Nat := ((s.core 0).vec.lane v l).toNat
def newest (s : State) : Option Nat := (s.log.errq.getLast?).map fun e => e.code.toNat

-- Vector commands (R183 to R194): v1 = 1.0, 2.0, -3.0, NaN; v2 = 2.0, 0.5, 4.0, 1.0; mask 1 = 0101b.
theorem test_fadd_masked :
    let t := after (.fadd 0 1) (vopState (vop 0 1 1 1 2 1 3))
    (lane t 3 0, lane t 3 1, lane t 3 2, lane t 3 3) = (0x40400000, 0, 0x3F800000, 0) := by decide +kernel
theorem test_fadd_advances : ((after (.fadd 0 1) (vopState (vop 0 1 1 1 2 1 3))).thread 0 1).pc = 4 := by decide +kernel
theorem test_fadd_unmasked_keeps :
    lane (after (.fadd 0 1) (vopState (vop 0 0 1 1 2 1 3))) 3 1 = 0x22222222 := by decide +kernel
theorem test_fmul : lane (after (.fmul 0 1) (vopState (vop 2 0 0 0 2 1 3))) 3 2 = 0xC1400000 := by decide +kernel
theorem test_fsub : lane (after (.fsub 0 1) (vopState (vop 1 0 0 0 2 1 3))) 3 0 = 0xBF800000 := by decide +kernel
theorem test_fabs_clears_sign : lane (after (.fabs 0 1) (vopState (vop 24 0 0 0 2 1 3))) 3 2 = 0x40400000 := by decide +kernel
theorem test_fadd_wrong_word : after (.fsub 0 1) (vopState (vop 0 1 1 1 2 1 3)) = vopState (vop 0 1 1 1 2 1 3) := by decide +kernel

-- The control core (R156, R161): x5 = -10 and x6 = 7 where no other value is given.
def base (w : Nat) (a b : Nat) : State := after (.baseInstruction 0 1 true) (xState w [(5, a), (6, b)])
theorem test_addi : x (base (rv 0x13 7 0 5 3 0) 0xFFFFFFF6 7) 7 = 0xFFFFFFF9 := by decide +kernel
theorem test_sub : x (base (rv 0x33 7 0 5 6 0x20) 0xFFFFFFF6 7) 7 = 0xFFFFFFEF := by decide +kernel
theorem test_sra : x (base (rv 0x33 7 5 5 6 0x20) 0xFFFFFF00 4) 7 = 0xFFFFFFF0 := by decide +kernel
theorem test_mulhu : x (base (rv 0x33 7 3 5 6 1) 0xFFFFFFFF 0xFFFFFFFF) 7 = 0xFFFFFFFE := by decide +kernel
theorem test_div_by_zero : x (base (rv 0x33 7 4 5 0 1) 0xFFFFFFF6 7) 7 = 0xFFFFFFFF := by decide +kernel
theorem test_rem_overflow : x (base (rv 0x33 7 6 5 6 1) 0x80000000 0xFFFFFFFF) 7 = 0 := by decide +kernel
theorem test_branch_taken : ((base (rv 0x63 8 4 5 6 0) 0xFFFFFFF6 7).thread 0 1).pc = 8 := by decide +kernel
theorem test_branch_not_taken : ((base (rv 0x63 8 6 5 6 0) 0xFFFFFFF6 7).thread 0 1).pc = 4 := by decide +kernel
theorem test_x0_stays_zero : x (base (rv 0x13 0 0 5 3 0) 0xFFFFFFF6 7) 0 = 0 := by decide +kernel

-- Array, statistic unit, threads (R112 to R153, R210 to R213) -------------------------------------------------------------------------
theorem test_chain_merge_counts :
    let k := (after (.chainMerge 0 1) (mergeState 1)).core 0
    (k.plinth.chain 1).merged = 2 ∧ ((k.plinth.chain 1).acc.map (·.n)).take 1 = [5] := by decide +kernel
theorem test_xcnt_reads : x (after (.xcnt 0 1) (xState (xsys 2 0 5 7) [(5, 3)])) 7 = 4 := by decide +kernel
theorem test_xcset_writes :
    tabGet 0 ((after (.xcset 0 1) (xState (xsys 7 6 5 0) [(5, 3), (6, 9)])).core 0).land.ctrs 3 = 9 := by decide +kernel
theorem test_xwait_sleeps :
    ((after (.xwait 0 1) (xState (xsys 1 6 5 0) [(5, 3), (6, 5)])).thread 0 1).st = .sleeping (.counter 3 5) := by decide +kernel

-- Mesh, memories, safety -----------------------------------------------------------------------------------------------------------
theorem test_store_arrives :
    (after (.remoteStoreArrival 1) (remoteState 7)).ram.get 1 (524288 + 2048 * 64 + 60) = 7 := by decide +kernel
theorem test_late_store_dropped :
    (after (.remoteStoreArrival 1) lateState).ram.get 1 (524288 + 2048 * 64 + 60) = 0 := by decide +kernel
theorem test_locked_lines_cleared :
    let t := after (.lockScrubDone 0 []) lockedState
    t.ram.asm = [(511, 1), (640, 4)] ∧ t.ram.ws = [(256, 6)] ∧ t.ram.pl = [(262144, 8)] := by decide +kernel
theorem test_first_fatal_code_stays : (after (.fatalError 0xF107) fatal).log.fcode = 0xF102 := by decide +kernel

-- Registers, rings, start-up -------------------------------------------------------------------------------------------------------
theorem test_config_write : ((after (.configWrite 0x120 (w32 0x4000000)) ready).dev.cfgW 0x120).toNat = 0x4000000 := by decide +kernel
theorem test_safe_state_drops_write : (after (.configWrite 0x120 5) (safe ready)).dev.cfgW 0x120 = ready.dev.cfgW 0x120 := by decide +kernel
theorem test_sealed_write_refused : newest (after (.configWrite 0x610 5) (sealedUp ready)) = some 0x7108 := by decide +kernel
theorem test_key_timeout_waits_for_keys : after .keyRecordTimeout ready = ready := by decide +kernel
theorem test_reset_keeps_queue :
    (after .rstNFall { ready with pending := [.sfSafeReq] }).pending = [.sfSafeReq] := by decide +kernel
theorem test_late_time_ignored : (after (.timebaseUpdate 9999999999 true) ready).tb.now.toNat = 10000000000 := by decide +kernel

-- The queue ---------------------------------------------------------------------------------------------------------------------------
theorem test_front_command_runs :
    (match step { ready with pending := [.configWrite 0x120 (w32 0x4000000), .sfSafeReq] } with
      | .next t => ((t.dev.cfgW 0x120).toNat, t.pending)
      | _ => (0, [])) = (0x4000000, [.sfSafeReq]) := by decide +kernel
theorem test_empty_queue_idles : (match step ready with | .next t => decide (t = ready) | _ => false) = true := by decide +kernel

end Sys2Proof.Slice0
end

