-- ==== Sys2Proof/Tests/Witnesses1.lean ====
section
/-! SUPPORT. Witnesses, part 1: for each statement of Certificates/Slice0/Obligations.lean, from VectorArithmetic to
SafetyReactions, states and operands that meet all the hypotheses of a clause together. `meets_<statement>_<n>` names the statement. -/

namespace Sys2Proof.Witness

-- One theorem at a time: evaluated side by side, each would hold a thread of its own.
set_option Elab.async false
set_option linter.unusedVariables false
set_option synthInstance.maxSize 4000
set_option synthInstance.maxHeartbeats 200000

open Sys2Proof Sys2Proof.Machine Sys2Proof.Tests

-- VectorArithmetic ----------------------------------------------------------------------------------------------------------------------------------

theorem meets_VectorArithmetic_1 :
    let s := vopState (vop 0 1 1 1 2 1 3)
    let i : Instr := .fadd 0 1
    let row : Row := .fadd
    let p := 0
    let t := 1
    let word := 105124235
    ∃ op ∈ row.binOp,
    vopCommand i = some (row, p, t) ∧
    s.issues p t row word = true := by
  decide +kernel

theorem meets_VectorArithmetic_2 :
    let s := vopState (vop 24 0 0 0 2 1 3)
    let i : Instr := .fabs 0 1
    let row : Row := .fabs
    let p := 0
    let t := 1
    let word := 3221492107
    ∃ op ∈ row.unOp,
    vopCommand i = some (row, p, t) ∧
    s.issues p t row word = true := by
  decide +kernel

theorem meets_VectorArithmetic_3 :
    let s := vopState (vop 3 0 0 0 2 1 3)
    let p := 0
    let t := 1
    let word := 402919819
    let neg := false
    s.issues p t (if neg then .fnma else .fma) word = true := by
  decide +kernel

-- VectorPlacement -----------------------------------------------------------------------------------------------------------------------------------

theorem meets_VectorPlacement_1 :
    let s := vopState (vop 24 1 1 1 5 0 3)
    let p := 0
    let t := 1
    let word := 3326738827
    s.issues p t .laneid word = true := by
  decide +kernel

theorem meets_VectorPlacement_2 :
    let s := vopState (vop 25 0 0 0 0 4 3)
    let p := 0
    let t := 1
    let word := 3355459979
    s.issues p t .vsplat word = true := by
  decide +kernel

theorem meets_VectorPlacement_3 :
    let s := vopState (vop 26 0 0 1 2 1 3)
    let p := 0
    let t := 1
    let word := 3494121867
    s.issues p t .vsel word = true := by
  decide +kernel

-- VectorMasks ---------------------------------------------------------------------------------------------------------------------------------------

theorem meets_VectorMasks_1 :
    let i : Instr := .fcmplt 0 1
    let s := vopState (vop 19 1 1 1 2 1 2)
    let row : Row := .fcmplt
    let p := 0
    let t := 1
    let word := 2655260939
    ∃ op ∈ row.cmpOp,
    vopCommand i = some (row, p, t) ∧
    s.issues p t row word = true := by
  decide +kernel

theorem meets_VectorMasks_2 :
    let s := vopState (vop 27 0 0 0 8 1 3)
    let p := 0
    let t := 1
    let word := 3624931723
    s.issues p t .mpop word = true := by
  decide +kernel

theorem meets_VectorMasks_3 :
    let s := vopState (vop 27 0 0 0 9 2 3)
    let p := 0
    let t := 1
    let word := 3625066891
    s.issues p t .mfirst word = true := by
  decide +kernel

theorem meets_VectorMasks_4 :
    let s := vopState (vop 28 0 0 0 1 1 3)
    let i : Instr := .mand 0 1
    let row : Row := .mand
    let p := 0
    let t := 1
    let word := 3758231947
    ∃ op ∈ row.maskLogic,
    vopCommand i = some (row, p, t) ∧
    s.issues p t row word = true := by
  decide +kernel

-- VectorReduce --------------------------------------------------------------------------------------------------------------------------------------

theorem meets_VectorReduce_1 :
    let i : Instr := .reduceFsum 0 1
    let s := vopState (vop 27 0 0 0 0 2 3)
    let row : Row := .rfsum
    let p := 0
    let t := 1
    let word := 3623887243
    vopCommand i = some (row, p, t) ∧
    s.issues p t row word = true ∧
    let k := s.core p
    let v := vopFields word
    let ls := active k.vec (s.thread p t).vl v.me v.msk
    ∃ r ∈ row.reduction (ls.map fun l => k.vec.lane v.vs1 l),
    True := by
  decide +kernel

-- FunctionLookup ------------------------------------------------------------------------------------------------------------------------------------

theorem meets_FunctionLookup_1 :
    let s := Tests.core 0 (fun k => { k with tables := { k.tables with lastFu := 7 } }) (twoThreads (withTable (vopState (vop 29 0 0 0 5 1 3))))
    let p := 0
    let t := 1
    let word := 3892973963
    let gate := false
    ∃ c ∈ s.ctx? p,
    s.issues p t (if gate then .vgact else .vfn) word = true ∧
    let k := s.core p
    let v := vopFields word
    ∃ b ∈ k.tables.active v.vs2,
    let ready := fun u => s.work.fuReady p c.img u = true
    let turn := ∀ u, u < 8 → ready u → (t + 8 - (k.tables.lastFu + 1) % 8) % 8 ≤ (u + 8 - (k.tables.lastFu + 1) % 8) % 8
    ¬ turn := by
  decide +kernel

theorem meets_FunctionLookup_2 :
    let s := withTable (vopState (vop 29 0 0 0 5 1 3))
    let p := 0
    let t := 1
    let word := 3892973963
    let gate := false
    ∃ c ∈ s.ctx? p,
    s.issues p t (if gate then .vgact else .vfn) word = true ∧
    let k := s.core p
    let v := vopFields word
    ∃ b ∈ k.tables.active v.vs2,
    let ready := fun u => s.work.fuReady p c.img u = true
    let turn := ∀ u, u < 8 → ready u → (t + 8 - (k.tables.lastFu + 1) % 8) % 8 ≤ (u + 8 - (k.tables.lastFu + 1) % 8) % 8
    turn := by
  decide +kernel

-- VectorLoad ----------------------------------------------------------------------------------------------------------------------------------------

theorem meets_VectorLoad_1 :
    let s := memState (vmem 0 0 5 0 0 0 5 3) 0x8000
    let p := 0
    let t := 1
    let word := 20992427
    let bcast := false
    ∃ c ∈ s.ctx? p,
    s.issues p t (if bcast then .vldb else .vld) word = true ∧
    let k := s.core p
    let v := vmemFields word
    let th := s.thread p t
    let n := fmtWidth v.fmt
    let o := fun l => if bcast then 0 else l * n
    let ls := active k.vec th.vl v.me v.msk
    let m := 1
    let off := 32768
    memAddr (th.reg v.rs1).toNat = .mem m off ∧
    (∀ l ∈ ls, (off + o l) % n = 0 ∧ off + o l + n ≤ memSize m ∧ (m = 1 → c.img.declared ((off + o l) / 64) 1 = true)) := by
  decide +kernel

theorem meets_VectorLoad_2 :
    let s := memState (vmem 0 0 5 0 0 0 5 3) 0x81080100
    let p := 0
    let t := 1
    let word := 20992427
    let bcast := false
    ∃ c ∈ s.ctx? p,
    s.issues p t (if bcast then .vldb else .vld) word = true ∧
    let k := s.core p
    let v := vmemFields word
    let th := s.thread p t
    let n := fmtWidth v.fmt
    let o := fun l => if bcast then 0 else l * n
    let ls := active k.vec th.vl v.me v.msk
    let slot := 1
    let win := 1
    let off := 256
    ∃ x ∈ c.window? slot win,
    memAddr (th.reg v.rs1).toNat = .window 0 slot win off ∧
    (∀ l ∈ ls, (off + o l) % n = 0 ∧ off + o l + n ≤ x.len * 64) ∧
    let q := c.coreOf slot
    x.mem = 2 ∧
    (s.core q).plinth.fmt = .promoted := by
  decide +kernel

theorem meets_VectorLoad_3 :
    let s := memState (vmem 0 0 5 0 0 0 5 3) 0x80000040
    let p := 0
    let t := 1
    let word := 20992427
    let bcast := false
    ∃ c ∈ s.ctx? p,
    s.issues p t (if bcast then .vldb else .vld) word = true ∧
    let k := s.core p
    let v := vmemFields word
    let th := s.thread p t
    let n := fmtWidth v.fmt
    let o := fun l => if bcast then 0 else l * n
    let ls := active k.vec th.vl v.me v.msk
    let slot := 0
    let win := 0
    let off := 64
    ∃ x ∈ c.window? slot win,
    memAddr (th.reg v.rs1).toNat = .window 0 slot win off ∧
    (∀ l ∈ ls, (off + o l) % n = 0 ∧ off + o l + n ≤ x.len * 64) ∧
    x.mem ≠ 2 := by
  decide +kernel

-- VectorStateRead -----------------------------------------------------------------------------------------------------------------------------------

theorem meets_VectorStateRead_1 :
    let s := memState (vmem 4 0 0 0 0 0 5 3) 0
    let p := 0
    let t := 1
    let word := 2147504555
    ∃ c ∈ s.ctx? p,
    let k := s.core p
    let v := vmemFields word
    let th := s.thread p t
    let a := (th.reg v.rs1).toNat
    let row := bitsOf a 24 8
    let place := fun i => elemAt c.m.layers 0 (bitsOf a 0 21 + i)
    bitsOf a 21 3 = 0 ∧
    row < c.len ∧
    s.issues p t .vlds word = true ∧
    (∀ i ∈ active k.vec th.vl v.me v.msk, (place i).isSome = true) := by
  decide +kernel

theorem meets_VectorStateRead_2 :
    let s := memState (vmem 6 3 0 0 0 0 5 3) 0x1000000
    let p := 0
    let t := 1
    let word := 3321909675
    ∃ c ∈ s.ctx? p,
    let k := s.core p
    let v := vmemFields word
    let th := s.thread p t
    let a := (th.reg v.rs1).toNat
    let row := bitsOf a 24 8
    bitsOf a 21 3 = 0 ∧
    row < c.len ∧
    s.issues p t .vrng word = true ∧
    (∀ i ∈ active k.vec th.vl v.me v.msk, bitsOf a 0 21 + i < c.m.elems) := by
  decide +kernel

-- PlinthAccess --------------------------------------------------------------------------------------------------------------------------------------

theorem meets_PlinthAccess_1 :
    let s := memState (vmem 2 0 5 0 0 0 5 3) 65
    let p := 0
    let t := 1
    let word := 1094734251
    let k := s.core p
    let v := vmemFields word
    let th := s.thread p t
    let a := (th.reg v.rs1).toNat
    let slot := a / 64
    let sl := k.plinth.slot slot
    let kind : Kind := if v.fmt = 5 then .fp else .int
    a < 1024 ∧
    (v.fmt = 5 ∨ v.fmt = 6) ∧
    s.issues p t .prd word = true ∧
    slot < k.plinth.fmt.slots ∧
    sl.st ≠ .accum ∧
    (sl.st = .free ∨ (k.plinth.fmt = .promoted ∧ sl.kind = kind) ∨ (k.plinth.fmt ≠ .promoted ∧ (v.fmt = 5 ∨ sl.kind = .int))) := by
  decide +kernel

theorem meets_PlinthAccess_2 :
    let s := memState (vmem 3 0 5 0 0 0 5 1) 65
    let p := 0
    let t := 1
    let word := 1631604907
    let k := s.core p
    let v := vmemFields word
    let th := s.thread p t
    let a := (th.reg v.rs1).toNat
    let slot := a / 64
    let sl := k.plinth.slot slot
    let kind : Kind := if v.fmt = 5 then .fp else .int
    a < 1024 ∧
    (v.fmt = 5 ∨ v.fmt = 6) ∧
    s.issues p t .pwr word = true ∧
    (k.plinth.fmt = .promoted ∨ k.plinth.allFree = true) ∧
    k.locks.plinth = false ∧
    (sl.st = .free ∨ ((sl.st = .pre ∨ sl.st = .done) ∧ sl.kind = kind)) := by
  decide +kernel

-- VectorStores --------------------------------------------------------------------------------------------------------------------------------------

theorem meets_VectorStores_1 :
    let s := memState (vmem 1 0 1 0 0 0 5 1) 0x8003
    let p := 0
    let t := 1
    let word := 541085867
    ∃ c ∈ s.ctx? p,
    s.issues p t .vst word = true ∧
    let k := s.core p
    let v := vmemFields word
    let th := s.thread p t
    let n := fmtWidth v.fmt
    let ls := active k.vec th.vl v.me v.msk
    let row := fld th.ctx 24 8
    let sr := th.sr && decide (1 ≤ v.fmt) && decide (v.fmt ≤ 4)
    ls ≠ [] ∧
    (sr = true → row < c.len) ∧
    let off := 32771
    memAddr (th.reg v.rs1).toNat = .mem 1 off ∧
    (∀ i ∈ ls, (off + i * n) % n = 0 ∧ off + i * n + n ≤ 524288 ∧ c.img.declared ((off + i * n) / 64) 1 = true ∧
        k.lineLocked 1 ((off + i * n) / 64) = false) := by
  decide +kernel

theorem meets_VectorStores_2 :
    let s := dev (fun d => { d with mesh := { d.mesh with stores := [{ rstore 7 with queued := 8 }] } }) (memState (vmem 1 0 5 0 0 0 5 2)
        0x81000040)
    let p := 0
    let t := 1
    let word := 557863211
    ∃ c ∈ s.ctx? p,
    s.issues p t .vst word = true ∧
    let k := s.core p
    let v := vmemFields word
    let th := s.thread p t
    let n := fmtWidth v.fmt
    let ls := active k.vec th.vl v.me v.msk
    let row := fld th.ctx 24 8
    let sr := th.sr && decide (1 ≤ v.fmt) && decide (v.fmt ≤ 4)
    let conv := fun i => storeElem v.fmt (if sr then c.roundingAt th row v.site (fld th.ctx 0 21 + i) else .rne) (k.vec.lane v.vd i)
    let bs := fun off => ls.flatMap fun i => runFrom (off + i * n) (conv i).1
    ls ≠ [] ∧
    (sr = true → row < c.len) ∧
    let slot := 1
    let win := 0
    let off := 64
    memAddr (th.reg v.rs1).toNat = .window 0 slot win off ∧
    (∀ i ∈ ls, (off + i * n) % n = 0) ∧
    let lines := ((bs off).map fun b => b.1 / 64).eraseDups
    8 < s.work.meshLines p + lines.length := by
  decide +kernel

theorem meets_VectorStores_3 :
    let s := memState (vmem 1 0 3 0 0 0 5 2) 0x81000020
    let p := 0
    let t := 1
    let word := 549474603
    ∃ c ∈ s.ctx? p,
    s.issues p t .vst word = true ∧
    let k := s.core p
    let v := vmemFields word
    let th := s.thread p t
    let n := fmtWidth v.fmt
    let ls := active k.vec th.vl v.me v.msk
    let row := fld th.ctx 24 8
    let sr := th.sr && decide (1 ≤ v.fmt) && decide (v.fmt ≤ 4)
    let conv := fun i => storeElem v.fmt (if sr then c.roundingAt th row v.site (fld th.ctx 0 21 + i) else .rne) (k.vec.lane v.vd i)
    let bs := fun off => ls.flatMap fun i => runFrom (off + i * n) (conv i).1
    ls ≠ [] ∧
    (sr = true → row < c.len) ∧
    let slot := 1
    let win := 0
    let off := 32
    memAddr (th.reg v.rs1).toNat = .window 0 slot win off ∧
    (∀ i ∈ ls, (off + i * n) % n = 0) ∧
    let lines := ((bs off).map fun b => b.1 / 64).eraseDups
    s.work.meshLines p + lines.length ≤ 8 := by
  decide +kernel

theorem meets_VectorStores_4 :
    let s := memState (vmem 5 15 0 0 0 0 5 1) 0x1000000
    let p := 0
    let t := 1
    let word := 3187691691
    ∃ c ∈ s.ctx? p,
    s.issues p t .vsts word = true ∧
    let k := s.core p
    let v := vmemFields word
    let th := s.thread p t
    let a := (th.reg v.rs1).toNat
    let row := bitsOf a 24 8
    let l := c.laneOf row
    let ls := active k.vec th.vl v.me v.msk
    bitsOf a 21 3 = 0 ∧
    row < c.len ∧
    (∀ i ∈ ls, (elemAt c.m.layers 0 (bitsOf a 0 21 + i)).isSome = true) ∧
    (c.cur.checker = true ∨ l.ph = .absent) := by
  decide +kernel

theorem meets_VectorStores_5 :
    let s := memState (vmem 5 15 0 0 0 0 5 2) 0
    let p := 0
    let t := 1
    let word := 3187691819
    ∃ c ∈ s.ctx? p,
    s.issues p t .vsts word = true ∧
    let k := s.core p
    let v := vmemFields word
    let th := s.thread p t
    let a := (th.reg v.rs1).toNat
    let row := bitsOf a 24 8
    let l := c.laneOf row
    let ls := active k.vec th.vl v.me v.msk
    bitsOf a 21 3 = 0 ∧
    row < c.len ∧
    (∀ i ∈ ls, (elemAt c.m.layers 0 (bitsOf a 0 21 + i)).isSome = true) ∧
    c.cur.checker = false ∧
    l.ph ≠ .absent := by
  decide +kernel

-- ArrayIssue ----------------------------------------------------------------------------------------------------------------------------------------

theorem meets_ArrayIssue_1 :
    let s := xState (xcmd 0 0 5 0) [(5, 0)]
    let p := 0
    let t := 1
    let word := 163931
    ∃ c ∈ s.ctx? p,
    let k := s.core p
    let th := s.thread p t
    let a := (th.reg (xFields word).rs1).toNat
    ∃ bs ∈ dmem c.img k.scratch a 16,
    ∃ m ∈ mmaOf t bs,
    s.issues p t .xmma word = true ∧
    a % 16 = 0 ∧
    m.formatOk = true ∧
    m.rangeOk c.img = true ∧
    k.queue.length < 4 := by
  decide +kernel

theorem meets_ArrayIssue_2 :
    let s := queueFull (xState (xcmd 0 0 5 0) [(5, 0)])
    let p := 0
    let t := 1
    let word := 163931
    ∃ c ∈ s.ctx? p,
    let k := s.core p
    let th := s.thread p t
    let a := (th.reg (xFields word).rs1).toNat
    ∃ bs ∈ dmem c.img k.scratch a 16,
    ∃ m ∈ mmaOf t bs,
    s.issues p t .xmma word = true ∧
    a % 16 = 0 ∧
    m.formatOk = true ∧
    m.rangeOk c.img = true ∧
    4 ≤ k.queue.length ∧
    k.mmas ≠ [] := by
  decide +kernel

theorem meets_ArrayIssue_3 :
    let s := xState (xcmd 2 6 5 0) [(5, 3), (6, 256)]
    let p := 0
    let t := 1
    let word := 6463579
    ∃ c ∈ s.ctx? p,
    let k := s.core p
    let th := s.thread p t
    let a := (th.reg (xFields word).rs1).toNat
    let b := (th.reg (xFields word).rs2).toNat
    s.issues p t .xchain word = true ∧
    a < 4 ∧
    1 ≤ b ∧
    b ≤ 256 ∧
    (k.plinth.chain a).isOpen = false := by
  decide +kernel

theorem meets_ArrayIssue_4 :
    let s := xState (xcmd 1 0 5 0) [(5, 15)]
    let p := 0
    let t := 1
    let word := 168027
    ∃ c ∈ s.ctx? p,
    let k := s.core p
    let th := s.thread p t
    let a := (th.reg (xFields word).rs1).toNat
    s.issues p t .xrel word = true ∧
    a < 16 ∧
    (k.plinth.slot a).st = .free := by
  decide +kernel

theorem meets_ArrayIssue_5 :
    let s := xState (xcmd 1 0 5 0) [(5, 2)]
    let p := 0
    let t := 1
    let word := 168027
    ∃ c ∈ s.ctx? p,
    let k := s.core p
    let th := s.thread p t
    let a := (th.reg (xFields word).rs1).toNat
    s.issues p t .xrel word = true ∧
    a < 16 ∧
    ((k.plinth.slot a).st = .pre ∨ (k.plinth.slot a).st = .done) := by
  decide +kernel

-- ArrayCompute --------------------------------------------------------------------------------------------------------------------------------------

theorem meets_ArrayCompute_1 :
    let s := computing
    let p := 1
    ∃ c ∈ s.ctx? p,
    s.acts = true ∧
    p < s.dev.cores.length ∧
    let k := s.core p
    k.queue = [] := by
  decide +kernel

theorem meets_ArrayCompute_2 :
    let s := computing
    let p := 0
    ∃ c ∈ s.ctx? p,
    s.acts = true ∧
    p < s.dev.cores.length ∧
    let k := s.core p
    ∃ m ∈ k.queue,
    let rest := (k.queue).drop 1
    k.queue = m :: rest ∧
    k.computing = false ∧
    k.locks.plinth = false ∧
    m.slot + m.nrow < m.fmt.slots ∧
    m.vrows ≤ 64 ∧
    (k.plinth.fmt = m.fmt ∨ k.plinth.allFree = true) ∧
    (∀ i ∈ m.slots, let sl := k.plinth.slot i
        (sl.st = .free ∨ sl.kind = m.kind) ∧ (if m.first then sl.st = .free ∨ sl.st = .pre else sl.st = .accum) ∧
        (if m.first then 0 else sl.len) + m.klen ≤ 16777216) := by
  decide +kernel

-- ArrayDrain ----------------------------------------------------------------------------------------------------------------------------------------

theorem meets_ArrayDrain_1 :
    let s := draining true
    let p := 0
    let t := 1
    s.acts = true ∧
    t < 8 ∧
    (s.thread p t).st = .running ∧
    let k := s.core p
    let rest := (k.mmas).drop 1
    ∃ m ∈ k.mmas,
    k.mmas = m :: rest ∧
    m.need = 0 := by
  decide +kernel

-- TallyRecords --------------------------------------------------------------------------------------------------------------------------------------

theorem meets_TallyRecords_1 :
    let s := tallyState .done
    let p := 0
    let t := 1
    let word := 176219
    let k := s.core p
    let th := s.thread p t
    ∃ f ∈ tallyFields (th.reg (xFields word).rs1),
    let ch := k.plinth.chain f.chain
    let sl := k.plinth.slot f.slot
    s.issues p t .xtally word = true ∧
    ch.takes f.ord = true ∧
    f.slot < k.plinth.fmt.slots ∧
    sl.st = .done := by
  decide +kernel

theorem meets_TallyRecords_2 :
    let s := tallyState .accum
    let p := 0
    let t := 1
    let word := 176219
    let k := s.core p
    let th := s.thread p t
    ∃ f ∈ tallyFields (th.reg (xFields word).rs1),
    let ch := k.plinth.chain f.chain
    let sl := k.plinth.slot f.slot
    s.issues p t .xtally word = true ∧
    ch.takes f.ord = true ∧
    f.slot < k.plinth.fmt.slots ∧
    sl.st = .accum ∧
    k.mmas ≠ [] := by
  decide +kernel

theorem meets_TallyRecords_3 :
    let s := tallyWaits
    let p := 0
    let t := 1
    let word := 176219
    let k := s.core p
    let th := s.thread p t
    ∃ f ∈ tallyFields (th.reg (xFields word).rs1),
    let sl := k.plinth.slot f.slot
    ∃ c ∈ s.ctx? p,
    s.acts = true ∧
    th.st = .sleeping (.tally f.slot) ∧
    (s.work.tallying p f.slot).head? = some t ∧
    fetchAt c.img th.pc = some (word, 4) ∧
    sl.st = .done := by
  decide +kernel

-- ChainMerges ---------------------------------------------------------------------------------------------------------------------------------------

theorem meets_ChainMerges_1 :
    let s := mergeState 0
    let p := 0
    let t := 1
    let chain := 1
    s.acts = true ∧
    t < 8 ∧
    (s.thread p t).st = .running ∧
    let k := s.core p
    let ch := k.plinth.chain chain
    ∃ o ∈ ch.waiting.find? (fun x => x.ordinal == ch.merged),
    ch.isOpen = true := by
  decide +kernel

-- StatisticTransfers --------------------------------------------------------------------------------------------------------------------------------

theorem meets_StatisticTransfers_2 :
    let s := xState (xcmd 5 6 5 0) [(5, 64), (6, 0x301)]
    let p := 0
    let t := 1
    let word := 6475867
    ∃ c ∈ s.ctx? p,
    let k := s.core p
    let th := s.thread p t
    let x := xFields word
    let a := (th.reg x.rs1).toNat
    let b := th.reg x.rs2
    s.issues p t .xstin word = true ∧
    a + 12 ≤ 8192 ∧
    c.img.declared a 12 = true ∧
    fld b 16 16 = 0 ∧
    fld b 2 6 = 0 ∧
    (k.plinth.chain (fld b 0 2)).takes (fld b 8 8) = true := by
  decide +kernel

theorem meets_StatisticTransfers_3 :
    let s := closedChain
    let p := 0
    let t := 1
    let word := 189275
    ∃ c ∈ s.ctx? p,
    let k := s.core p
    let th := s.thread p t
    let x := xFields word
    let a := (th.reg x.rs1).toNat
    s.issues p t .xstrd word = true ∧
    a < 4 ∧
    x.rd % 2 = 0 ∧
    let ch := k.plinth.chain a
    ch.total ≠ 0 ∧
    ch.isOpen = false ∧
    ch.acc.length = 64 := by
  decide +kernel

-- Threads -------------------------------------------------------------------------------------------------------------------------------------------

theorem meets_Threads_1 :
    let s := xState (xsys 0 0 5 7) [(5, 100)]
    let p := 0
    let t := 1
    let word := 164859
    s.issues p t .xsetvl word = true := by
  decide +kernel

theorem meets_Threads_2 :
    let s := xState (xsys 2 0 5 7) [(5, 3)]
    let p := 0
    let t := 1
    let word := 173051
    s.issues p t .xcnt word = true := by
  decide +kernel

theorem meets_Threads_3 :
    let s := xState (xsys 7 6 5 0) [(5, 3), (6, 9)]
    let p := 0
    let t := 1
    let word := 6484091
    s.issues p t .xcset word = true := by
  decide +kernel

theorem meets_Threads_4 :
    let s := xState (xsys 3 6 5 0) [(5, 7), (6, 0)]
    let p := 0
    let t := 1
    let word := 6467707
    let k := s.core p
    let th := s.thread p t
    let x := xFields word
    let a := th.reg x.rs1
    s.issues p t .xstart word = true ∧
    fld a 0 3 < k.threads.length ∧
    (s.thread p (fld a 0 3)).st = .ended := by
  decide +kernel

theorem meets_Threads_5 :
    let s := xState (xsys 1 6 5 0) [(5, 3), (6, 4)]
    let p := 0
    let t := 1
    let word := 6459515
    s.issues p t .xwait word = true := by
  decide +kernel

theorem meets_Threads_6 :
    let s := xState (xsys 5 0 5 0) [(5, 0)]
    let p := 0
    let t := 1
    let word := 184443
    let th := s.thread p t
    let x := xFields word
    let a := th.reg x.rs1
    s.issues p t .xjoin word = true ∧
    (∀ u, u < 8 → bitOf (fld a 0 8) u = true → u ≠ t → (s.thread p u).st = .ended) := by
  decide +kernel

theorem meets_Threads_7 :
    let s := twoThreads (xState (xsys 5 0 5 0) [(5, 1)])
    let p := 0
    let t := 1
    let word := 184443
    let th := s.thread p t
    let x := xFields word
    let a := th.reg x.rs1
    let other := ∃ u, u < 8 ∧ u ≠ t ∧ (s.thread p u).st = .running
    s.issues p t .xjoin word = true ∧
    (∃ u, u < 8 ∧ bitOf (fld a 0 8) u = true ∧ u ≠ t ∧ (s.thread p u).st ≠ .ended) ∧
    other := by
  decide +kernel

theorem meets_Threads_8 :
    let s := xState (xsys 6 0 0 0) []
    let p := 0
    let t := 1
    let word := 24699
    s.issues p t .xfence word = true := by
  decide +kernel

theorem meets_Threads_9 :
    let s := twoThreads (xState (xsys 4 0 0 0) [])
    let p := 0
    let t := 0
    let word := 16507
    let k := s.core p
    let other := ∃ u, u < 8 ∧ u ≠ t ∧ (s.thread p u).st = .running
    s.issues p t .xend word = true ∧
    (other ∨ (k.queue = [] ∧ ∀ u, u < 8 → u ≠ t → (s.thread p u).st = .ended)) := by
  decide +kernel

theorem meets_Threads_10 :
    let s := asleep (.queue mmaBytes) (xState (xcmd 0 0 5 0) [])
    let p := 0
    let t := 1
    ∃ c ∈ s.ctx? p,
    let why : Sleep := (.queue mmaBytes)
    s.acts = true ∧
    t < (s.core p).threads.length ∧
    c.e.ph = .run ∧
    let th := s.thread p t
    th.st = .sleeping why ∧
    s.work.awake p t why = true ∧
    let bs := mmaBytes
    ∃ m ∈ mmaOf t bs,
    why = .queue bs ∧
    m.formatOk = true ∧
    m.rangeOk c.img = true := by
  decide +kernel

theorem meets_Threads_11 :
    let s := asleep (.counter 3 4) (xState (xsys 1 6 5 0) [])
    let p := 0
    let t := 1
    ∃ c ∈ s.ctx? p,
    let why : Sleep := (Sys2Proof.Machine.Sleep.counter 3 4)
    s.acts = true ∧
    t < (s.core p).threads.length ∧
    c.e.ph = .run ∧
    let th := s.thread p t
    th.st = .sleeping why ∧
    s.work.awake p t why = true ∧
    let next := match why with
        | .counter _ _ => some (th.pc + 4)
        | .threads _ => some (th.pc + 4)
        | .fence => some (th.pc + 4)
        | .slot _ => some th.pc
        | .chain _ => some th.pc
        | .mesh => some th.pc
        | .fu => some th.pc
        | _ => none
    ∃ pc ∈ next,
    True := by
  decide +kernel

-- CsrAccess -----------------------------------------------------------------------------------------------------------------------------------------

theorem meets_CsrAccess_1 :
    let s := xState (rv 0x73 7 2 0 0 64) []
    let p := 0
    let t := 1
    let word := 2147492851
    ∃ c ∈ s.ctx? p,
    s.issues p t .csr word = true ∧
    let f3 := bitsOf word 12 3
    let rs1 := bitsOf word 15 5
    let csr := bitsOf word 20 12
    let wr := f3 % 4 = 1 ∨ rs1 ≠ 0
    ¬ wr ∧
    csr = 0x800 := by
  decide +kernel

theorem meets_CsrAccess_2 :
    let s := xState (rv 0x73 7 2 0 0 102) []
    let p := 0
    let t := 1
    let word := 3422561267
    ∃ c ∈ s.ctx? p,
    s.issues p t .csr word = true ∧
    let f3 := bitsOf word 12 3
    let rs1 := bitsOf word 15 5
    let csr := bitsOf word 20 12
    let wr := f3 % 4 = 1 ∨ rs1 ≠ 0
    ¬ wr ∧
    csr = 0xCC0 := by
  decide +kernel

theorem meets_CsrAccess_3 :
    let s := xState (rv 0x73 7 2 0 1 102) []
    let p := 0
    let t := 1
    let word := 3423609843
    ∃ c ∈ s.ctx? p,
    s.issues p t .csr word = true ∧
    let f3 := bitsOf word 12 3
    let rs1 := bitsOf word 15 5
    let csr := bitsOf word 20 12
    let wr := f3 % 4 = 1 ∨ rs1 ≠ 0
    ¬ wr ∧
    csr = 0xCC1 := by
  decide +kernel

theorem meets_CsrAccess_4 :
    let s := xState (rv 0x73 7 2 0 2 102) []
    let p := 0
    let t := 1
    let word := 3424658419
    ∃ c ∈ s.ctx? p,
    s.issues p t .csr word = true ∧
    let f3 := bitsOf word 12 3
    let rs1 := bitsOf word 15 5
    let csr := bitsOf word 20 12
    let wr := f3 % 4 = 1 ∨ rs1 ≠ 0
    ¬ wr ∧
    csr = 0xCC2 := by
  decide +kernel

theorem meets_CsrAccess_5 :
    let s := xState (rv 0x73 7 2 0 3 102) []
    let p := 0
    let t := 1
    let word := 3425706995
    ∃ c ∈ s.ctx? p,
    s.issues p t .csr word = true ∧
    let f3 := bitsOf word 12 3
    let rs1 := bitsOf word 15 5
    let csr := bitsOf word 20 12
    let wr := f3 % 4 = 1 ∨ rs1 ≠ 0
    ¬ wr ∧
    csr = 0xCC3 := by
  decide +kernel

theorem meets_CsrAccess_6 :
    let s := xState (rv 0x73 7 2 0 4 102) []
    let p := 0
    let t := 1
    let word := 3426755571
    ∃ c ∈ s.ctx? p,
    s.issues p t .csr word = true ∧
    let f3 := bitsOf word 12 3
    let rs1 := bitsOf word 15 5
    let csr := bitsOf word 20 12
    let wr := f3 % 4 = 1 ∨ rs1 ≠ 0
    ¬ wr ∧
    csr = 0xCC4 := by
  decide +kernel

theorem meets_CsrAccess_7 :
    let s := xState (rv 0x73 7 1 5 1 64) [(5, 0xFFFFFFFF)]
    let p := 0
    let t := 1
    let word := 2148701171
    ∃ c ∈ s.ctx? p,
    s.issues p t .csr word = true ∧
    let csr := bitsOf word 20 12
    csr = 0x801 := by
  decide +kernel

theorem meets_CsrAccess_8 :
    let s := xState (rv 0x73 7 1 5 2 64) [(5, 0xFFFFFFFF)]
    let p := 0
    let t := 1
    let word := 2149749747
    ∃ c ∈ s.ctx? p,
    s.issues p t .csr word = true ∧
    let csr := bitsOf word 20 12
    csr = 0x802 := by
  decide +kernel

theorem meets_CsrAccess_9 :
    let s := xState (rv 0x73 7 1 5 3 64) [(5, 0xFFFFFFFF)]
    let p := 0
    let t := 1
    let word := 2150798323
    ∃ c ∈ s.ctx? p,
    s.issues p t .csr word = true ∧
    let csr := bitsOf word 20 12
    csr = 0x803 := by
  decide +kernel

theorem meets_CsrAccess_10 :
    let s := xState (rv 0x73 7 1 5 4 64) [(5, 0xFFFFFFFF)]
    let p := 0
    let t := 1
    let word := 2151846899
    ∃ c ∈ s.ctx? p,
    s.issues p t .csr word = true ∧
    let csr := bitsOf word 20 12
    csr = 0x804 := by
  decide +kernel

-- BaseInstructions ----------------------------------------------------------------------------------------------------------------------------------

theorem meets_BaseInstructions_1 :
    let s := xState (rv 0x37 7 0 0 0 0x12) [(5, 0xFFFFFFF6), (6, 7)]
    let p := 0
    let t := 1
    let word := 603980727
    ∃ c ∈ s.ctx? p,
    s.issues p t .base word = true ∧
    bitsOf word 0 7 = 0x37 := by
  decide +kernel

theorem meets_BaseInstructions_2 :
    let s := xState (rv 0x17 7 0 0 0 0x12) [(5, 0xFFFFFFF6), (6, 7)]
    let p := 0
    let t := 1
    let word := 603980695
    ∃ c ∈ s.ctx? p,
    s.issues p t .base word = true ∧
    bitsOf word 0 7 = 0x17 := by
  decide +kernel

theorem meets_BaseInstructions_3 :
    let s := xState (rv 0x6F 7 0 0 8 0) [(5, 0xFFFFFFF6), (6, 7)]
    let p := 0
    let t := 1
    let word := 8389615
    ∃ c ∈ s.ctx? p,
    s.issues p t .base word = true ∧
    bitsOf word 0 7 = 0x6F := by
  decide +kernel

theorem meets_BaseInstructions_4 :
    let s := xState (rv 0x67 7 0 5 8 0) [(5, 0xFFFFFFF6), (6, 7)]
    let p := 0
    let t := 1
    let word := 8553447
    ∃ c ∈ s.ctx? p,
    s.issues p t .base word = true ∧
    let f3 := bitsOf word 12 3
    bitsOf word 0 7 = 0x67 ∧
    f3 = 0 := by
  decide +kernel

theorem meets_BaseInstructions_5 :
    let s := xState (rv 0x63 8 0 5 6 0) [(5, 0xFFFFFFF6), (6, 7)]
    let p := 0
    let t := 1
    let word := 6456419
    ∃ c ∈ s.ctx? p,
    s.issues p t .base word = true ∧
    let f3 := bitsOf word 12 3
    bitsOf word 0 7 = 0x63 ∧
    f3 = 0 := by
  decide +kernel

theorem meets_BaseInstructions_6 :
    let s := xState (rv 0x63 8 1 5 6 0) [(5, 0xFFFFFFF6), (6, 7)]
    let p := 0
    let t := 1
    let word := 6460515
    ∃ c ∈ s.ctx? p,
    s.issues p t .base word = true ∧
    let f3 := bitsOf word 12 3
    bitsOf word 0 7 = 0x63 ∧
    f3 = 1 := by
  decide +kernel

theorem meets_BaseInstructions_7 :
    let s := xState (rv 0x63 8 4 5 6 0) [(5, 0xFFFFFFF6), (6, 7)]
    let p := 0
    let t := 1
    let word := 6472803
    ∃ c ∈ s.ctx? p,
    s.issues p t .base word = true ∧
    let f3 := bitsOf word 12 3
    bitsOf word 0 7 = 0x63 ∧
    f3 = 4 := by
  decide +kernel

theorem meets_BaseInstructions_8 :
    let s := xState (rv 0x63 8 5 5 6 0) [(5, 0xFFFFFFF6), (6, 7)]
    let p := 0
    let t := 1
    let word := 6476899
    ∃ c ∈ s.ctx? p,
    s.issues p t .base word = true ∧
    let f3 := bitsOf word 12 3
    bitsOf word 0 7 = 0x63 ∧
    f3 = 5 := by
  decide +kernel

theorem meets_BaseInstructions_9 :
    let s := xState (rv 0x63 8 6 5 6 0) [(5, 0xFFFFFFF6), (6, 7)]
    let p := 0
    let t := 1
    let word := 6480995
    ∃ c ∈ s.ctx? p,
    s.issues p t .base word = true ∧
    let f3 := bitsOf word 12 3
    bitsOf word 0 7 = 0x63 ∧
    f3 = 6 := by
  decide +kernel

theorem meets_BaseInstructions_10 :
    let s := xState (rv 0x63 8 7 5 6 0) [(5, 0xFFFFFFF6), (6, 7)]
    let p := 0
    let t := 1
    let word := 6485091
    ∃ c ∈ s.ctx? p,
    s.issues p t .base word = true ∧
    let f3 := bitsOf word 12 3
    bitsOf word 0 7 = 0x63 ∧
    f3 = 7 := by
  decide +kernel

theorem meets_BaseInstructions_11 :
    let s := xState (rv 0x03 7 0 5 4 0) [(5, 0)]
    let p := 0
    let t := 1
    let word := 4359043
    ∃ c ∈ s.ctx? p,
    s.issues p t .base word = true ∧
    let k := s.core p
    let th := s.thread p t
    let f3 := bitsOf word 12 3
    let a := th.reg (bitsOf word 15 5)
    bitsOf word 0 7 = 0x03 ∧
    let addr := (a + immI word).toNat
    ∃ bs ∈ dmem c.img k.scratch addr (2 ^ (f3 % 4)),
    let from_ := fun n => addr % n = 0 ∧ dmem c.img k.scratch addr n = some bs
    f3 = 0 ∧
    from_ 1 := by
  decide +kernel

theorem meets_BaseInstructions_12 :
    let s := xState (rv 0x03 7 1 5 4 0) [(5, 0)]
    let p := 0
    let t := 1
    let word := 4363139
    ∃ c ∈ s.ctx? p,
    s.issues p t .base word = true ∧
    let k := s.core p
    let th := s.thread p t
    let f3 := bitsOf word 12 3
    let a := th.reg (bitsOf word 15 5)
    bitsOf word 0 7 = 0x03 ∧
    let addr := (a + immI word).toNat
    ∃ bs ∈ dmem c.img k.scratch addr (2 ^ (f3 % 4)),
    let from_ := fun n => addr % n = 0 ∧ dmem c.img k.scratch addr n = some bs
    f3 = 1 ∧
    from_ 2 := by
  decide +kernel

theorem meets_BaseInstructions_13 :
    let s := xState (rv 0x03 7 2 5 4 0) [(5, 0)]
    let p := 0
    let t := 1
    let word := 4367235
    ∃ c ∈ s.ctx? p,
    s.issues p t .base word = true ∧
    let k := s.core p
    let th := s.thread p t
    let f3 := bitsOf word 12 3
    let a := th.reg (bitsOf word 15 5)
    bitsOf word 0 7 = 0x03 ∧
    let addr := (a + immI word).toNat
    ∃ bs ∈ dmem c.img k.scratch addr (2 ^ (f3 % 4)),
    let from_ := fun n => addr % n = 0 ∧ dmem c.img k.scratch addr n = some bs
    f3 = 2 ∧
    from_ 4 := by
  decide +kernel

theorem meets_BaseInstructions_14 :
    let s := xState (rv 0x03 7 4 5 4 0) [(5, 0)]
    let p := 0
    let t := 1
    let word := 4375427
    ∃ c ∈ s.ctx? p,
    s.issues p t .base word = true ∧
    let k := s.core p
    let th := s.thread p t
    let f3 := bitsOf word 12 3
    let a := th.reg (bitsOf word 15 5)
    bitsOf word 0 7 = 0x03 ∧
    let addr := (a + immI word).toNat
    ∃ bs ∈ dmem c.img k.scratch addr (2 ^ (f3 % 4)),
    let from_ := fun n => addr % n = 0 ∧ dmem c.img k.scratch addr n = some bs
    f3 = 4 ∧
    from_ 1 := by
  decide +kernel

theorem meets_BaseInstructions_15 :
    let s := xState (rv 0x03 7 5 5 4 0) [(5, 0)]
    let p := 0
    let t := 1
    let word := 4379523
    ∃ c ∈ s.ctx? p,
    s.issues p t .base word = true ∧
    let k := s.core p
    let th := s.thread p t
    let f3 := bitsOf word 12 3
    let a := th.reg (bitsOf word 15 5)
    bitsOf word 0 7 = 0x03 ∧
    let addr := (a + immI word).toNat
    ∃ bs ∈ dmem c.img k.scratch addr (2 ^ (f3 % 4)),
    let from_ := fun n => addr % n = 0 ∧ dmem c.img k.scratch addr n = some bs
    f3 = 5 ∧
    from_ 2 := by
  decide +kernel

theorem meets_BaseInstructions_16 :
    let s := xState (rv 0x23 4 0 5 6 0) [(5, 12), (6, 0x89ABCDEF)]
    let p := 0
    let t := 1
    let word := 6455843
    ∃ c ∈ s.ctx? p,
    s.issues p t .base word = true ∧
    let th := s.thread p t
    let f3 := bitsOf word 12 3
    let a := th.reg (bitsOf word 15 5)
    bitsOf word 0 7 = 0x23 ∧
    f3 < 3 ∧
    let addr := (a + immS word).toNat
    let base := c.img.consts.length
    addr % 2 ^ f3 = 0 ∧
    base ≤ addr ∧
    addr + 2 ^ f3 ≤ base + c.img.scratch := by
  decide +kernel

theorem meets_BaseInstructions_17 :
    let s := xState (rv 0x13 7 0 5 3 0) [(5, 0xFFFFFFF6), (6, 7)]
    let p := 0
    let t := 1
    let word := 3310483
    ∃ c ∈ s.ctx? p,
    s.issues p t .base word = true ∧
    let f3 := bitsOf word 12 3
    let f7 := bitsOf word 25 7
    bitsOf word 0 7 = 0x13 ∧
    (f3 = 1 → f7 = 0) ∧
    (f3 = 5 → f7 = 0 ∨ f7 = 0x20) := by
  decide +kernel

theorem meets_BaseInstructions_18 :
    let s := xState (rv 0x33 7 0 5 6 0) [(5, 0xFFFFFFF6), (6, 7)]
    let p := 0
    let t := 1
    let word := 6456243
    ∃ c ∈ s.ctx? p,
    s.issues p t .base word = true ∧
    let f7 := bitsOf word 25 7
    bitsOf word 0 7 = 0x33 ∧
    f7 = 0 := by
  decide +kernel

theorem meets_BaseInstructions_19 :
    let s := xState (rv 0x33 7 0 5 6 0x20) [(5, 0xFFFFFFF6), (6, 7)]
    let p := 0
    let t := 1
    let word := 1080198067
    ∃ c ∈ s.ctx? p,
    s.issues p t .base word = true ∧
    let f3 := bitsOf word 12 3
    let f7 := bitsOf word 25 7
    bitsOf word 0 7 = 0x33 ∧
    f7 = 0x20 ∧
    (f3 = 0 ∨ f3 = 5) := by
  decide +kernel

theorem meets_BaseInstructions_20 :
    let s := xState (rv 0x33 7 0 5 6 1) [(5, 0xFFFFFFF6), (6, 7)]
    let p := 0
    let t := 1
    let word := 40010675
    ∃ c ∈ s.ctx? p,
    s.issues p t .base word = true ∧
    let f3 := bitsOf word 12 3
    let f7 := bitsOf word 25 7
    bitsOf word 0 7 = 0x33 ∧
    f7 = 1 ∧
    f3 = 0 := by
  decide +kernel

theorem meets_BaseInstructions_21 :
    let s := xState (rv 0x33 7 1 5 6 1) [(5, 0xFFFFFFF6), (6, 7)]
    let p := 0
    let t := 1
    let word := 40014771
    ∃ c ∈ s.ctx? p,
    s.issues p t .base word = true ∧
    let f3 := bitsOf word 12 3
    let f7 := bitsOf word 25 7
    bitsOf word 0 7 = 0x33 ∧
    f7 = 1 ∧
    f3 = 1 := by
  decide +kernel

theorem meets_BaseInstructions_22 :
    let s := xState (rv 0x33 7 2 5 6 1) [(5, 0xFFFFFFF6), (6, 7)]
    let p := 0
    let t := 1
    let word := 40018867
    ∃ c ∈ s.ctx? p,
    s.issues p t .base word = true ∧
    let f3 := bitsOf word 12 3
    let f7 := bitsOf word 25 7
    bitsOf word 0 7 = 0x33 ∧
    f7 = 1 ∧
    f3 = 2 := by
  decide +kernel

theorem meets_BaseInstructions_23 :
    let s := xState (rv 0x33 7 3 5 6 1) [(5, 0xFFFFFFF6), (6, 7)]
    let p := 0
    let t := 1
    let word := 40022963
    ∃ c ∈ s.ctx? p,
    s.issues p t .base word = true ∧
    let f3 := bitsOf word 12 3
    let f7 := bitsOf word 25 7
    bitsOf word 0 7 = 0x33 ∧
    f7 = 1 ∧
    f3 = 3 := by
  decide +kernel

theorem meets_BaseInstructions_24 :
    let s := xState (rv 0x33 7 4 5 6 1) [(5, 0xFFFFFFF6), (6, 7)]
    let p := 0
    let t := 1
    let word := 40027059
    ∃ c ∈ s.ctx? p,
    s.issues p t .base word = true ∧
    let f3 := bitsOf word 12 3
    let f7 := bitsOf word 25 7
    bitsOf word 0 7 = 0x33 ∧
    f7 = 1 ∧
    f3 = 4 := by
  decide +kernel

theorem meets_BaseInstructions_25 :
    let s := xState (rv 0x33 7 5 5 6 1) [(5, 0xFFFFFFF6), (6, 7)]
    let p := 0
    let t := 1
    let word := 40031155
    ∃ c ∈ s.ctx? p,
    s.issues p t .base word = true ∧
    let f3 := bitsOf word 12 3
    let f7 := bitsOf word 25 7
    bitsOf word 0 7 = 0x33 ∧
    f7 = 1 ∧
    f3 = 5 := by
  decide +kernel

theorem meets_BaseInstructions_26 :
    let s := xState (rv 0x33 7 6 5 6 1) [(5, 0xFFFFFFF6), (6, 7)]
    let p := 0
    let t := 1
    let word := 40035251
    ∃ c ∈ s.ctx? p,
    s.issues p t .base word = true ∧
    let f3 := bitsOf word 12 3
    let f7 := bitsOf word 25 7
    bitsOf word 0 7 = 0x33 ∧
    f7 = 1 ∧
    f3 = 6 := by
  decide +kernel

theorem meets_BaseInstructions_27 :
    let s := xState (rv 0x33 7 7 5 6 1) [(5, 0xFFFFFFF6), (6, 7)]
    let p := 0
    let t := 1
    let word := 40039347
    ∃ c ∈ s.ctx? p,
    s.issues p t .base word = true ∧
    let f3 := bitsOf word 12 3
    let f7 := bitsOf word 25 7
    bitsOf word 0 7 = 0x33 ∧
    f7 = 1 ∧
    f3 = 7 := by
  decide +kernel

theorem meets_BaseInstructions_28 :
    let s := xState (rv 0x0F 0 0 0 0 0) [(5, 0xFFFFFFF6), (6, 7)]
    let p := 0
    let t := 1
    let word := 15
    ∃ c ∈ s.ctx? p,
    s.issues p t .base word = true ∧
    let f3 := bitsOf word 12 3
    bitsOf word 0 7 = 0x0F ∧
    f3 = 0 := by
  decide +kernel

-- PointingCommands ----------------------------------------------------------------------------------------------------------------------------------

theorem meets_PointingCommands_1 :
    let s := asleep (.engine 1 fetchCmd) (xptState fetchCmd)
    let p := 0
    let t := 1
    ∃ c ∈ s.ctx? p,
    ∃ b ∈ (match (s.thread p t).st with | .sleeping (.engine _ b) => some b | _ => none : Option (List Byte)),
    let th := s.thread p t
    let x := ptCmdOf (ptOpc b == 3) b
    let port := ptPort b
    let room := x.dest = 0 ∨ s.work.chainRoom = true
    s.acts = true ∧
    t < 8 ∧
    c.e.ph = .run ∧
    th.st = .sleeping (.engine port b) ∧
    s.work.awake p t (.engine port b) = true ∧
    x.declaredOk c.img = true ∧
    x.rangeOk c.e.desc = true ∧
    ∃ n ∈ s.work.freeStream port,
    ptOpc b = 2 ∧
    fetchFormatOk c b x = true ∧
    room := by
  decide +kernel

theorem meets_PointingCommands_2 :
    let s := asleep (.engine 1 storeCmd) (xptState storeCmd)
    let p := 0
    let t := 1
    ∃ c ∈ s.ctx? p,
    ∃ b ∈ (match (s.thread p t).st with | .sleeping (.engine _ b) => some b | _ => none : Option (List Byte)),
    let th := s.thread p t
    let x := ptCmdOf (ptOpc b == 3) b
    let port := ptPort b
    s.acts = true ∧
    t < 8 ∧
    c.e.ph = .run ∧
    th.st = .sleeping (.engine port b) ∧
    s.work.awake p t (.engine port b) = true ∧
    x.declaredOk c.img = true ∧
    x.rangeOk c.e.desc = true ∧
    ∃ n ∈ s.work.freeStream port,
    ptOpc b = 3 ∧
    storeFormatOk c b x = true ∧
    c.cur.checker = false := by
  decide +kernel

theorem meets_PointingCommands_3 :
    let s := xptState fetchCmd
    let p := 0
    let t := 1
    let word := 192603
    ∃ c ∈ s.ctx? p,
    let k := s.core p
    let th := s.thread p t
    let a := (th.reg (xFields word).rs1).toNat
    ∃ b ∈ dmem c.img k.scratch a 32,
    let x := ptCmdOf (ptOpc b == 3) b
    let port := ptPort b
    let room := x.dest = 0 ∨ s.work.chainRoom = true
    s.issues p t .xpt word = true ∧
    a % 32 = 0 ∧
    ptOpc b = 2 ∧
    fetchFormatOk c b x = true ∧
    x.rangeOk c.e.desc = true ∧
    x.declaredOk c.img = true ∧
    ∃ n ∈ s.work.freeStream port,
    room := by
  decide +kernel

theorem meets_PointingCommands_4 :
    let s := engineFull (xptState fetchCmd)
    let p := 0
    let t := 1
    let word := 192603
    ∃ c ∈ s.ctx? p,
    let k := s.core p
    let th := s.thread p t
    let a := (th.reg (xFields word).rs1).toNat
    ∃ b ∈ dmem c.img k.scratch a 32,
    let x := ptCmdOf (ptOpc b == 3) b
    let port := ptPort b
    let room := x.dest = 0 ∨ s.work.chainRoom = true
    s.issues p t .xpt word = true ∧
    a % 32 = 0 ∧
    ptOpc b = 2 ∧
    fetchFormatOk c b x = true ∧
    x.rangeOk c.e.desc = true ∧
    x.declaredOk c.img = true ∧
    (¬ room ∨ s.work.freeStream port = none) := by
  decide +kernel

theorem meets_PointingCommands_5 :
    let s := asChecker (xptState storeCmd)
    let p := 0
    let t := 1
    let word := 192603
    ∃ c ∈ s.ctx? p,
    let k := s.core p
    let th := s.thread p t
    let a := (th.reg (xFields word).rs1).toNat
    ∃ b ∈ dmem c.img k.scratch a 32,
    let x := ptCmdOf (ptOpc b == 3) b
    s.issues p t .xpt word = true ∧
    a % 32 = 0 ∧
    ptOpc b = 3 ∧
    storeFormatOk c b x = true ∧
    x.rangeOk c.e.desc = true ∧
    x.declaredOk c.img = true ∧
    c.cur.checker = true := by
  decide +kernel

theorem meets_PointingCommands_6 :
    let s := xptState storeCmd
    let p := 0
    let t := 1
    let word := 192603
    ∃ c ∈ s.ctx? p,
    let k := s.core p
    let th := s.thread p t
    let a := (th.reg (xFields word).rs1).toNat
    ∃ b ∈ dmem c.img k.scratch a 32,
    let x := ptCmdOf (ptOpc b == 3) b
    let port := ptPort b
    s.issues p t .xpt word = true ∧
    a % 32 = 0 ∧
    ptOpc b = 3 ∧
    storeFormatOk c b x = true ∧
    x.rangeOk c.e.desc = true ∧
    x.declaredOk c.img = true ∧
    c.cur.checker = false ∧
    ∃ n ∈ s.work.freeStream port,
    True := by
  decide +kernel

theorem meets_PointingCommands_7 :
    let s := engineFull (xptState storeCmd)
    let p := 0
    let t := 1
    let word := 192603
    ∃ c ∈ s.ctx? p,
    let k := s.core p
    let th := s.thread p t
    let a := (th.reg (xFields word).rs1).toNat
    ∃ b ∈ dmem c.img k.scratch a 32,
    let x := ptCmdOf (ptOpc b == 3) b
    let port := ptPort b
    s.issues p t .xpt word = true ∧
    a % 32 = 0 ∧
    ptOpc b = 3 ∧
    storeFormatOk c b x = true ∧
    x.rangeOk c.e.desc = true ∧
    x.declaredOk c.img = true ∧
    c.cur.checker = false ∧
    s.work.freeStream port = none := by
  decide +kernel

theorem meets_PointingCommands_9 :
    let s := xptState rfreeCmd
    let p := 0
    let t := 1
    let word := 192603
    ∃ c ∈ s.ctx? p,
    let k := s.core p
    let th := s.thread p t
    let a := (th.reg (xFields word).rs1).toNat
    ∃ b ∈ dmem c.img k.scratch a 32,
    let reg := bitsOf (word32 b 0) 12 4
    let count := bitsOf (word32 b 4) 0 14
    s.issues p t .xpt word = true ∧
    a % 32 = 0 ∧
    ptOpc b = 6 ∧
    onlyFields b rfreeMasks = true ∧
    (c.img.region reg).valid = true ∧
    tabGet 0 k.land.tails reg + count ≤ tabGet 0 k.land.heads reg := by
  decide +kernel

theorem meets_PointingCommands_10 :
    let s := xptState (windowCmd 7)
    let p := 0
    let t := 1
    let word := 192603
    ∃ c ∈ s.ctx? p,
    let k := s.core p
    let th := s.thread p t
    let a := (th.reg (xFields word).rs1).toNat
    ∃ b ∈ dmem c.img k.scratch a 32,
    let win := bitsOf (word32 b 0) 0 5
    s.issues p t .xpt word = true ∧
    a % 32 = 0 ∧
    onlyFields b windowMasks = true ∧
    (nth Window.init c.img.windows win).valid = true ∧
    ptOpc b = 7 := by
  decide +kernel

theorem meets_PointingCommands_11 :
    let s := xptState (windowCmd 8)
    let p := 0
    let t := 1
    let word := 192603
    ∃ c ∈ s.ctx? p,
    let k := s.core p
    let th := s.thread p t
    let a := (th.reg (xFields word).rs1).toNat
    ∃ b ∈ dmem c.img k.scratch a 32,
    let win := bitsOf (word32 b 0) 0 5
    s.issues p t .xpt word = true ∧
    a % 32 = 0 ∧
    onlyFields b windowMasks = true ∧
    (nth Window.init c.img.windows win).valid = true ∧
    ptOpc b = 8 := by
  decide +kernel

-- StreamLanding -------------------------------------------------------------------------------------------------------------------------------------

theorem meets_StreamLanding_1 :
    let s := layState
    let port := 1
    let slot := 0
    ∃ x ∈ s.work.stream? port slot,
    ∃ z ∈ s.work.stepOf x,
    let e := z.1
    let m := z.2
    s.acts = true ∧
    x.cmd.lay = true ∧
    x.passes < x.cmd.passCount ∧
    x.passReady e.desc x.passes = true := by
  decide +kernel

theorem meets_StreamLanding_3 :
    let s := sprueState
    let port := 1
    let slot := 0
    let p := 0
    ∃ x ∈ s.work.stream? port slot,
    ∃ z ∈ s.work.stepOf x,
    let e := z.1
    let m := z.2
    s.acts = true ∧
    ∃ z ∈ x.linearLine e.desc x.landed,
    let bytes := z.1
    let pois := z.2
    ∃ y ∈ (s.core p).mmas,
    let ys := ((s.core p).mmas).drop 1
    s.work.chainHead = some x ∧
    x.cmd.dest = 2 ∧
    x.cmd.cmp = 0 ∧
    x.cmd.items ≤ x.fed ∧
    (s.dev.pt.streams.map fun y => (y.port, y.slot)).Nodup ∧
    p = nth 0 (if x.checker then e.checker else e.cores) (x.landed / max 1 x.cmd.tlines % max 1 m.slots.length) ∧
    (s.core p).mmas = y :: ys ∧
    1 < y.need := by
  decide +kernel

-- MeshTraffic ---------------------------------------------------------------------------------------------------------------------------------------

theorem meets_MeshTraffic_1 :
    let s := remoteState 7
    let p := 1
    (s.acts = true ∧
    p < s.dev.cores.length ∧
    let k := s.core p
    let due := fun (y : RStore) => y.toCore == p && !k.holdsBack y
    let without := { s.dev.mesh with stores := dropFirst (fun y => y.toCore == p) s.dev.mesh.stores }
    let next := s.dev.mesh.stores.find? fun y => y.toCore == p
    ∃ x ∈ (s.dev.mesh.early.find? due).orElse fun _ => next,
    let m := if (s.dev.mesh.early.find? due).isSome then { s.dev.mesh with early := dropFirst due s.dev.mesh.early } else without
    (s.dev.mesh.early.find? due = some x ∧
        m = { s.dev.mesh with early := dropFirst due s.dev.mesh.early } ∨ s.dev.mesh.early.find? due = none ∧ next = some x ∧
        k.holdsBack x = false ∧ m = without) ∧
    (match storeVerdict k x with
    | .ok v => decide (
    v.mem = 0 ∧
    (∀ b ∈ x.bytes, k.lineLocked 1 (v.base + b.1 / 64) = false))
    | _ => false) = true) ∧
    (let q := 0
    let kind := 1
    let src := 1
    let dst := 1
    s.acts = true ∧
    let onItsWay := meshLink p q = true ∧ flitOnWay kind src dst p q = true
    (s.work.flitOwner kind src dst = none ∨ ¬ onItsWay)) := by
  decide +kernel

theorem meets_MeshTraffic_2 :
    let s := nowhereState
    let p := 1
    s.acts = true ∧
    p < s.dev.cores.length ∧
    let k := s.core p
    let due := fun (y : RStore) => y.toCore == p && !k.holdsBack y
    let without := { s.dev.mesh with stores := dropFirst (fun y => y.toCore == p) s.dev.mesh.stores }
    let next := s.dev.mesh.stores.find? fun y => y.toCore == p
    ∃ x ∈ (s.dev.mesh.early.find? due).orElse fun _ => next,
    let m := if (s.dev.mesh.early.find? due).isSome then { s.dev.mesh with early := dropFirst due s.dev.mesh.early } else without
    (s.dev.mesh.early.find? due = some x ∧
        m = { s.dev.mesh with early := dropFirst due s.dev.mesh.early } ∨ s.dev.mesh.early.find? due = none ∧ next = some x ∧
        k.holdsBack x = false ∧ m = without) ∧
    (match storeVerdict k x with
    | .error code => decide (
    code ≠ 0x2107)
    | _ => false) = true := by
  decide +kernel

theorem meets_MeshTraffic_4 :
    let s := notBegun (remoteState 7)
    let p := 1
    s.acts = true ∧
    p < s.dev.cores.length ∧
    let k := s.core p
    let due := fun (y : RStore) => y.toCore == p && !k.holdsBack y
    let next := s.dev.mesh.stores.find? fun y => y.toCore == p
    ∃ x ∈ next,
    s.dev.mesh.early.find? due = none ∧
    k.holdsBack x = true := by
  decide +kernel

theorem meets_MeshTraffic_5 :
    let s := ackState 0
    let p := 0
    s.acts = true ∧
    p < s.dev.cores.length ∧
    ∃ a ∈ s.dev.mesh.acks.find? (fun y => y.core == p),
    a.code = 0 := by
  decide +kernel

theorem meets_MeshTraffic_6 :
    let s := remoteState 7
    let p := 1
    let q := 0
    let kind := 1
    let src := 1
    let dst := 0
    let ok := true
    let replayOk := true
    s.acts = true ∧
    let onItsWay := meshLink p q = true ∧ flitOnWay kind src dst p q = true
    let armed := (s.work.takeArmed 5 p).isSome = true
    s.work.flitOwner kind src dst ≠ none ∧
    onItsWay ∧
    ¬ armed ∧
    (ok = true ∨ replayOk = true) := by
  decide +kernel

theorem meets_MeshTraffic_7 :
    let s := remoteState 7
    let p := 1
    let q := 0
    let kind := 1
    let src := 1
    let dst := 0
    let ok := false
    let replayOk := false
    s.acts = true ∧
    let onItsWay := meshLink p q = true ∧ flitOnWay kind src dst p q = true
    let armed := (s.work.takeArmed 5 p).isSome = true
    let r := 2
    let seq := 3
    ∃ e ∈ s.work.exec? r seq,
    s.work.flitOwner kind src dst = some (r, seq) ∧
    onItsWay ∧
    (armed ∨ ok = false ∧ replayOk = false) ∧
    s.log.react.length < 16 ∧
    e.ph = .run := by
  decide +kernel

-- StepEnds ------------------------------------------------------------------------------------------------------------------------------------------

theorem meets_StepEnds_1 :
    let s := asleep (.counter 3 5) (xState (xsys 1 6 5 0) [])
    let p := 0
    let t := 1
    ∃ c ∈ s.ctx? p,
    s.acts = true ∧
    p < s.dev.cores.length ∧
    c.e.ph = .run ∧
    let n := 3
    let target := 5
    s.work.stillWaits p t = some (.counter n target) := by
  decide +kernel

theorem meets_StepEnds_2 :
    let s := ackState 0x2107
    let p := 0
    ∃ c ∈ s.ctx? p,
    s.acts = true ∧
    p < s.dev.cores.length ∧
    c.e.ph = .run ∧
    ∃ a ∈ s.dev.mesh.acks.find? (fun y => y.core == p),
    a.code ≠ 0 ∧
    a.ring = c.cur.ring ∧
    a.seq = c.cur.seq := by
  decide +kernel

theorem meets_StepEnds_3 :
    let s := ackState 0
    let p := 1
    ∃ c ∈ s.ctx? p,
    s.acts = true ∧
    p < s.dev.cores.length ∧
    c.e.ph = .run ∧
    c.cur.begun = true ∧
    c.cur.ended = false ∧
    (∀ u, u < 8 → (s.thread p u).st = .ended) ∧
    s.work.coreQuiet p = true ∧
    ((s.core p).plinth.chains.all fun x => !x.2.isOpen) = true ∧
    ((s.core p).plinth.slots.all fun x => x.2.st != .accum) = true ∧
    let k := s.core p
    k.cal.pend = none := by
  decide +kernel

theorem meets_StepEnds_4 :
    let s := Tests.core 1 (fun k => { k with cal := { k.cal with trim := 3, pend := some 5 } }) (running [0x13] [])
    let p := 1
    ∃ c ∈ s.ctx? p,
    s.acts = true ∧
    p < s.dev.cores.length ∧
    c.e.ph = .run ∧
    c.cur.begun = true ∧
    c.cur.ended = false ∧
    (∀ u, u < 8 → (s.thread p u).st = .ended) ∧
    s.work.coreQuiet p = true ∧
    ((s.core p).plinth.chains.all fun x => !x.2.isOpen) = true ∧
    ((s.core p).plinth.slots.all fun x => x.2.st != .accum) = true ∧
    let k := s.core p
    ∃ t ∈ k.cal.pend,
    k.lost = false := by
  decide +kernel

-- CalipersAndTrims ----------------------------------------------------------------------------------------------------------------------------------

theorem meets_CalipersAndTrims_1 :
    let s := comparing 3 none 0
    (let p := 2
    let maquette := true
    s.acts = true ∧
    s.log.safe = false ∧
    p < s.dev.cores.length ∧
    p ∈ s.dev.inService ∧
    s.dev.cal.busy = false ∧
    let k := s.core p
    k.computes maquette = false) ∧
    (s.acts = true ∧
    let n := s.tb.now.toNat / 1000000
    s.dev.cal.window < n ∧
    s.dev.cal.taint = true) := by
  decide +kernel

theorem meets_CalipersAndTrims_2 :
    let s := maquetteOn (comparing 3 none 0)
    let p := 2
    let maquette := true
    let isMatch := true
    let confirmed := true
    s.acts = true ∧
    s.log.safe = false ∧
    p < s.dev.cores.length ∧
    p ∈ s.dev.inService ∧
    s.dev.cal.busy = false ∧
    let k := s.core p
    k.computes maquette = true ∧
    (s.dev.saf.armed.all fun a => !((a.1 == 3 || a.1 == 4) && a.2.1 == p)) = true ∧
    let probe := k.cal.compares % 16 == 15
    let guardMiss := isMatch = false ∧ probe = false
    let asks := guardMiss ∨ k.cal.confirmAll = true
    ¬ guardMiss ∧
    (asks → confirmed = true) := by
  decide +kernel

theorem meets_CalipersAndTrims_3 :
    let s := maquetteOn (comparing 3 (some 5) 3)
    let p := 2
    let maquette := true
    let isMatch := false
    let confirmed := true
    s.acts = true ∧
    s.log.safe = false ∧
    p < s.dev.cores.length ∧
    p ∈ s.dev.inService ∧
    s.dev.cal.busy = false ∧
    let k := s.core p
    k.computes maquette = true ∧
    (s.dev.saf.armed.all fun a => !((a.1 == 3 || a.1 == 4) && a.2.1 == p)) = true ∧
    let probe := k.cal.compares % 16 == 15
    let guardMiss := isMatch = false ∧ probe = false
    guardMiss ∧
    confirmed = true ∧
    (∃ t, k.cal.pend = some t ∧ k.cal.trim ≤ t) := by
  decide +kernel

theorem meets_CalipersAndTrims_4 :
    let s := maquetteOn (comparing 3 none 0)
    let p := 2
    let maquette := true
    let isMatch := false
    let confirmed := true
    s.acts = true ∧
    s.log.safe = false ∧
    p < s.dev.cores.length ∧
    p ∈ s.dev.inService ∧
    s.dev.cal.busy = false ∧
    let k := s.core p
    k.computes maquette = true ∧
    (s.dev.saf.armed.all fun a => !((a.1 == 3 || a.1 == 4) && a.2.1 == p)) = true ∧
    let probe := k.cal.compares % 16 == 15
    let guardMiss := isMatch = false ∧ probe = false
    guardMiss ∧
    confirmed = true ∧
    (∀ t, k.cal.pend = some t → t < k.cal.trim) := by
  decide +kernel

theorem meets_CalipersAndTrims_5 :
    let s := maquetteOn (comparing 3 none 0)
    let p := 2
    let maquette := true
    let isMatch := false
    let confirmed := false
    s.acts = true ∧
    s.log.safe = false ∧
    p < s.dev.cores.length ∧
    p ∈ s.dev.inService ∧
    s.dev.cal.busy = false ∧
    let k := s.core p
    k.computes maquette = true ∧
    (s.dev.saf.armed.all fun a => !((a.1 == 3 || a.1 == 4) && a.2.1 == p)) = true ∧
    let probe := k.cal.compares % 16 == 15
    let guardMiss := isMatch = false ∧ probe = false
    let asks := guardMiss ∨ k.cal.confirmAll = true
    asks ∧
    confirmed = false ∧
    maquette = true := by
  decide +kernel

theorem meets_CalipersAndTrims_6 :
    let s := stepComputes fun c => { c with compares := 3 }
    let p := 0
    let maquette := false
    let isMatch := false
    let confirmed := false
    s.acts = true ∧
    s.log.safe = false ∧
    p < s.dev.cores.length ∧
    p ∈ s.dev.inService ∧
    s.dev.cal.busy = false ∧
    let k := s.core p
    k.computes maquette = true ∧
    (s.dev.saf.armed.all fun a => !((a.1 == 3 || a.1 == 4) && a.2.1 == p)) = true ∧
    let probe := k.cal.compares % 16 == 15
    let guardMiss := isMatch = false ∧ probe = false
    let asks := guardMiss ∨ k.cal.confirmAll = true
    ∃ c ∈ k.cur,
    ∃ e ∈ s.work.exec? c.ring c.seq,
    asks ∧
    confirmed = false ∧
    maquette = false ∧
    e.ph = .run := by
  decide +kernel

theorem meets_CalipersAndTrims_7 :
    let s := probed
    let p := 2
    s.acts = true ∧
    p < s.dev.cores.length ∧
    p ∈ s.dev.inService ∧
    4096 ≤ (s.core p).cal.probes ∧
    (s.core p).cal.trim ≠ 0 ∧
    (s.core p).cal.pend = none := by
  decide +kernel

theorem meets_CalipersAndTrims_8 :
    let s := trimming
    s.acts = true ∧
    s.dev.cal.busy = true := by
  decide +kernel

theorem meets_CalipersAndTrims_9 :
    let s := dev (fun d => { d with cal := { d.cal with window := 10000 } }) ready
    s.acts = true ∧
    let n := s.tb.now.toNat / 1000000
    n ≤ s.dev.cal.window := by
  decide +kernel

theorem meets_CalipersAndTrims_10 :
    let s := rateFloor
    s.acts = true ∧
    let n := s.tb.now.toNat / 1000000
    s.dev.cal.window < n ∧
    s.dev.cal.taint = false := by
  decide +kernel

-- TimebaseSamples -----------------------------------------------------------------------------------------------------------------------------------

theorem meets_TimebaseSamples_1 :
    let s := ready
    let ns := 10000000000
    s.acts = true ∧
    ns < 2 ^ 64 ∧
    s.tb.now.toNat ≤ ns := by
  decide +kernel

theorem meets_TimebaseSamples_2 :
    let s := held
    let ns := 9999999999
    s.acts = true ∧
    ns < 2 ^ 64 ∧
    ns < s.tb.now.toNat ∧
    s.tb.held = true := by
  decide +kernel

theorem meets_TimebaseSamples_3 :
    let s := ready
    let ns := 5
    s.acts = true ∧
    ns < 2 ^ 64 ∧
    ns < s.tb.now.toNat ∧
    s.tb.held = false := by
  decide +kernel

theorem meets_TimebaseSamples_4 :
    let s := noTime
    let ns := 0
    s.acts = true ∧
    ns < 2 ^ 64 ∧
    s.tb.valid = false ∧
    s.tb.invalid = false ∧
    s.log.safe = false ∧
    (∃ r, r < 64 ∧ (bit (s.dev.cfgW (0x1008 + 32 * r)) 31 = true ∨ bit (s.dev.cfgW (0x2008 + 16 * r)) 31 = true)) := by
  decide +kernel

-- WatchdogsAndMaquettes -----------------------------------------------------------------------------------------------------------------------------

theorem meets_WatchdogsAndMaquettes_1 :
    let s := ready
    (let unit := 0
    let p := 0
    s.acts = true ∧
    s.log.safe = false ∧
    p < s.dev.cores.length ∧
    knownUnit unit = true ∧
    (unit < 8 → p ∈ s.dev.inService) ∧
    (s.dev.saf.armed.all fun a => a != (7, p, unit)) = true) ∧
    (let p := 0
    s.acts = true ∧
    s.log.safe = false ∧
    p < s.dev.cores.length ∧
    s.dev.boot.state = 6) := by
  decide +kernel

theorem meets_WatchdogsAndMaquettes_2 :
    let s := maquette false
    let p := 2
    s.acts = true ∧
    s.log.safe = false ∧
    p < s.dev.cores.length ∧
    let k := s.core p
    k.mq.running = true ∧
    (k.mq.forced = false) ∧
    ((s.dev.saf.armed.all fun a => !(a.1 == 6 && a.2.1 == p)) = true) := by
  decide +kernel

theorem meets_WatchdogsAndMaquettes_3 :
    let s := retesting false
    let p := 2
    s.acts = true ∧
    s.log.safe = false ∧
    p < s.dev.cores.length ∧
    let k := s.core p
    let n := 3
    let inj := false
    k.mq.retest = some (n, inj) := by
  decide +kernel

-- SafetyReactions -----------------------------------------------------------------------------------------------------------------------------------

theorem meets_SafetyReactions_1 :
    let s := retesting false
    let p := 2
    s.acts = true ∧
    p < s.dev.cores.length ∧
    let k := s.core p
    let n := 3
    k.mq.retest = some (n, false) := by
  decide +kernel

theorem meets_SafetyReactions_2 :
    let s := Tests.core 2 (fun k => { k with mq := { k.mq with retest := some (3, false) } }) (reacts 0x8101 0 [])
    let p := 0
    s.acts = true ∧
    p < s.dev.cores.length ∧
    ∃ e ∈ s.log.react,
    let es := (s.log.react).drop 1
    s.log.react = e :: es ∧
    (∃ c ∈ s.dev.cores, c.mq.retest.isSome = true) := by
  decide +kernel

theorem meets_SafetyReactions_3 :
    let s := reacts 0x8101 0 []
    let p := 0
    s.acts = true ∧
    p < s.dev.cores.length ∧
    ∃ e ∈ s.log.react,
    let es := (s.log.react).drop 1
    s.log.react = e :: es ∧
    (∀ c ∈ s.dev.cores, c.mq.retest = none) ∧
    (e.code = 0x8101 ∨ e.code = 0x8108 ∨ e.code = 0x8110 ∨ e.code = 0x8111) := by
  decide +kernel

theorem meets_SafetyReactions_4 :
    let s := reacts 0x8103 0 [2]
    let p := 2
    s.acts = true ∧
    p < s.dev.cores.length ∧
    let k := s.core p
    ∃ e ∈ s.log.react,
    let es := (s.log.react).drop 1
    s.log.react = e :: es ∧
    let soon := ∃ t, k.mq.passed = some t ∧ s.tb.now.toNat < t + 1000000000
    let retests := e.code = 0x8102 ∨ e.code = 0x8103 ∨ e.code = 0x8105 ∨ e.code = 0x8107
    (∀ c ∈ s.dev.cores, c.mq.retest = none) ∧
    retests ∧
    e.cores = [p] ∧
    k.lost = false ∧
    (soon → e.inj = true) := by
  decide +kernel

theorem meets_SafetyReactions_5 :
    let s := passedAgo 500000000 (reacts 0x8103 0 [2])
    let p := 2
    s.acts = true ∧
    p < s.dev.cores.length ∧
    let k := s.core p
    ∃ e ∈ s.log.react,
    let es := (s.log.react).drop 1
    s.log.react = e :: es ∧
    let soon := ∃ t, k.mq.passed = some t ∧ s.tb.now.toNat < t + 1000000000
    let retests := e.code = 0x8102 ∨ e.code = 0x8103 ∨ e.code = 0x8105 ∨ e.code = 0x8107
    (∀ c ∈ s.dev.cores, c.mq.retest = none) ∧
    retests ∧
    e.cores = [p] ∧
    soon ∧
    e.inj = false := by
  decide +kernel

theorem meets_SafetyReactions_6 :
    let s := reacts 0x8104 0 [2]
    let p := 2
    s.acts = true ∧
    p < s.dev.cores.length ∧
    ∃ e ∈ s.log.react,
    let es := (s.log.react).drop 1
    s.log.react = e :: es ∧
    (∀ c ∈ s.dev.cores, c.mq.retest = none) ∧
    e.code = 0x8104 ∧
    p ∈ e.cores := by
  decide +kernel

theorem meets_SafetyReactions_7 :
    let s := reacts 0x8106 0x050200 [2]
    let p := 2
    s.acts = true ∧
    p < s.dev.cores.length ∧
    ∃ e ∈ s.log.react,
    let es := (s.log.react).drop 1
    s.log.react = e :: es ∧
    (∀ c ∈ s.dev.cores, c.mq.retest = none) ∧
    e.code = 0x8106 ∧
    fld e.detail 16 8 < 8 ∧
    fld e.detail 8 5 = p ∧
    e.inj = false := by
  decide +kernel

theorem meets_SafetyReactions_8 :
    let s := reacts 0x8106 0x100000 []
    let p := 0
    s.acts = true ∧
    p < s.dev.cores.length ∧
    ∃ e ∈ s.log.react,
    let es := (s.log.react).drop 1
    s.log.react = e :: es ∧
    (∀ c ∈ s.dev.cores, c.mq.retest = none) ∧
    e.code = 0x8106 ∧
    8 ≤ fld e.detail 16 8 := by
  decide +kernel

end Sys2Proof.Witness
end

