-- ==== Sys2Proof/Tests/Witnesses2.lean ====
section
/-! SUPPORT. Witnesses, part 2: for each statement of Certificates/Slice0/Obligations.lean, from MemoryFindings to
DoorbellsAndFetch, states and operands that meet all the hypotheses of a clause together. `meets_<statement>_<n>` names the statement. -/

namespace Sys2Proof.Witness

-- One theorem at a time: evaluated side by side, each would hold a thread of its own.
set_option Elab.async false
set_option linter.unusedVariables false
set_option synthInstance.maxSize 4000
set_option synthInstance.maxHeartbeats 200000

open Sys2Proof Sys2Proof.Machine Sys2Proof.Tests

-- MemoryFindings ------------------------------------------------------------------------------------------------------------------------------------

theorem meets_MemoryFindings_1 :
    let s := ready
    let f : EccFinding := ⟨3, 0, 7, 0, false, false⟩
    s.acts = true ∧
    s.log.safe = false ∧
    let unarmed := fun (kind : Nat) => (s.dev.saf.armed.all fun a => a != (kind, f.core, f.mem)) = true
    f.uncorrectable = false ∧
    f.persists = false ∧
    unarmed 0 := by
  decide +kernel

theorem meets_MemoryFindings_2 :
    let s := ready
    let f : EccFinding := ⟨1, 0, 2, 1, true, false⟩
    s.acts = true ∧
    s.log.safe = false ∧
    let unarmed := fun (kind : Nat) => (s.dev.saf.armed.all fun a => a != (kind, f.core, f.mem)) = true
    f.uncorrectable = true ∧
    f.mem < 2 ∧
    unarmed 1 := by
  decide +kernel

theorem meets_MemoryFindings_3 :
    let s := lockedState
    let p := 0
    s.acts = true ∧
    s.log.safe = false ∧
    p < s.dev.cores.length ∧
    let k := s.core p
    (∀ r ∈ k.locks.lines, r.1 + r.2 ≤ 8192) ∧
    (∀ r ∈ k.locks.wlines, r.1 + r.2 ≤ 20480) ∧
    let failed : List (Nat × Nat) := [(1, 8)]
    (∀ x ∈ failed, x.1 < 2) := by
  decide +kernel

-- FatalErrors ---------------------------------------------------------------------------------------------------------------------------------------

theorem meets_FatalErrors_1 :
    let s := ready
    let code := 61697
    s.linesOk = true ∧
    s.dev.boot.powered = true ∧
    s.log.safe = false ∧
    s.log.fatal = false ∧
    0xF101 ≤ code ∧
    code ≤ 0xF107 ∧
    s.log.errq.length < 64 := by
  decide +kernel

theorem meets_FatalErrors_2 :
    let s := fatal
    let code := 61703
    s.linesOk = true ∧
    s.dev.boot.powered = true ∧
    s.log.safe = false ∧
    s.log.fatal = true ∧
    0xF101 ≤ code ∧
    code ≤ 0xF107 := by
  decide +kernel

-- CastDump ------------------------------------------------------------------------------------------------------------------------------------------

theorem meets_CastDump_1 :
    let s := dumping 0 false false
    ∃ c ∈ s.dev.saf.cast,
    s.linesOk = true ∧
    s.dev.boot.powered = true ∧
    s.log.fatal = true ∧
    s.log.safe = false ∧
    s.work.pendingUser .cast = false ∧
    c.started = false := by
  decide +kernel

theorem meets_CastDump_2 :
    let s := dumping 1 true false
    ∃ c ∈ s.dev.saf.cast,
    s.linesOk = true ∧
    s.dev.boot.powered = true ∧
    s.log.fatal = true ∧
    s.log.safe = false ∧
    s.work.pendingUser .cast = false ∧
    c.started = true ∧
    c.sect % 2 = 1 ∧
    c.bad = false := by
  decide +kernel

theorem meets_CastDump_3 :
    let s := dumping 2 true false
    ∃ c ∈ s.dev.saf.cast,
    s.linesOk = true ∧
    s.dev.boot.powered = true ∧
    s.log.fatal = true ∧
    s.log.safe = false ∧
    s.work.pendingUser .cast = false ∧
    c.started = true ∧
    c.sect % 2 = 0 ∧
    c.bad = false ∧
    c.sect < 10 := by
  decide +kernel

theorem meets_CastDump_4 :
    let s := dumping 10 true false
    ∃ c ∈ s.dev.saf.cast,
    s.linesOk = true ∧
    s.dev.boot.powered = true ∧
    s.log.fatal = true ∧
    s.log.safe = false ∧
    s.work.pendingUser .cast = false ∧
    c.started = true ∧
    c.sect = 10 ∧
    c.bad = false := by
  decide +kernel

theorem meets_CastDump_5 :
    let s := dumping 3 true true
    ∃ c ∈ s.dev.saf.cast,
    s.linesOk = true ∧
    s.dev.boot.powered = true ∧
    s.log.fatal = true ∧
    s.log.safe = false ∧
    s.work.pendingUser .cast = false ∧
    c.started = true ∧
    c.sect % 2 = 1 ∧
    c.bad = true ∧
    c.sect < 9 := by
  decide +kernel

-- Pairing -------------------------------------------------------------------------------------------------------------------------------------------

theorem meets_Pairing_1 :
    let s := tryingAt 1 0 false false
    s.acts = true := by
  decide +kernel

theorem meets_Pairing_2 :
    let s := tryingAt 1 0 false false
    let link := 0
    let fr : RxFrame := ⟨true, 0, true, fld (cfgReset 0x80C) 0 12, 0x88B5, frameBytes 1 {} 5 0 0 0 (helloOf 1 1 false)⟩
    let h := hdrOf s link fr
    s.receives link 1 fr h = true ∧
    s.work.otherPos h.src = false ∧
    (∃ q, q ∈ s.work.others ∧ (s.dev.peer.at q).trying = true) := by
  decide +kernel

theorem meets_Pairing_3 :
    let s := tryingAt 1 0 false false
    let link := 0
    let fr : RxFrame := (frame 0 1 {} (helloOf 1 1 false))
    let h := hdrOf s link fr
    ∃ key ∈ s.work.linkKey,
    let b := fr.bytes.drop 32
    let p := s.dev.peer.at h.src
    s.receives link 1 fr h = true ∧
    s.work.otherPos h.src = true ∧
    p.trying = true ∧
    p.own ≠ [] ∧
    p.paired = false ∧
    (helloActive b = true → s.work.peerMode = 1 → s.dev.peer.active = true → s.work.myPos ≠ 1) ∧
    s.work.helloOk b = true := by
  decide +kernel

theorem meets_Pairing_4 :
    let s := tryingAt 1 0 false false
    let link := 1
    let fr : RxFrame := (frame 0 1 {} (List.replicate 32 0))
    let h := hdrOf s link fr
    ∃ key ∈ s.work.linkKey,
    let b := fr.bytes.drop 32
    let p := s.dev.peer.at h.src
    s.receives link 1 fr h = true ∧
    s.work.otherPos h.src = true ∧
    p.trying = true ∧
    p.own ≠ [] ∧
    p.paired = false ∧
    (helloActive b = true → s.work.peerMode = 1 → s.dev.peer.active = true → s.work.myPos ≠ 1) ∧
    s.work.helloOk b = false := by
  decide +kernel

theorem meets_Pairing_5 :
    let s := tryingAt 1 0 false false
    let link := 0
    let fr : RxFrame := (frame 0 2 {} (List.replicate 32 0))
    let h := hdrOf s link fr
    ∃ key ∈ s.work.linkKey,
    let b := fr.bytes.drop 32
    let x := s.dev.peer.heard link h
    let p := s.dev.peer.at h.src
    let w := s.workOn { s.dev with peer := x }
    s.receives link 2 fr h = true ∧
    p.trying = true ∧
    p.paired = false ∧
    p.hello ≠ [] ∧
    b ≠ w.proofOf key h.src h.src := by
  decide +kernel

theorem meets_Pairing_6 :
    let s := tryingAt 2 0 false false
    let link := 0
    let fr : RxFrame := (proofFrame 2 0 false false)
    let h := hdrOf s link fr
    ∃ key ∈ s.work.linkKey,
    let b := fr.bytes.drop 32
    let x := s.dev.peer.heard link h
    let p := s.dev.peer.at h.src
    let w := s.workOn { s.dev with peer := x }
    s.receives link 2 fr h = true ∧
    p.trying = true ∧
    p.paired = false ∧
    p.hello ≠ [] ∧
    b = w.proofOf key h.src h.src ∧
    s.work.peerMode ≠ 1 := by
  decide +kernel

theorem meets_Pairing_7 :
    let s := tryingAt 1 0 false false
    let link := 0
    let fr : RxFrame := (proofFrame 1 0 false false)
    let h := hdrOf s link fr
    ∃ key ∈ s.work.linkKey,
    let b := fr.bytes.drop 32
    let x := s.dev.peer.heard link h
    let p := s.dev.peer.at h.src
    let w := s.workOn { s.dev with peer := x }
    s.receives link 2 fr h = true ∧
    p.trying = true ∧
    p.paired = false ∧
    p.hello ≠ [] ∧
    b = w.proofOf key h.src h.src ∧
    s.work.peerMode = 1 ∧
    s.dev.peer.rejoin = false ∧
    (s.dev.peer.active = true → helloActive p.hello = true → s.work.myPos ≠ 1) := by
  decide +kernel

theorem meets_Pairing_8 :
    let s := tryingAt 1 1 true true
    let link := 0
    let fr : RxFrame := (proofFrame 1 1 true true)
    let h := hdrOf s link fr
    ∃ key ∈ s.work.linkKey,
    let b := fr.bytes.drop 32
    let x := s.dev.peer.heard link h
    let p := s.dev.peer.at h.src
    let w := s.workOn { s.dev with peer := x }
    s.receives link 2 fr h = true ∧
    p.trying = true ∧
    p.paired = false ∧
    p.hello ≠ [] ∧
    b = w.proofOf key h.src h.src ∧
    s.work.peerMode = 1 ∧
    s.dev.peer.rejoin = false ∧
    s.dev.peer.active = true ∧
    helloActive p.hello = true ∧
    s.work.myPos = 1 := by
  decide +kernel

-- HeartbeatsAndSilence ------------------------------------------------------------------------------------------------------------------------------

theorem meets_HeartbeatsAndSilence_1 :
    let s := active (pairedAt 1 1)
    let link := 0
    let fr : RxFrame := (frame 1 3 { a := 1 } [])
    let h := hdrOf s link fr
    s.receives link 3 fr h = true ∧
    let dual := s.work.peerMode = 1 ∧ bitOf h.a 0 = true ∧ s.dev.peer.active = true ∧ s.work.myPos = 1
    dual ∧
    s.dev.peer.rejoin = false := by
  decide +kernel

theorem meets_HeartbeatsAndSilence_2 :
    let s := pairedAt 1 1
    let link := 0
    let fr : RxFrame := (frame 1 3 { a := 1 } [])
    let h := hdrOf s link fr
    s.receives link 3 fr h = true ∧
    let dual := s.work.peerMode = 1 ∧ bitOf h.a 0 = true ∧ s.dev.peer.active = true ∧ s.work.myPos = 1
    let ending := h.src = s.work.partnerPos ∧ s.dev.peer.rejoin = true
    ¬ dual ∧
    ¬ ending := by
  decide +kernel

theorem meets_HeartbeatsAndSilence_3 :
    let s := rejoining false
    let link := 0
    let fr : RxFrame := (frame 1 3 { a := 3 } [])
    let h := hdrOf s link fr
    s.receives link 3 fr h = true ∧
    let dual := s.work.peerMode = 1 ∧ bitOf h.a 0 = true ∧ s.dev.peer.active = true ∧ s.work.myPos = 1
    let ending := h.src = s.work.partnerPos ∧ s.dev.peer.rejoin = true
    ¬ dual ∧
    ending ∧
    bitOf h.a 1 = true := by
  decide +kernel

theorem meets_HeartbeatsAndSilence_4 :
    let s := rejoining true
    let link := 0
    let fr : RxFrame := (frame 1 3 { a := 1 } [])
    let h := hdrOf s link fr
    s.receives link 3 fr h = true ∧
    let dual := s.work.peerMode = 1 ∧ bitOf h.a 0 = true ∧ s.dev.peer.active = true ∧ s.work.myPos = 1
    let ending := h.src = s.work.partnerPos ∧ s.dev.peer.rejoin = true
    ¬ dual ∧
    ending ∧
    bitOf h.a 1 = false := by
  decide +kernel

theorem meets_HeartbeatsAndSilence_5 :
    let s := pairedAt 1 0
    let link := 0
    let q := 0
    s.acts = true ∧
    s.work.linkOn link = true ∧
    s.work.linkMute link q = false ∧
    link < 2 ∧
    q < 4 ∧
    s.work.paired q = false := by
  decide +kernel

theorem meets_HeartbeatsAndSilence_6 :
    let s := pairedAt 1 0
    let link := 0
    let q := 1
    let other := s.work.linkGood (1 - link) q = true
    s.acts = true ∧
    s.work.linkOn link = true ∧
    s.work.linkMute link q = false ∧
    link < 2 ∧
    q < 4 ∧
    (s.work.paired q = true ∧
    other) ∧
    (s.work.others = [q]) := by
  decide +kernel

theorem meets_HeartbeatsAndSilence_7 :
    let s := silent1 (pairedAt 2 0)
    let link := 0
    let q := 1
    let other := s.work.linkGood (1 - link) q = true
    s.acts = true ∧
    s.work.linkOn link = true ∧
    s.work.linkMute link q = false ∧
    link < 2 ∧
    q < 4 ∧
    s.work.paired q = true ∧
    ¬ other ∧
    s.work.peerMode ≠ 1 := by
  decide +kernel

theorem meets_HeartbeatsAndSilence_8 :
    let s := silent1 (pairedAt 1 0)
    let link := 0
    let q := 1
    let other := s.work.linkGood (1 - link) q = true
    s.acts = true ∧
    s.work.linkOn link = true ∧
    s.work.linkMute link q = false ∧
    link < 2 ∧
    q < 4 ∧
    s.work.paired q = true ∧
    ¬ other ∧
    s.work.peerMode = 1 := by
  decide +kernel

-- DigestExchange ------------------------------------------------------------------------------------------------------------------------------------

theorem meets_DigestExchange_1 :
    let s := digests []
    s.acts = true := by
  decide +kernel

theorem meets_DigestExchange_2 :
    let s := pairedAt 1 0
    let link := 0
    let fr : RxFrame := (frame 0 4 { a := 1 } (digestOf 5))
    let h := hdrOf s link fr
    let b := fr.bytes.drop 32
    let e : DigEntry := ⟨word32 b 0 % 65536, BitVec.ofNat 32 (word32 b 4), BitVec.ofNat 64 (word64 b 8)⟩
    let known := s.dev.peer.digRx.any (· == e) || s.dev.peer.digDone.any (· == e)
    let sync := tabGet false s.dev.peer.sync e.stream
    s.receives link 4 fr h = true ∧
    s.work.peerMode = 1 ∧
    h.a = 1 ∧
    b.length = 16 ∧
    (sync = false ∨ known = true) := by
  decide +kernel

theorem meets_DigestExchange_3 :
    let s := digests [⟨40, 2, 5⟩]
    let link := 0
    let fr : RxFrame := (frame 0 4 { a := 1 } (digestOf 5))
    let h := hdrOf s link fr
    let b := fr.bytes.drop 32
    let e : DigEntry := ⟨word32 b 0 % 65536, BitVec.ofNat 32 (word32 b 4), BitVec.ofNat 64 (word64 b 8)⟩
    let known := s.dev.peer.digRx.any (· == e) || s.dev.peer.digDone.any (· == e)
    let sync := tabGet false s.dev.peer.sync e.stream
    s.receives link 4 fr h = true ∧
    s.work.peerMode = 1 ∧
    h.a = 1 ∧
    b.length = 16 ∧
    sync = true ∧
    known = false ∧
    ∃ own ∈ s.dev.peer.digOwn.find? (DigEntry.same e),
    own.digest = e.digest := by
  decide +kernel

theorem meets_DigestExchange_4 :
    let s := digests [⟨40, 2, 5⟩]
    let link := 0
    let fr : RxFrame := (frame 0 4 { a := 1 } (digestOf 6))
    let h := hdrOf s link fr
    let b := fr.bytes.drop 32
    let e : DigEntry := ⟨word32 b 0 % 65536, BitVec.ofNat 32 (word32 b 4), BitVec.ofNat 64 (word64 b 8)⟩
    let known := s.dev.peer.digRx.any (· == e) || s.dev.peer.digDone.any (· == e)
    let sync := tabGet false s.dev.peer.sync e.stream
    s.receives link 4 fr h = true ∧
    s.work.peerMode = 1 ∧
    h.a = 1 ∧
    b.length = 16 ∧
    sync = true ∧
    known = false ∧
    ∃ own ∈ s.dev.peer.digOwn.find? (DigEntry.same e),
    own.digest ≠ e.digest := by
  decide +kernel

theorem meets_DigestExchange_5 :
    let s := digests []
    let link := 0
    let fr : RxFrame := (frame 0 4 { a := 1 } (digestOf 5))
    let h := hdrOf s link fr
    let b := fr.bytes.drop 32
    let e : DigEntry := ⟨word32 b 0 % 65536, BitVec.ofNat 32 (word32 b 4), BitVec.ofNat 64 (word64 b 8)⟩
    let known := s.dev.peer.digRx.any (· == e) || s.dev.peer.digDone.any (· == e)
    let sync := tabGet false s.dev.peer.sync e.stream
    s.receives link 4 fr h = true ∧
    s.work.peerMode = 1 ∧
    h.a = 1 ∧
    b.length = 16 ∧
    sync = true ∧
    known = false ∧
    s.dev.peer.digOwn.find? (DigEntry.same e) = none ∧
    s.work.digestRoom = true := by
  decide +kernel

-- Rejoining -----------------------------------------------------------------------------------------------------------------------------------------

theorem meets_Rejoining_1 :
    let s := active (pairedAt 1 0)
    (let link := 0
    let fr : RxFrame := (frame 0 10 {} [])
    let h := hdrOf s link fr
    s.work.peerMode = 1 ∧
    s.receives link 10 fr h = true) ∧
    (s.work.peerMode = 1 ∧
    s.acts = true ∧
    s.work.paired s.work.partnerPos = true ∧
    s.dev.peer.pass = none ∧
    s.dev.peer.asm = []) := by
  decide +kernel

theorem meets_Rejoining_2 :
    let s := passing 0 (mirrored 0)
    s.work.peerMode = 1 ∧
    ∃ p ∈ s.dev.peer.pass,
    s.acts = true ∧
    s.work.paired s.work.partnerPos = true ∧
    let ahead := s.work.passStreams.filter fun kv => decide (p.next ≤ kv.1)
    ∃ kv ∈ ahead,
    let rest := (ahead).drop 1
    ∃ m ∈ s.work.model? kv.2.model,
    ahead = kv :: rest ∧
    kv.2.st = .resident ∧
    (s.work.ctx kv.1) = kv.2 := by
  decide +kernel

theorem meets_Rejoining_3 :
    let s := passing 42 (mirrored 0)
    s.work.peerMode = 1 ∧
    ∃ p ∈ s.dev.peer.pass,
    s.acts = true ∧
    s.work.paired s.work.partnerPos = true ∧
    let ahead := s.work.passStreams.filter fun kv => decide (p.next ≤ kv.1)
    ahead = [] ∧
    p.again = [] := by
  decide +kernel

theorem meets_Rejoining_4 :
    let s := mirrored 1
    let link := 0
    let fr : RxFrame := (frame 1 5 { a := 40, b := 2 } (transfer.take 64))
    let h := hdrOf s link fr
    let b := fr.bytes.drop 32
    s.work.peerMode = 1 ∧
    s.receives link 5 fr h = true ∧
    h.src = s.work.partnerPos ∧
    bitOf h.a 24 = false ∧
    bitsOf h.a 16 8 = 0 ∧
    let g := BitVec.ofNat 32 h.b
    let sid := h.a % 65536
    let old := s.dev.peer.asm.find? fun y => y.stream == sid && y.kind == 0 && y.gen == g
    let a : StateAsm := ⟨sid, g, 0, ((old.map StateAsm.frags).getD []).filter (fun f => f.1 != h.c) ++ [(h.c, b)]⟩
    a.ready = none := by
  decide +kernel

theorem meets_Rejoining_5 :
    let s := mirrored 1
    let link := 0
    let fr : RxFrame := (frame 1 5 { a := 40, b := 2 } transfer)
    let h := hdrOf s link fr
    let b := fr.bytes.drop 32
    s.work.peerMode = 1 ∧
    s.receives link 5 fr h = true ∧
    h.src = s.work.partnerPos ∧
    bitOf h.a 24 = false ∧
    bitsOf h.a 16 8 = 0 ∧
    let g := BitVec.ofNat 32 h.b
    let sid := h.a % 65536
    let old := s.dev.peer.asm.find? fun y => y.stream == sid && y.kind == 0 && y.gen == g
    let a : StateAsm := ⟨sid, g, 0, ((old.map StateAsm.frags).getD []).filter (fun f => f.1 != h.c) ++ [(h.c, b)]⟩
    ∃ t ∈ a.ready,
    let new := preambleEntry t
    ∃ m ∈ s.work.live? new.model,
    let c := s.work.ctx sid
    preambleOk sid { new with gen := g } m t = true ∧
    new.gen = g ∧
    c.st = .resident ∧
    c.model = new.model ∧
    sid < 65536 ∧
    ((s.work.sslot c.sslot).pagesOf (!c.half)).length = m.halfPages ∧
    ((s.work.sslot c.sslot).pagesOf (!c.half)).Nodup := by
  decide +kernel

theorem meets_Rejoining_6 :
    let s := mirrored 1
    let link := 0
    let fr : RxFrame := (frame 1 6 { a := 1 } (leBytes 4 (5 * 65536 + 43) ++ leBytes 4 7 ++ leBytes 8 9))
    let h := hdrOf s link fr
    let b := fr.bytes.drop 32
    s.work.peerMode = 1 ∧
    s.receives link 6 fr h = true ∧
    h.src = s.work.partnerPos ∧
    h.a = 1 ∧
    b.length = 16 ∧
    let sid := word32 b 0 % 65536
    let model := word32 b 0 / 65536 % 256
    (s.work.live? model).isSome = true ∧
    (s.work.ctx sid).st = .free := by
  decide +kernel

theorem meets_Rejoining_7 :
    let s := mirrored 0
    let link := 0
    let fr : RxFrame := (frame 0 7 { flags := 1 } (leBytes 4 40 ++ List.replicate 12 0))
    let h := hdrOf s link fr
    let b := fr.bytes.drop 32
    s.work.peerMode = 1 ∧
    s.receives link 7 fr h = true ∧
    h.src = s.work.partnerPos ∧
    b.length = 16 ∧
    bitOf h.flags 0 = true := by
  decide +kernel

theorem meets_Rejoining_8 :
    let s := mirrored 0
    let link := 0
    let fr : RxFrame := (frame 0 7 {} (leBytes 4 43 ++ List.replicate 12 0))
    let h := hdrOf s link fr
    let b := fr.bytes.drop 32
    s.work.peerMode = 1 ∧
    s.receives link 7 fr h = true ∧
    h.src = s.work.partnerPos ∧
    b.length = 16 ∧
    let sid := word32 b 0 % 65536
    bitOf h.flags 0 = false ∧
    (s.work.ctx sid).st = .free := by
  decide +kernel

theorem meets_Rejoining_9 :
    let s := mirrored 0
    let link := 0
    let fr : RxFrame := (frame 0 11 { a := 40, b := 2 } [])
    let h := hdrOf s link fr
    s.work.peerMode = 1 ∧
    s.receives link 11 fr h = true ∧
    h.src = s.work.partnerPos := by
  decide +kernel

-- SpanStores ----------------------------------------------------------------------------------------------------------------------------------------

theorem meets_SpanStores_1 :
    let s := pairedAt 2 0
    let link := 0
    let fr : RxFrame := (frame 0 8 { d := 9 } spanPayload)
    let h := hdrOf s link fr
    s.acts = true ∧
    let b := fr.bytes.drop 32
    let span := spanOf link h b
    s.receives link 8 fr h = true ∧
    s.work.peerMode = 2 ∧
    spanForm b = true ∧
    (∀ e, s.work.pairedStep span.job span.dl = some e → s.work.ownerBegun e span.addr = false) := by
  decide +kernel

theorem meets_SpanStores_3 :
    let s := spanSent 0
    let link := 1
    let fr : RxFrame := (frame 0 9 { a := 8 } [])
    let h := hdrOf s link fr
    s.acts = true ∧
    ∃ o ∈ s.dev.peer.spanOut.find? (fun o => (o.dst == h.src && o.sid == h.a) && o.link == link),
    s.receives link 9 fr h = true ∧
    h.b % 65536 = 0 := by
  decide +kernel

theorem meets_SpanStores_4 :
    let s := spanSent 0
    let link := 1
    let dst := 1
    let sid := 8
    s.acts = true ∧
    ∃ o ∈ s.dev.peer.spanOut.find? (fun o => o.link == link && o.dst == dst && o.sid == sid),
    o.tries < fld (s.dev.cfgW 0x810) 24 2 := by
  decide +kernel

theorem meets_SpanStores_5 :
    let s := spanSent 3
    let link := 1
    let dst := 1
    let sid := 8
    s.acts = true ∧
    ∃ o ∈ s.dev.peer.spanOut.find? (fun o => o.link == link && o.dst == dst && o.sid == sid),
    fld (s.dev.cfgW 0x810) 24 2 ≤ o.tries ∧
    s.work.exec? o.ring o.seq = none := by
  decide +kernel

theorem meets_SpanStores_6 :
    let s := withStep (spanSent 3)
    let link := 1
    let dst := 1
    let sid := 8
    s.acts = true ∧
    ∃ o ∈ s.dev.peer.spanOut.find? (fun o => o.link == link && o.dst == dst && o.sid == sid),
    fld (s.dev.cfgW 0x810) 24 2 ≤ o.tries ∧
    ∃ e ∈ s.work.exec? o.ring o.seq,
    e.ph = .run := by
  decide +kernel

theorem meets_SpanStores_7 :
    let s := { spanWaits with tb := { spanWaits.tb with valid := false } }
    s.acts = true ∧
    s.tb.valid = false := by
  decide +kernel

theorem meets_SpanStores_8 :
    let s := spanWaits
    s.acts = true ∧
    ∃ z ∈ s.dev.peer.spanHeld.find? (fun y => decide (y.dl < s.tb.now.toNat)),
    s.tb.valid = true ∧
    let p := nth 0 s.dev.boot.coreMap (bitsOf z.addr 24 5)
    p < s.dev.cores.length := by
  decide +kernel

theorem meets_SpanStores_9 :
    let s := pairedAt 2 0
    let link := 0
    let fr : RxFrame := { frame 0 3 {} [] with fcsOk := false }
    s.acts = true ∧
    s.work.judge link fr = .crcErr := by
  decide +kernel

theorem meets_SpanStores_10 :
    let s := seen400 (pairedAt 2 0)
    let link := 0
    let fr : RxFrame := (frame 0 3 {} [])
    s.acts = true ∧
    s.work.judge link fr = .late := by
  decide +kernel

theorem meets_SpanStores_11 :
    let s := seen5 (pairedAt 2 0)
    let link := 0
    let fr : RxFrame := (frame 0 3 {} [])
    let h := hdrOf s link fr
    s.acts = true ∧
    s.work.judge link fr = .dup h ∧
    h.typ ≠ 8 := by
  decide +kernel

theorem meets_SpanStores_12 :
    let s := seen5 (pairedAt 2 0)
    let link := 0
    let fr : RxFrame := (frame 0 8 { d := 9 } spanPayload)
    let h := hdrOf s link fr
    s.acts = true ∧
    s.work.judge link fr = .dup h ∧
    ∃ o ∈ s.dev.peer.outcomes.find? (fun o => o.1 == link && o.2.1 == h.src && o.2.2.1 == h.seq),
    h.typ = 8 := by
  decide +kernel

-- LinkScheduling ------------------------------------------------------------------------------------------------------------------------------------

theorem meets_LinkScheduling_1 :
    let s := gated (pairedAt 1 0)
    let link := 0
    s.acts = true ∧
    link < 2 := by
  decide +kernel

theorem meets_LinkScheduling_2 :
    let s := gated (pairedAt 1 0)
    let link := 2
    s.acts = true ∧
    (s.dev.peer.txq.all fun f => f.typ != 5) = true ∧
    (s.work.linkOn link = false ∨ tabGet 0 s.dev.peer.fault link ≠ 0) := by
  decide +kernel

theorem meets_LinkScheduling_3 :
    let s := queued (pairedAt 1 0)
    let link := 0
    s.acts = true ∧
    (s.dev.peer.txq.all fun f => f.typ != 5) = true ∧
    let q := 3
    ∃ f ∈ s.dev.peer.txq.find? (fun f => f.link == link && f.queue == q),
    s.work.linkOn link = true ∧
    tabGet 0 s.dev.peer.fault link = 0 ∧
    q < 4 ∧
    s.work.gateOk q f.octets.length = true ∧
    (∀ r, r < 4 → q < r → ∀ g ∈ s.dev.peer.txq.find? (fun f => f.link == link && f.queue == r), s.work.gateOk r g.octets.length = false) := by
  decide +kernel

-- SecurityTimers ------------------------------------------------------------------------------------------------------------------------------------

theorem meets_SecurityTimers_1 :
    let s := ready
    s.acts = true ∧
    (s.dev.sec.proposal = none) ∧
    (s.dev.sec.rngOk = true) ∧
    (s.dev.sec.quiesce = none) := by
  decide +kernel

theorem meets_SecurityTimers_2 :
    let s := proposed
    s.acts = true ∧
    ∃ p ∈ s.dev.sec.proposal,
    True := by
  decide +kernel

theorem meets_SecurityTimers_3 :
    let s := bootAt 2 State.reset
    s.acts = true ∧
    s.dev.sec.rngOk = false := by
  decide +kernel

theorem meets_SecurityTimers_4 :
    let s := held
    s.acts = true ∧
    let window := s.tb.now.toNat / 10000000
    (s.tb.held = true ∨ window ≤ s.dev.saf.telemWin) := by
  decide +kernel

theorem meets_SecurityTimers_5 :
    let s := ready
    s.acts = true ∧
    let window := s.tb.now.toNat / 10000000
    s.tb.held = false ∧
    s.dev.saf.telemWin < window := by
  decide +kernel

theorem meets_SecurityTimers_6 :
    let s := earlier step2 0 .run (quiescingFor 6 ready)
    s.acts = true ∧
    ∃ q ∈ s.dev.sec.quiesce,
    let own := fun (x : Exec) => x.ring = q.ring ∧ x.seq = q.seq
    (∃ x ∈ s.dev.rings.execs, x.begun = true ∧ ¬ own x) := by
  decide +kernel

theorem meets_SecurityTimers_7 :
    let s := quiescing
    s.acts = true ∧
    ∃ q ∈ s.dev.sec.quiesce,
    let own := fun (x : Exec) => x.ring = q.ring ∧ x.seq = q.seq
    (∀ x ∈ s.dev.rings.execs, x.begun = true → own x) ∧
    s.work.exec? q.ring q.seq = none ∧
    q.item = 4 := by
  decide +kernel

theorem meets_SecurityTimers_8 :
    let s := begun (execOf (mgmtDesc 0x105 36 0) 3 3 []) (quiescingFor 4 ready)
    s.acts = true ∧
    ∃ q ∈ s.dev.sec.quiesce,
    let own := fun (x : Exec) => x.ring = q.ring ∧ x.seq = q.seq
    (∀ x ∈ s.dev.rings.execs, x.begun = true → own x) ∧
    ∃ e ∈ s.work.exec? q.ring q.seq,
    e.ph = .work ∧
    q.item = 4 := by
  decide +kernel

theorem meets_SecurityTimers_9 :
    let s := begun (execOf (mgmtDesc 0x105 36 0) 3 3 []) (quiescingFor 5 (streamsOf .resident ready))
    s.acts = true ∧
    ∃ q ∈ s.dev.sec.quiesce,
    let own := fun (x : Exec) => x.ring = q.ring ∧ x.seq = q.seq
    (∀ x ∈ s.dev.rings.execs, x.begun = true → own x) ∧
    ∃ e ∈ s.work.exec? q.ring q.seq,
    e.ph = .work ∧
    q.item = 5 ∧
    s.dev.models ≠ [] := by
  decide +kernel

theorem meets_SecurityTimers_10 :
    let s := begun (execOf (mgmtDesc 0x105 36 0) 3 3 []) (quiescingFor 5 ready)
    s.acts = true ∧
    ∃ q ∈ s.dev.sec.quiesce,
    let own := fun (x : Exec) => x.ring = q.ring ∧ x.seq = q.seq
    (∀ x ∈ s.dev.rings.execs, x.begun = true → own x) ∧
    ∃ e ∈ s.work.exec? q.ring q.seq,
    e.ph = .work ∧
    q.item = 5 ∧
    s.dev.models = [] := by
  decide +kernel

theorem meets_SecurityTimers_11 :
    let s := begun (execOf (mgmtDesc 0x105 36 0) 3 3 []) (quiescingFor 6 (lostCore 5 (streamsOf .resident ready)))
    s.acts = true ∧
    ∃ q ∈ s.dev.sec.quiesce,
    let own := fun (x : Exec) => x.ring = q.ring ∧ x.seq = q.seq
    (∀ x ∈ s.dev.rings.execs, x.begun = true → own x) ∧
    ∃ e ∈ s.work.exec? q.ring q.seq,
    e.ph = .work ∧
    q.item = 6 := by
  decide +kernel

-- StartUp -------------------------------------------------------------------------------------------------------------------------------------------

theorem meets_StartUp_1 :
    let s := State.reset
    let b : List Byte := []
    s.acts = true ∧
    s.dev.boot.state = 1 ∧
    s.dev.sec.unveiled = false ∧
    keyRecordOk b = false := by
  decide +kernel

theorem meets_StartUp_3 :
    let s := ready
    s.acts = true ∧
    s.dev.boot.state ≠ 1 := by
  decide +kernel

theorem meets_StartUp_4 :
    let s := bootAt 1 (dev (fun d => { d with sec := { d.sec with unveiled := true } }) State.reset)
    s.acts = true ∧
    (s.dev.boot.state ≠ 1 ∨ s.dev.sec.unveiled = true) := by
  decide +kernel

theorem meets_StartUp_5 :
    let s := bootAt 2 State.reset
    (s.acts = true ∧
    s.dev.boot.state = 2 ∧
    s.dev.boot.go = false ∧
    (s.dev.saf.testMap.all fun e => decide ((s.dev.saf.testMap.filter fun x => macroOf x == macroOf e).length ≤ 8)) = true) ∧
    (let bad : List (Nat × Nat) := []
    s.acts = true ∧
    s.dev.boot.state = 2 ∧
    bad.length ≤ 14 ∧
    s.log.react = []) := by
  decide +kernel

theorem meets_StartUp_6 :
    let s := going (bootAt 2 State.reset)
    s.acts = true ∧
    s.dev.boot.state = 2 ∧
    s.dev.boot.go = true := by
  decide +kernel

theorem meets_StartUp_7 :
    let s := imageRead 4
    s.acts = true ∧
    ∃ j ∈ s.work.jobFor .firmware,
    s.dev.boot.state = 4 ∧
    j.ready = true ∧
    j.bad = false ∧
    s.work.jobFor .repairRec = none ∧
    s.work.jobFor .retireRec = none ∧
    s.dev.boot.excluded = [] := by
  decide +kernel

-- Resets --------------------------------------------------------------------------------------------------------------------------------------------

theorem meets_Resets_1 :
    let s := ready
    s.dev.boot.powered = true := by
  decide +kernel

-- RegisterAccess ------------------------------------------------------------------------------------------------------------------------------------

theorem meets_RegisterAccess_1 :
    let s := safe ready
    let off := 288
    s.acts = true ∧
    s.log.safe = true ∧
    off ≠ 0x314 := by
  decide +kernel

theorem meets_RegisterAccess_2 :
    let s := sealedUp ready
    let off := 1552
    s.acts = true ∧
    s.log.safe = false ∧
    sealedReg off = true ∧
    s.dev.sec.sealedUp = true := by
  decide +kernel

theorem meets_RegisterAccess_3 :
    let s := ringsOn ready
    let off := 2048
    let v : W32 := 17
    s.acts = true ∧
    s.log.safe = false ∧
    (sealedReg off = true → s.dev.sec.sealedUp = false) ∧
    s.work.changesS off v = true ∧
    s.work.idle = false := by
  decide +kernel

theorem meets_RegisterAccess_4 :
    let s := ready
    let off := 512
    let v : W32 := 3
    s.acts = true ∧
    s.log.safe = false ∧
    (sealedReg off = true → s.dev.sec.sealedUp = false) ∧
    (s.work.changesS off v = true → s.work.idle = true) ∧
    Work.valueCode off v ≠ 0 := by
  decide +kernel

theorem meets_RegisterAccess_5 :
    let s := sealedUp ready
    let off := 0
    let v : W32 := 5
    s.acts = true ∧
    let plain := off ∉ [0x100, 0x200, 0x300, 0x308, 0x314, 0x408, 0x510, 0x514, 0x518, 0x804, 0x808] ∧ inRun off 0x1008 32 64 = false ∧
        inRun off 0x2008 16 64 = false
    s.log.safe = false ∧
    (sealedReg off = true → s.dev.sec.sealedUp = false) ∧
    (s.work.changesS off v = true → s.work.idle = true) ∧
    Work.valueCode off v = 0 ∧
    plain := by
  decide +kernel

-- ControlWrites -------------------------------------------------------------------------------------------------------------------------------------

theorem meets_ControlWrites_1 :
    let s := bootAt 1 State.reset
    let v : W32 := 1
    (s.acts = true ∧
    s.log.safe = false ∧
    let passes := fun (off : Nat) (v : W32) => s.work.judgeWrite off v = none
    let set := fun (i : Nat) => v ||| BitVec.ofNat 32 (2 ^ i)
    (passes 0x100 (set 0) ∧
    (s.dev.boot.state = 1 ∨ s.dev.boot.state = 2)) ∧
    (passes 0x408 v) ∧
    (passes 0x518 (set 8)) ∧
    (passes 0x314 (set 0)) ∧
    (passes 0x308 (set 31))) ∧
    (let hi := true
    s.acts = true ∧
    s.log.safe = false ∧
    let passes := fun (off : Nat) (v : W32) => s.work.judgeWrite off v = none
    passes (if hi then 0x514 else 0x510) v) := by
  decide +kernel

theorem meets_ControlWrites_2 :
    let s := bootAt 3 State.reset
    let v : W32 := 0
    s.acts = true ∧
    s.log.safe = false ∧
    let passes := fun (off : Nat) (v : W32) => s.work.judgeWrite off v = none
    let set := fun (i : Nat) => v ||| BitVec.ofNat 32 (2 ^ i)
    (passes 0x100 (set 0) ∧
    (s.dev.boot.state = 3 ∨ s.dev.boot.state = 7)) ∧
    (passes 0x300 (set 29) ∧
    s.dev.boot.powered = true ∧
    3 ≤ s.dev.boot.state) := by
  decide +kernel

theorem meets_ControlWrites_3 :
    let s := ready
    let v : W32 := 1
    s.acts = true ∧
    s.log.safe = false ∧
    let passes := fun (off : Nat) (v : W32) => s.work.judgeWrite off v = none
    let set := fun (i : Nat) => v ||| BitVec.ofNat 32 (2 ^ i)
    passes 0x200 (set 2) ∧
    fld (s.dev.cfgW 0x200) 0 2 = fld (set 2) 0 2 ∧
    s.dev.boot.state = 6 := by
  decide +kernel

theorem meets_ControlWrites_4 :
    let s := bootAt 1 State.reset
    let v : W32 := 0
    s.acts = true ∧
    s.log.safe = false ∧
    let passes := fun (off : Nat) (v : W32) => s.work.judgeWrite off v = none
    (passes 0x200 v ∧
    fld (s.dev.cfgW 0x200) 0 2 ≠ fld v 0 2 ∧
    bit v 2 = false ∧
    let p := 0
    (s.core p).cal.rated = false) ∧
    (let f := { s with log := { s.log with fatal := true } }
    f.work.judgeWrite 0x200 v = none ∧
    fld (s.dev.cfgW 0x200) 0 2 ≠ fld v 0 2) := by
  decide +kernel

-- RingRegisters -------------------------------------------------------------------------------------------------------------------------------------

theorem meets_RingRegisters_1 :
    let s := cqOn ready
    let r := 0
    let v : W32 := 4
    s.acts = true ∧
    s.log.safe = false ∧
    r < 64 ∧
    let sq := 0x1008 + 32 * r
    let on := v ||| BitVec.ofNat 32 (2 ^ 31)
    s.work.judgeWrite sq on = none ∧
    bit (s.dev.cfgW sq) 31 = false := by
  decide +kernel

theorem meets_RingRegisters_2 :
    let s := ringsOn ready
    let r := 0
    let v : W32 := 4
    s.acts = true ∧
    s.log.safe = false ∧
    r < 64 ∧
    let sq := 0x1008 + 32 * r
    let cq := 0x2008 + 16 * r
    let on := v ||| BitVec.ofNat 32 (2 ^ 31)
    let off := v &&& ~~~(BitVec.ofNat 32 (2 ^ 31))
    (s.work.judgeWrite sq on = none ∧
    bit (s.dev.cfgW sq) 31 = true) ∧
    (s.work.judgeWrite sq off = none ∧
    bit (s.dev.cfgW sq) 31 = true) ∧
    (s.work.changesS cq off = false ∧
    Work.valueCode cq off = 0 ∧
    bit (s.dev.cfgW cq) 31 = true ∧
    (∃ q, q < 64 ∧ bit (s.dev.cfgW (0x1008 + 32 * q)) 31 = true ∧ fld (s.dev.cfgW (0x1008 + 32 * q)) 16 6 = r)) := by
  decide +kernel

theorem meets_RingRegisters_3 :
    let s := ready
    let r := 0
    let v : W32 := 4
    s.acts = true ∧
    s.log.safe = false ∧
    r < 64 ∧
    let cq := 0x2008 + 16 * r
    let on := v ||| BitVec.ofNat 32 (2 ^ 31)
    let off := v &&& ~~~(BitVec.ofNat 32 (2 ^ 31))
    (s.work.judgeWrite cq on = none ∧
    bit (s.dev.cfgW cq) 31 = false) ∧
    (s.work.judgeWrite cq off = none) := by
  decide +kernel

-- PeerControl ---------------------------------------------------------------------------------------------------------------------------------------

theorem meets_PeerControl_1 :
    let s := dev (fun d => { d with sec := { d.sec with keys := none } }) (blockAt 2 0)
    let v : W32 := 0
    s.acts = true ∧
    s.log.safe = false ∧
    let only := fun (i : Nat) => fld v 0 4 ||| 2 ^ i = 2 ^ i
    let set := fun (i : Nat) => v ||| BitVec.ofNat 32 (2 ^ i)
    s.work.judgeWrite 0x804 (set 0) = none ∧
    only 0 ∧
    s.work.peerMode = 2 ∧
    s.work.linkKey = none := by
  decide +kernel

theorem meets_PeerControl_2 :
    let s := blockAt 2 0
    let v : W32 := 0
    s.acts = true ∧
    s.log.safe = false ∧
    let only := fun (i : Nat) => fld v 0 4 ||| 2 ^ i = 2 ^ i
    let set := fun (i : Nat) => v ||| BitVec.ofNat 32 (2 ^ i)
    s.work.judgeWrite 0x804 (set 0) = none ∧
    only 0 ∧
    s.work.peerMode = 2 ∧
    s.work.linkKey ≠ none ∧
    s.dev.sec.rngOk = true := by
  decide +kernel

theorem meets_PeerControl_3 :
    let s := ready
    let v : W32 := 0
    s.acts = true ∧
    s.log.safe = false ∧
    let only := fun (i : Nat) => fld v 0 4 ||| 2 ^ i = 2 ^ i
    let set := fun (i : Nat) => v ||| BitVec.ofNat 32 (2 ^ i)
    (s.work.judgeWrite 0x804 (set 1) = none ∧
    only 1 ∧
    (s.work.peerMode ≠ 1 ∨ s.work.paired s.work.partnerPos = false)) ∧
    (s.work.judgeWrite 0x804 (set 2) = none ∧
    only 2) ∧
    (s.work.judgeWrite 0x804 (set 3) = none ∧
    only 3) ∧
    (s.work.judgeWrite 0x808 (set 16) = none ∧
    (s.work.peerMode ≠ 1 ∨ s.work.paired s.work.partnerPos = false)) := by
  decide +kernel

theorem meets_PeerControl_4 :
    let s := pairedAt 1 0
    let v : W32 := 0
    s.acts = true ∧
    s.log.safe = false ∧
    let only := fun (i : Nat) => fld v 0 4 ||| 2 ^ i = 2 ^ i
    let set := fun (i : Nat) => v ||| BitVec.ofNat 32 (2 ^ i)
    (s.work.judgeWrite 0x804 (set 1) = none ∧
    only 1 ∧
    s.work.peerMode = 1 ∧
    s.work.paired s.work.partnerPos = true) ∧
    (s.work.judgeWrite 0x808 (set 16) = none ∧
    s.work.peerMode = 1 ∧
    s.work.paired s.work.partnerPos = true ∧
    s.work.linkOn (s.work.pickLink s.work.partnerPos 0) = true) := by
  decide +kernel

-- TapScans ------------------------------------------------------------------------------------------------------------------------------------------

theorem meets_TapScans_1 :
    let s := ready
    s.linesOk = true ∧
    s.dev.boot.powered = true ∧
    s.dev.sec.unveiled = false := by
  decide +kernel

theorem meets_TapScans_2 :
    let s := unveiled ready
    (let x : BitVec 48 := (BitVec.ofNat 48 0x4200000001)
    s.linesOk = true ∧
    s.dev.boot.powered = true ∧
    s.dev.sec.unveiled = true ∧
    let off := 4 * bitsOf x.toNat 32 14
    x.getLsbD 47 = false ∧
    off ∉ [0x008, 0x00C, 0x620, 0x624]) ∧
    (let y : BitVec 544 := (0 : BitVec 544)
    s.linesOk = true ∧
    s.dev.boot.powered = true ∧
    s.dev.sec.unveiled = true ∧
    let mem := bitsOf y.toNat 537 2
    let line := bitsOf y.toNat 512 25
    mem < 3 ∧
    64 * line < memSize mem) := by
  decide +kernel

theorem meets_TapScans_3 :
    let s := unveiled (memState 0 0)
    let y : BitVec 544 := (BitVec.ofNat 544 (3 * 2 ^ 537 + 4 * 2 ^ 512 + 5))
    s.linesOk = true ∧
    s.dev.boot.powered = true ∧
    s.dev.sec.unveiled = true ∧
    let mem := bitsOf y.toNat 537 2
    let line := bitsOf y.toNat 512 25
    (mem = 3 ∨ memSize mem ≤ 64 * line) := by
  decide +kernel

-- PortGrants ----------------------------------------------------------------------------------------------------------------------------------------

theorem meets_PortGrants_1 :
    let s := ports (fun p => { p with out := [reqOf .cast] }) ready
    let port := 0
    s.acts = true ∧
    s.log.safe = false ∧
    ∃ q ∈ s.dev.ports.out.find? (fun q => q.port == port && !q.sent),
    True := by
  decide +kernel

theorem meets_PortGrants_2 :
    let s := offers [{ reqOf .cast with id := 3, tries := 1 }] ready
    let port := 0
    let id := 3
    s.acts = true ∧
    s.log.safe = false ∧
    let w := s.work
    let now := s.tb.now.toNat
    let dry := fun (q : PortReq) => match w.fetchState q with
        | some (x, e, n) =>
          if n = 0 ∨ x.cmd.cbeats = 0 ∨ e.missed = true ∨ e.passed s.tb = true then 0
          else n * x.cmd.cbeats * 10 ^ 6 / max 1 (s.dev.brate x.core).toNat
        | none => 0
    let key := fun (q : PortReq) => [(now + dry q) / 64, if q.cl ≤ 1 then now else w.deadlineOf q, q.cl, q.q]
    ∃ z ∈ w.candidates port,
    let q := z.1
    let st := z.2
    s.dev.ports.out.find? (fun q => q.port == port && !q.sent) = none ∧
    id < 256 ∧
    (∀ x ∈ s.dev.ports.out, ¬ (x.port = port ∧ x.id = id)) ∧
    (port, id) ∉ s.dev.ports.dead ∧
    (s.dev.pt.streams.map fun x => (x.port, x.slot)).Nodup ∧
    (∀ x ∈ s.dev.pt.streams, x.port = port → x.cmd.items ≤ x.fed ∧ (x.cmd.isStore = true → x.lineQ ≠ []) ∧ (x.cmd.cmp = 0 ∨ x.dec ≠ none)) ∧
    (∀ c ∈ w.candidates port, c = (q, st) ∨ key q < key c.1) ∧
    q.tries ≠ 0 ∧
    q.id = id := by
  decide +kernel

theorem meets_PortGrants_3 :
    let s := offers [reqOf .cast] ready
    let port := 0
    let id := 0
    s.acts = true ∧
    s.log.safe = false ∧
    let w := s.work
    let now := s.tb.now.toNat
    let dry := fun (q : PortReq) => match w.fetchState q with
        | some (x, e, n) =>
          if n = 0 ∨ x.cmd.cbeats = 0 ∨ e.missed = true ∨ e.passed s.tb = true then 0
          else n * x.cmd.cbeats * 10 ^ 6 / max 1 (s.dev.brate x.core).toNat
        | none => 0
    let key := fun (q : PortReq) => [(now + dry q) / 64, if q.cl ≤ 1 then now else w.deadlineOf q, q.cl, q.q]
    ∃ z ∈ w.candidates port,
    let q := z.1
    let st := z.2
    s.dev.ports.out.find? (fun q => q.port == port && !q.sent) = none ∧
    id < 256 ∧
    (∀ x ∈ s.dev.ports.out, ¬ (x.port = port ∧ x.id = id)) ∧
    (port, id) ∉ s.dev.ports.dead ∧
    (s.dev.pt.streams.map fun x => (x.port, x.slot)).Nodup ∧
    (∀ x ∈ s.dev.pt.streams, x.port = port → x.cmd.items ≤ x.fed ∧ (x.cmd.isStore = true → x.lineQ ≠ []) ∧ (x.cmd.cmp = 0 ∨ x.dec ≠ none)) ∧
    (∀ c ∈ w.candidates port, c = (q, st) ∨ key q < key c.1) ∧
    (q.tries ≠ 0 → q.id ≠ id) ∧
    let sealed_ := s.dev.sec.conf = true ∧ q.user.plain = false ∧ q.isWrite = true ∧ q.tags = []
    w.windowOk q = true ∧
    ¬ sealed_ := by
  decide +kernel

theorem meets_PortGrants_4 :
    let s := offers [writeOf (.spill 40)] (confidential (keyed ready))
    let port := 0
    let id := 0
    s.acts = true ∧
    s.log.safe = false ∧
    let w := s.work
    let now := s.tb.now.toNat
    let dry := fun (q : PortReq) => match w.fetchState q with
        | some (x, e, n) =>
          if n = 0 ∨ x.cmd.cbeats = 0 ∨ e.missed = true ∨ e.passed s.tb = true then 0
          else n * x.cmd.cbeats * 10 ^ 6 / max 1 (s.dev.brate x.core).toNat
        | none => 0
    let key := fun (q : PortReq) => [(now + dry q) / 64, if q.cl ≤ 1 then now else w.deadlineOf q, q.cl, q.q]
    ∃ z ∈ w.candidates port,
    let q := z.1
    let st := z.2
    s.dev.ports.out.find? (fun q => q.port == port && !q.sent) = none ∧
    id < 256 ∧
    (∀ x ∈ s.dev.ports.out, ¬ (x.port = port ∧ x.id = id)) ∧
    (port, id) ∉ s.dev.ports.dead ∧
    (s.dev.pt.streams.map fun x => (x.port, x.slot)).Nodup ∧
    (∀ x ∈ s.dev.pt.streams, x.port = port → x.cmd.items ≤ x.fed ∧ (x.cmd.isStore = true → x.lineQ ≠ []) ∧ (x.cmd.cmp = 0 ∨ x.dec ≠ none)) ∧
    (∀ c ∈ w.candidates port, c = (q, st) ∨ key q < key c.1) ∧
    (q.tries ≠ 0 → q.id ≠ id) ∧
    let sealed_ := s.dev.sec.conf = true ∧ q.user.plain = false ∧ q.isWrite = true ∧ q.tags = []
    w.windowOk q = true ∧
    sealed_ ∧
    q.whole = false := by
  decide +kernel

theorem meets_PortGrants_5 :
    let s := offers [granuleWrite] (confidential (keyed ready))
    let port := 0
    let id := 0
    s.acts = true ∧
    s.log.safe = false ∧
    let w := s.work
    let now := s.tb.now.toNat
    let dry := fun (q : PortReq) => match w.fetchState q with
        | some (x, e, n) =>
          if n = 0 ∨ x.cmd.cbeats = 0 ∨ e.missed = true ∨ e.passed s.tb = true then 0
          else n * x.cmd.cbeats * 10 ^ 6 / max 1 (s.dev.brate x.core).toNat
        | none => 0
    let key := fun (q : PortReq) => [(now + dry q) / 64, if q.cl ≤ 1 then now else w.deadlineOf q, q.cl, q.q]
    ∃ z ∈ w.candidates port,
    let q := z.1
    let st := z.2
    s.dev.ports.out.find? (fun q => q.port == port && !q.sent) = none ∧
    id < 256 ∧
    (∀ x ∈ s.dev.ports.out, ¬ (x.port = port ∧ x.id = id)) ∧
    (port, id) ∉ s.dev.ports.dead ∧
    (s.dev.pt.streams.map fun x => (x.port, x.slot)).Nodup ∧
    (∀ x ∈ s.dev.pt.streams, x.port = port → x.cmd.items ≤ x.fed ∧ (x.cmd.isStore = true → x.lineQ ≠ []) ∧ (x.cmd.cmp = 0 ∨ x.dec ≠ none)) ∧
    (∀ c ∈ w.candidates port, c = (q, st) ∨ key q < key c.1) ∧
    (q.tries ≠ 0 → q.id ≠ id) ∧
    let sealed_ := s.dev.sec.conf = true ∧ q.user.plain = false ∧ q.isWrite = true ∧ q.tags = []
    w.windowOk q = true ∧
    sealed_ ∧
    q.whole = true := by
  decide +kernel

theorem meets_PortGrants_6 :
    let s := offers [writeOf .message] (walled ready)
    let port := 0
    let id := 0
    s.acts = true ∧
    s.log.safe = false ∧
    let w := s.work
    let now := s.tb.now.toNat
    let dry := fun (q : PortReq) => match w.fetchState q with
        | some (x, e, n) =>
          if n = 0 ∨ x.cmd.cbeats = 0 ∨ e.missed = true ∨ e.passed s.tb = true then 0
          else n * x.cmd.cbeats * 10 ^ 6 / max 1 (s.dev.brate x.core).toNat
        | none => 0
    let key := fun (q : PortReq) => [(now + dry q) / 64, if q.cl ≤ 1 then now else w.deadlineOf q, q.cl, q.q]
    ∃ z ∈ w.candidates port,
    let q := z.1
    let st := z.2
    s.dev.ports.out.find? (fun q => q.port == port && !q.sent) = none ∧
    id < 256 ∧
    (∀ x ∈ s.dev.ports.out, ¬ (x.port = port ∧ x.id = id)) ∧
    (port, id) ∉ s.dev.ports.dead ∧
    (s.dev.pt.streams.map fun x => (x.port, x.slot)).Nodup ∧
    (∀ x ∈ s.dev.pt.streams, x.port = port → x.cmd.items ≤ x.fed ∧ (x.cmd.isStore = true → x.lineQ ≠ []) ∧ (x.cmd.cmp = 0 ∨ x.dec ≠ none)) ∧
    (∀ c ∈ w.candidates port, c = (q, st) ∨ key q < key c.1) ∧
    (q.tries ≠ 0 → q.id ≠ id) ∧
    w.windowOk q = false ∧
    (q.user = .message ∨ q.user = .repair) := by
  decide +kernel

theorem meets_PortGrants_7 :
    let s := offers [reqOf (.job 1 0)] (reading .doorbell 64 (walled ready))
    let port := 0
    let id := 0
    s.acts = true ∧
    s.log.safe = false ∧
    let w := s.work
    let now := s.tb.now.toNat
    let dry := fun (q : PortReq) => match w.fetchState q with
        | some (x, e, n) =>
          if n = 0 ∨ x.cmd.cbeats = 0 ∨ e.missed = true ∨ e.passed s.tb = true then 0
          else n * x.cmd.cbeats * 10 ^ 6 / max 1 (s.dev.brate x.core).toNat
        | none => 0
    let key := fun (q : PortReq) => [(now + dry q) / 64, if q.cl ≤ 1 then now else w.deadlineOf q, q.cl, q.q]
    ∃ z ∈ w.candidates port,
    let q := z.1
    let st := z.2
    s.dev.ports.out.find? (fun q => q.port == port && !q.sent) = none ∧
    id < 256 ∧
    (∀ x ∈ s.dev.ports.out, ¬ (x.port = port ∧ x.id = id)) ∧
    (port, id) ∉ s.dev.ports.dead ∧
    (s.dev.pt.streams.map fun x => (x.port, x.slot)).Nodup ∧
    (∀ x ∈ s.dev.pt.streams, x.port = port → x.cmd.items ≤ x.fed ∧ (x.cmd.isStore = true → x.lineQ ≠ []) ∧ (x.cmd.cmp = 0 ∨ x.dec ≠ none)) ∧
    (∀ c ∈ w.candidates port, c = (q, st) ∨ key q < key c.1) ∧
    (q.tries ≠ 0 → q.id ≠ id) ∧
    w.windowOk q = false ∧
    let j := 1
    let off := 0
    ∃ x ∈ s.dev.ports.jobs.find? (fun x => x.j == j),
    q.user = .job j off ∧
    q.isWrite = false ∧
    (x.key = .doorbell ∨ x.key = .firmware) := by
  decide +kernel

-- PortResponses -------------------------------------------------------------------------------------------------------------------------------------

theorem meets_PortResponses_1 :
    let s := ports (fun p => { p with dead := [(0, 7)] }) ready
    let port := 0
    let id := 7
    s.acts = true ∧
    let w := s.work
    w.outstanding port id = none ∧
    (port, id) ∈ s.dev.ports.dead := by
  decide +kernel

theorem meets_PortResponses_2 :
    let s := ports (fun p => { p with dead := [(0, 7)] }) ready
    let port := 0
    let id := 0
    s.acts = true ∧
    let w := s.work
    w.outstanding port id = none ∧
    (port, id) ∉ s.dev.ports.dead := by
  decide +kernel

theorem meets_PortResponses_3 :
    let s := outstanding (reqOf (.stream 0 1 9)) ready
    let port := 0
    let id := 7
    s.acts = true ∧
    let w := s.work
    ∃ q ∈ w.outstanding port id,
    w.orphan q = true ∧
    (match q.user with | .stream _ _ _ => true | _ => false) = true ∧
    q.isWrite = false ∧
    q.merge = false := by
  decide +kernel

theorem meets_PortResponses_4 :
    let s := outstanding (reqOf (.job 1 0)) (reading .doorbell 64 ready)
    let port := 0
    let id := 7
    let status := 7
    s.acts = true ∧
    let w := s.work
    ∃ q ∈ w.outstanding port id,
    let retry := min 2 (bitsOf (s.dev.cfgW 0x330).toNat 16 2)
    w.orphan q = false ∧
    status ≠ 0 ∧
    w.deadlineEnds q = none ∧
    q.tries < retry ∧
    w.endedStore q = none ∧
    q.isWrite = false := by
  decide +kernel

theorem meets_PortResponses_5 :
    let s := outstanding (writeOf .repair) ready
    let port := 0
    let id := 7
    (let status := 7
    s.acts = true ∧
    let w := s.work
    ∃ q ∈ w.outstanding port id,
    let retry := min 2 (bitsOf (s.dev.cfgW 0x330).toNat 16 2)
    w.orphan q = false ∧
    status ≠ 0 ∧
    w.deadlineEnds q = none ∧
    q.tries < retry ∧
    w.endedStore q = none ∧
    q.isWrite = true ∧
    q.merge = false) ∧
    (s.acts = true ∧
    let w := s.work
    ∃ q ∈ w.outstanding port id,
    (q.user = .message ∨ q.user = .repair) ∧
    q.cancelled = false ∧
    q.isWrite = true) := by
  decide +kernel

theorem meets_PortResponses_6 :
    let s := outstanding (writeOf (.stream 1 0 0)) ((landState 0).withPt
        { (landState 0).dev.pt with streams := [{ stream with cmd := { ptCmd with isStore := true, nrec := 0 } }] })
    let port := 0
    let id := 7
    let status := 7
    s.acts = true ∧
    let w := s.work
    ∃ q ∈ w.outstanding port id,
    ∃ x ∈ w.endedStore q,
    w.orphan q = false ∧
    status ≠ 0 ∧
    w.deadlineEnds q = none ∧
    q.isWrite = true ∧
    q.merge = false := by
  decide +kernel

theorem meets_PortResponses_7 :
    let s := outstanding { reqOf (.job 1 0) with tries := 2 } (reading .doorbell 64 ready)
    let port := 0
    let id := 7
    let status := 7
    s.acts = true ∧
    let w := s.work
    ∃ q ∈ w.outstanding port id,
    let plainJob := fun (x : ReadJob) =>
        (match x.key with | .doorbell | .firmware | .descs _ _ _ | .fill _ => true | _ => false) = true
    let retry := min 2 (bitsOf (s.dev.cfgW 0x330).toNat 16 2)
    let j := 1
    let off := 0
    ∃ x ∈ s.dev.ports.jobs.find? (fun x => x.j == j),
    w.orphan q = false ∧
    q.isWrite = false ∧
    q.merge = false ∧
    q.user = .job j off ∧
    plainJob x ∧
    status ≠ 0 ∧
    retry ≤ q.tries := by
  decide +kernel

theorem meets_PortResponses_8 :
    let s := outstanding (reqOf (.job 1 0)) (reading .doorbell 64 ready)
    let port := 0
    let id := 7
    let status := 0
    s.acts = true ∧
    let w := s.work
    ∃ q ∈ w.outstanding port id,
    let plainJob := fun (x : ReadJob) =>
        (match x.key with | .doorbell | .firmware | .descs _ _ _ | .fill _ => true | _ => false) = true
    let j := 1
    let off := 0
    ∃ x ∈ s.dev.ports.jobs.find? (fun x => x.j == j),
    w.orphan q = false ∧
    q.isWrite = false ∧
    q.merge = false ∧
    q.user = .job j off ∧
    plainJob x ∧
    status = 0 ∧
    s.dev.sec.conf = false := by
  decide +kernel

theorem meets_PortResponses_9 :
    let s := outstanding (reqOf (.job 1 0)) (reading .doorbell 64 (confidential (keyed ready)))
    let port := 0
    let id := 7
    let status := 0
    let poison := true
    s.acts = true ∧
    let w := s.work
    ∃ q ∈ w.outstanding port id,
    let plainJob := fun (x : ReadJob) =>
        (match x.key with | .doorbell | .firmware | .descs _ _ _ | .fill _ => true | _ => false) = true
    let j := 1
    let off := 0
    ∃ x ∈ s.dev.ports.jobs.find? (fun x => x.j == j),
    w.orphan q = false ∧
    q.isWrite = false ∧
    q.merge = false ∧
    q.user = .job j off ∧
    plainJob x ∧
    status = 0 ∧
    poison = true ∧
    s.dev.sec.conf = true := by
  decide +kernel

theorem meets_PortResponses_10 :
    let s := outstanding { reqOf (.stream 1 0 0) with port := 1, ents := [0x400] } (withStream (running [] []))
    let port := 1
    let id := 7
    let status := 0
    s.acts = true ∧
    let w := s.work
    ∃ q ∈ w.outstanding port id,
    let a := 1
    let b := 0
    let ep := 0
    ∃ x ∈ w.streamOf a b ep,
    q.user = .stream a b ep ∧
    q.cancelled = false ∧
    x.cmd.cmp = 0 ∧
    q.isWrite = false ∧
    q.merge = false ∧
    status = 0 ∧
    s.dev.sec.conf = false := by
  decide +kernel

theorem meets_PortResponses_11 :
    let s := outstanding (writeOf .repair) ready
    let port := 0
    let id := 7
    let status := 0
    s.acts = true ∧
    let w := s.work
    ∃ q ∈ w.outstanding port id,
    q.isWrite = true ∧
    q.merge = false ∧
    q.cancelled = false ∧
    status = 0 ∧
    (q.user = .message ∨ q.user = .repair ∨ q.user = .cast) := by
  decide +kernel

theorem meets_PortResponses_12 :
    let s := outstanding (writeOf .ledger) (dev (fun d => { d with led := { d.led with entry := some [1] } }) ready)
    let port := 0
    let id := 7
    let status := 0
    s.acts = true ∧
    let w := s.work
    ∃ q ∈ w.outstanding port id,
    q.isWrite = true ∧
    q.merge = false ∧
    q.cancelled = false ∧
    status = 0 ∧
    q.user = .ledger ∧
    s.dev.led.entry ≠ none := by
  decide +kernel

theorem meets_PortResponses_13 :
    let s := outstanding { writeOf (.stream 1 0 0) with port := 1 } ((running [] []).withPt
        { (running [] []).dev.pt with streams := [{ stream with cmd := { ptCmd with isStore := true }, lineQ := [(0, 5)] }], order := 1 })
    let port := 1
    let id := 7
    let status := 0
    s.acts = true ∧
    let w := s.work
    ∃ q ∈ w.outstanding port id,
    q.isWrite = true ∧
    q.merge = false ∧
    q.cancelled = false ∧
    status = 0 ∧
    let a := 1
    let b := 0
    let ep := 0
    ∃ x ∈ w.streamOf a b ep,
    q.user = .stream a b ep ∧
    x.lineQ ≠ [] := by
  decide +kernel

theorem meets_PortResponses_14 :
    let s := outstanding (writeOf (.out 0 1)) (begun { execOf (noJob 0x3F 0 []) 0 0 [] with ph := .effects } ready)
    let port := 0
    let id := 7
    let status := 0
    s.acts = true ∧
    let w := s.work
    ∃ q ∈ w.outstanding port id,
    q.isWrite = true ∧
    q.merge = false ∧
    q.cancelled = false ∧
    status = 0 ∧
    let r := 0
    let k := 1
    ∃ e ∈ w.exec? r k,
    q.user = .out r k ∧
    e.passed s.tb = false := by
  decide +kernel

theorem meets_PortResponses_15 :
    let s := outstanding (writeOf (.record 0 1 0)) (begun { execOf (noJob 0x3F 0 []) 0 0 [] with ph := .record } ready)
    let port := 0
    let id := 7
    let status := 0
    s.acts = true ∧
    let w := s.work
    ∃ q ∈ w.outstanding port id,
    q.isWrite = true ∧
    q.merge = false ∧
    q.cancelled = false ∧
    status = 0 ∧
    let r := 0
    let k := 1
    let n := 0
    ∃ e ∈ w.exec? r k,
    q.user = .record r k n ∧
    s.dev.rings.kills = [] ∧
    (∀ x ∈ s.dev.rings.execs, isFence x = false) ∧
    (∀ r, r < 64 → w.sqOn r = false ∨ (w.sq r).issued = (w.sq r).stail) := by
  decide +kernel

theorem meets_PortResponses_16 :
    let s := entered event [] ready
    s.acts = true ∧
    ∃ bytes ∈ s.dev.led.entry,
    ∃ it ∈ s.dev.led.items,
    let rest := (s.dev.led.items).drop 1
    s.dev.led.accepted = true ∧
    s.dev.led.items = it :: rest ∧
    it.next = .event ∧
    rest = [] ∧
    (∀ e ∈ s.dev.rings.execs, dOpc e.desc = 0x40 → dFunc e.desc = 0x103 → e.stage ≠ 2) := by
  decide +kernel

theorem meets_PortResponses_17 :
    let s := entered event [event] (ledgerAt ready)
    s.acts = true ∧
    let w := s.work
    ∃ bytes ∈ s.dev.led.entry,
    ∃ it ∈ s.dev.led.items,
    let rest := (s.dev.led.items).drop 1
    s.dev.led.accepted = true ∧
    s.dev.led.items = it :: rest ∧
    it.next = .event ∧
    ∃ it2 ∈ rest,
    let rest2 := (rest).drop 1
    rest = it2 :: rest2 ∧
    w.ledgerOn = true := by
  decide +kernel

-- DoorbellsAndFetch ---------------------------------------------------------------------------------------------------------------------------------

theorem meets_DoorbellsAndFetch_1 :
    let s := ringsOn ready
    s.acts = true ∧
    let w := s.work
    let anyOn := ∃ k, k < 64 ∧ w.sqOn k = true
    anyOn ∧
    s.dev.sec.quiesce = none ∧
    w.jobFor .doorbell = none := by
  decide +kernel

theorem meets_DoorbellsAndFetch_2 :
    let s := reading .doorbell 512 (ringsOn ready)
    s.acts = true ∧
    let w := s.work
    let anyOn := ∃ k, k < 64 ∧ w.sqOn k = true
    anyOn ∧
    s.dev.sec.quiesce = none ∧
    w.jobFor .doorbell ≠ none := by
  decide +kernel

theorem meets_DoorbellsAndFetch_3 :
    let s := ready
    s.acts = true ∧
    let w := s.work
    let anyOn := ∃ k, k < 64 ∧ w.sqOn k = true
    ¬ anyOn := by
  decide +kernel

theorem meets_DoorbellsAndFetch_4 :
    let s := pageRead .doorbell 512 (leBytes 4 3 ++ leBytes 4 2) false (ringsOn ready)
    s.acts = true ∧
    let w := s.work
    ∃ j ∈ w.jobFor .doorbell,
    j.left = 0 ∧
    j.bad = false ∧
    (∀ x ∈ s.dev.rings.execs, x.ph ≠ .blocked) := by
  decide +kernel

theorem meets_DoorbellsAndFetch_5 :
    let s := pageRead (.descs 0 0 2) 128 (noJob 0x3F 0 [] ++ fenceDesc 0 1 2) false (ring0 ready)
    let r := 0
    s.acts = true ∧
    let w := s.work
    let quiet := s.dev.rings.kills = [] ∧ (∀ x ∈ s.dev.rings.execs, isFence x = false) ∧
        ∀ k, k < 64 → w.sqOn k = false ∨ (w.sq k).issued = (w.sq k).stail
    let first := 0
    let n := 2
    ∃ j ∈ s.dev.ports.jobs.find? (fun j => match j.key with | .descs a _ _ => a == r | _ => false),
    quiet ∧
    w.jobFor (.descs r first n) = some j ∧
    j.left = 0 ∧
    j.bad = false ∧
    w.takeArmedArg 8 r = none ∧
    let ds := (List.range (j.len / 64)).map fun i => sliceAt j.bytes (64 * i) 64
    let sound := fun (d : List Byte) => descCrcOk d = true ∧ knownOpc (dOpc d) = true ∧ formatOk d = true ∧
        (dOpc d = 0x40 → knownFunc (dFunc d) = true)
    (∀ d ∈ ds, sound d ∧ dOpc d ≠ 1) ∧
    ds ≠ [] := by
  decide +kernel

theorem meets_DoorbellsAndFetch_6 :
    let s := pageRead (.descs 0 0 1) 64 step2 false (ring0 ready)
    let r := 0
    s.acts = true ∧
    let w := s.work
    let quiet := s.dev.rings.kills = [] ∧ (∀ x ∈ s.dev.rings.execs, isFence x = false) ∧
        ∀ k, k < 64 → w.sqOn k = false ∨ (w.sq k).issued = (w.sq k).stail
    let first := 0
    let n := 1
    ∃ j ∈ s.dev.ports.jobs.find? (fun j => match j.key with | .descs a _ _ => a == r | _ => false),
    quiet ∧
    w.jobFor (.descs r first n) = some j ∧
    j.left = 0 ∧
    j.bad = false ∧
    w.takeArmedArg 8 r = none ∧
    let ds := (List.range (j.len / 64)).map fun i => sliceAt j.bytes (64 * i) 64
    let sound := fun (d : List Byte) => descCrcOk d = true ∧ knownOpc (dOpc d) = true ∧ formatOk d = true ∧
        (dOpc d = 0x40 → knownFunc (dFunc d) = true)
    ∃ d ∈ ds,
    ds = [d] ∧
    sound d ∧
    dOpc d = 1 := by
  decide +kernel

theorem meets_DoorbellsAndFetch_7 :
    let s := pageRead (.descs 0 0 1) 64 (List.replicate 64 7) false (ring0 ready)
    let r := 0
    s.acts = true ∧
    let w := s.work
    let quiet := s.dev.rings.kills = [] ∧ (∀ x ∈ s.dev.rings.execs, isFence x = false) ∧
        ∀ k, k < 64 → w.sqOn k = false ∨ (w.sq k).issued = (w.sq k).stail
    let first := 0
    let n := 1
    ∃ j ∈ s.dev.ports.jobs.find? (fun j => match j.key with | .descs a _ _ => a == r | _ => false),
    quiet ∧
    w.jobFor (.descs r first n) = some j ∧
    j.left = 0 ∧
    j.bad = false ∧
    w.takeArmedArg 8 r = none ∧
    let ds := (List.range (j.len / 64)).map fun i => sliceAt j.bytes (64 * i) 64
    ∃ d ∈ ds,
    ds = [d] ∧
    descCrcOk d = false := by
  decide +kernel

theorem meets_DoorbellsAndFetch_8 :
    let s := pageRead (.descs 0 0 1) 64 (noJob 0x41 0 []) false (ring0 ready)
    let r := 0
    s.acts = true ∧
    let w := s.work
    let quiet := s.dev.rings.kills = [] ∧ (∀ x ∈ s.dev.rings.execs, isFence x = false) ∧
        ∀ k, k < 64 → w.sqOn k = false ∨ (w.sq k).issued = (w.sq k).stail
    let first := 0
    let n := 1
    ∃ j ∈ s.dev.ports.jobs.find? (fun j => match j.key with | .descs a _ _ => a == r | _ => false),
    quiet ∧
    w.jobFor (.descs r first n) = some j ∧
    j.left = 0 ∧
    j.bad = false ∧
    w.takeArmedArg 8 r = none ∧
    let ds := (List.range (j.len / 64)).map fun i => sliceAt j.bytes (64 * i) 64
    ∃ d ∈ ds,
    ds = [d] ∧
    descCrcOk d = true ∧
    knownOpc (dOpc d) = false := by
  decide +kernel

theorem meets_DoorbellsAndFetch_9 :
    let s := pageRead (.descs 0 0 1) 64 (noJob 0x40 0x300 []) false (ring0 ready)
    let r := 0
    s.acts = true ∧
    let w := s.work
    let quiet := s.dev.rings.kills = [] ∧ (∀ x ∈ s.dev.rings.execs, isFence x = false) ∧
        ∀ k, k < 64 → w.sqOn k = false ∨ (w.sq k).issued = (w.sq k).stail
    let first := 0
    let n := 1
    ∃ j ∈ s.dev.ports.jobs.find? (fun j => match j.key with | .descs a _ _ => a == r | _ => false),
    quiet ∧
    w.jobFor (.descs r first n) = some j ∧
    j.left = 0 ∧
    j.bad = false ∧
    w.takeArmedArg 8 r = none ∧
    let ds := (List.range (j.len / 64)).map fun i => sliceAt j.bytes (64 * i) 64
    ∃ d ∈ ds,
    ds = [d] ∧
    descCrcOk d = true ∧
    knownOpc (dOpc d) = true ∧
    (formatOk d = false ∨ dOpc d = 0x40 ∧ knownFunc (dFunc d) = false) := by
  decide +kernel

theorem meets_DoorbellsAndFetch_10 :
    let s := pageRead (.batch 0 1) 32 list40 true (queuedDesc 1 step2 none ready)
    let r := 0
    let seq := 1
    s.acts = true ∧
    let w := s.work
    ∃ j ∈ w.jobFor (.batch r seq),
    ∃ q ∈ (w.sq r).queue.find? (fun q => q.seq == seq),
    j.left = 0 ∧
    j.bad = true := by
  decide +kernel

theorem meets_DoorbellsAndFetch_11 :
    let s := pageRead (.batch 0 1) 32 (words [40, 0, 0, 0, 40, 0, 0, 0]) false (queuedDesc 1 step2 none ready)
    let r := 0
    let seq := 1
    s.acts = true ∧
    let w := s.work
    ∃ j ∈ w.jobFor (.batch r seq),
    ∃ q ∈ (w.sq r).queue.find? (fun q => q.seq == seq),
    j.left = 0 ∧
    let ids := (List.range (dLen q.desc)).map fun i => (batchEntry j.bytes i).1
    j.bad = false ∧
    ¬ ids.Nodup := by
  decide +kernel

theorem meets_DoorbellsAndFetch_12 :
    let s := pageRead (.batch 0 1) 32 list40 false (queuedDesc 1 step2 none ready)
    let r := 0
    let seq := 1
    s.acts = true ∧
    let w := s.work
    ∃ j ∈ w.jobFor (.batch r seq),
    ∃ q ∈ (w.sq r).queue.find? (fun q => q.seq == seq),
    j.left = 0 ∧
    let ids := (List.range (dLen q.desc)).map fun i => (batchEntry j.bytes i).1
    j.bad = false ∧
    ids.Nodup := by
  decide +kernel

end Sys2Proof.Witness
end

