-- ==== Sys2Proof/Tests/Witnesses3.lean ====
section
/-! SUPPORT. Witnesses, part 3: for each statement of Certificates/Slice0/Obligations.lean, from DescriptorBegins to
ManagementRequests, states and operands that meet all the hypotheses of a clause together. `meets_<statement>_<n>` names the statement. -/

namespace Sys2Proof.Witness

-- One theorem at a time: evaluated side by side, each would hold a thread of its own.
set_option Elab.async false
set_option linter.unusedVariables false
set_option synthInstance.maxSize 4000
set_option synthInstance.maxHeartbeats 200000

open Sys2Proof Sys2Proof.Machine Sys2Proof.Tests

-- DescriptorBegins ----------------------------------------------------------------------------------------------------------------------------------

theorem meets_DescriptorBegins_1 :
    let i : Instr := .nop 0
    let s := ringsOn ready
    let r := 0
    let opc := 63
    let func := 0
    descCommand i = some (r, opc, func) ∧
    s.acts = true ∧
    let w := s.work
    (w.sq r).queue = [] := by
  decide +kernel

theorem meets_DescriptorBegins_2 :
    let i : Instr := .nop 0
    let s := queuedDesc 1 step2 none ready
    let r := 0
    let opc := 63
    let func := 0
    ∃ q ∈ (s.work.sq r).queue,
    descCommand i = some (r, opc, func) ∧
    s.acts = true ∧
    let w := s.work
    (w.sq r).queue.head? = some q ∧
    (descMatches opc func q.desc = false ∨ w.killHeld (dJob q.desc) = true) := by
  decide +kernel

theorem meets_DescriptorBegins_3 :
    let i : Instr := .bind 0
    let s := queuedDesc 0 (noJob 0x10 0 []) none ready
    let r := 0
    let opc := 16
    let func := 0
    ∃ q ∈ (s.work.sq r).queue,
    descCommand i = some (r, opc, func) ∧
    s.acts = true ∧
    let w := s.work
    let free := opc = 0x3F ∨ opc = 0x40 ∧ (func = 0x100 ∨ func = 0x101)
    s.mayStart r q = true ∧
    descMatches opc func q.desc = true ∧
    ¬ free ∧
    w.session r = none := by
  decide +kernel

theorem meets_DescriptorBegins_4 :
    let i : Instr := .wload 0
    let s := queuedDesc 1 (loadDesc 0x20 0 64) none ready
    let r := 0
    let opc := 32
    let func := 0
    ∃ q ∈ (s.work.sq r).queue,
    descCommand i = some (r, opc, func) ∧
    s.acts = true ∧
    let w := s.work
    let free := opc = 0x3F ∨ opc = 0x40 ∧ (func = 0x100 ∨ func = 0x101)
    let role := roleNeeded q.desc
    s.mayStart r q = true ∧
    descMatches opc func q.desc = true ∧
    ∃ ses ∈ w.session r,
    ¬ free ∧
    ses.role < role := by
  decide +kernel

theorem meets_DescriptorBegins_5 :
    let i : Instr := .bind 0
    let s := reg 0x604 0 (queuedDesc 1 (noJob 0x10 0 []) none ready)
    let r := 0
    let opc := 16
    let func := 0
    ∃ q ∈ (s.work.sq r).queue,
    descCommand i = some (r, opc, func) ∧
    s.acts = true ∧
    let w := s.work
    let free := opc = 0x3F ∨ opc = 0x40 ∧ (func = 0x100 ∨ func = 0x101)
    let role := roleNeeded q.desc
    s.mayStart r q = true ∧
    descMatches opc func q.desc = true ∧
    ∃ ses ∈ w.session r,
    ∃ b ∈ rightsBit q.desc,
    ¬ free ∧
    role ≤ ses.role ∧
    (s.dev.cfgW (0x604 + 4 * (ses.role - 1))).getLsbD b = false := by
  decide +kernel

theorem meets_DescriptorBegins_6 :
    let i : Instr := .step 0
    let s := queuedDesc 1 step2 (some list40) ready
    let r := 0
    let opc := 1
    let func := 0
    ∃ q ∈ (s.work.sq r).queue,
    descCommand i = some (r, opc, func) ∧
    s.acts = true ∧
    let w := s.work
    s.mayStart r q = true ∧
    descMatches opc func q.desc = true ∧
    w.roleCheck r q.desc = 0 ∧
    (opc = 1 ∨ opc = 2 ∨ opc = 3) ∧
    w.live? (dModel q.desc) = none := by
  decide +kernel

theorem meets_DescriptorBegins_7 :
    let i : Instr := .step 0
    let s := queuedDesc 1 step2 (some list40) (layersOf biLayer (streamsOf .resident ready))
    let r := 0
    let opc := 1
    let func := 0
    ∃ q ∈ (s.work.sq r).queue,
    descCommand i = some (r, opc, func) ∧
    s.acts = true ∧
    let w := s.work
    s.mayStart r q = true ∧
    descMatches opc func q.desc = true ∧
    w.roleCheck r q.desc = 0 ∧
    (opc = 1 ∨ opc = 2 ∨ opc = 3) ∧
    ∃ m ∈ w.live? (dModel q.desc),
    (opc = 3 ↔ m.layers.any Layer.bi = false) := by
  decide +kernel

theorem meets_DescriptorBegins_8 :
    let i : Instr := .chunk 0
    let s := queuedDesc 1 (chunkOf 70) none (streamsOf .resident ready)
    let r := 0
    let opc := 2
    let func := 0
    ∃ q ∈ (s.work.sq r).queue,
    descCommand i = some (r, opc, func) ∧
    s.acts = true ∧
    let w := s.work
    s.mayStart r q = true ∧
    descMatches opc func q.desc = true ∧
    w.roleCheck r q.desc = 0 ∧
    (opc = 1 ∨ opc = 2 ∨ opc = 3) ∧
    ∃ m ∈ w.live? (dModel q.desc),
    opc = 2 ∧
    m.layers.any Layer.bi = false ∧
    (∃ l ∈ m.layers, l.cmax < dLen q.desc) := by
  decide +kernel

theorem meets_DescriptorBegins_9 :
    let i : Instr := .biwin 0
    let s := queuedDesc 1 (biwinOf 5) none (layersOf biLayer (streamsOf .resident ready))
    let r := 0
    let opc := 3
    let func := 0
    ∃ q ∈ (s.work.sq r).queue,
    descCommand i = some (r, opc, func) ∧
    s.acts = true ∧
    let w := s.work
    s.mayStart r q = true ∧
    descMatches opc func q.desc = true ∧
    w.roleCheck r q.desc = 0 ∧
    (opc = 1 ∨ opc = 2 ∨ opc = 3) ∧
    ∃ m ∈ w.live? (dModel q.desc),
    opc = 3 ∧
    m.layers.any Layer.bi = true ∧
    (dLen q.desc = 0 ∨ ∃ l ∈ m.layers, l.bi = true ∧ l.w < dLen q.desc) := by
  decide +kernel

theorem meets_DescriptorBegins_10 :
    let i : Instr := .chunk 0
    let s := queuedDesc 1 (chunkOf 3) none (otherModel ready)
    let r := 0
    let opc := 2
    let func := 0
    ∃ q ∈ (s.work.sq r).queue,
    descCommand i = some (r, opc, func) ∧
    s.acts = true ∧
    let w := s.work
    s.mayStart r q = true ∧
    descMatches opc func q.desc = true ∧
    w.roleCheck r q.desc = 0 ∧
    (opc = 1 ∨ opc = 2 ∨ opc = 3) ∧
    ∃ m ∈ w.live? (dModel q.desc),
    modeCode m q.desc = 0 ∧
    (∃ l ∈ q.lanes, (w.ctx l.1).st ≠ .free ∧ (w.ctx l.1).model ≠ m.handle) := by
  decide +kernel

theorem meets_DescriptorBegins_11 :
    let i : Instr := .chunk 0
    let s := queuedDesc 1 (chunkOf 3) none (lostCore 1 (streamsOf .resident ready))
    let r := 0
    let opc := 2
    let func := 0
    ∃ q ∈ (s.work.sq r).queue,
    descCommand i = some (r, opc, func) ∧
    s.acts = true ∧
    let w := s.work
    s.mayStart r q = true ∧
    descMatches opc func q.desc = true ∧
    w.roleCheck r q.desc = 0 ∧
    (opc = 1 ∨ opc = 2 ∨ opc = 3) ∧
    ∃ m ∈ w.live? (dModel q.desc),
    modeCode m q.desc = 0 ∧
    (∀ l ∈ q.lanes, (w.ctx l.1).st = .free ∨ (w.ctx l.1).model = m.handle) ∧
    let n := m.slots.length
    (∃ p ∈ s.dev.boot.coreMap.take n, (s.core p).lost = true) := by
  decide +kernel

theorem meets_DescriptorBegins_12 :
    let i : Instr := .chunk 0
    let s := reg 0x340 32 (queuedDesc 1 (chunkOf 3) none (mapOf [0, 1, 2] (streamsOf .resident ready)))
    let r := 0
    let opc := 2
    let func := 0
    ∃ q ∈ (s.work.sq r).queue,
    descCommand i = some (r, opc, func) ∧
    s.acts = true ∧
    let w := s.work
    s.mayStart r q = true ∧
    descMatches opc func q.desc = true ∧
    w.roleCheck r q.desc = 0 ∧
    (opc = 1 ∨ opc = 2 ∨ opc = 3) ∧
    ∃ m ∈ w.live? (dModel q.desc),
    modeCode m q.desc = 0 ∧
    (∀ l ∈ q.lanes, (w.ctx l.1).st = .free ∨ (w.ctx l.1).model = m.handle) ∧
    let n := m.slots.length
    (∀ p ∈ s.dev.boot.coreMap.take n, (s.core p).lost = false) ∧
    w.redundant m.handle = true ∧
    s.dev.inService.length < 2 * n := by
  decide +kernel

-- DescriptorEffects ---------------------------------------------------------------------------------------------------------------------------------

theorem meets_DescriptorEffects_1 :
    let i : Instr := .nop 0
    let s := queuedDesc 0 (noJob 0x3F 0 []) none ready
    let r := 0
    let opc := 63
    let func := 0
    ∃ q ∈ (s.work.sq r).queue,
    descCommand i = some (r, opc, func) ∧
    s.begins r q = true ∧
    descMatches opc func q.desc = true ∧
    let w := s.work
    let e := s.begunExec r q
    opc = 0x3F ∧
    let k := fld (s.dev.cfgW (0x1008 + 32 * r)) 16 6
    let c := w.cq k
    let a := s.dev.cfgAddr (0x2000 + 16 * k) + 32 * c.tail
    a % 32 = 0 ∧
    w.effectsDone e = true := by
  decide +kernel

theorem meets_DescriptorEffects_2 :
    let i : Instr := .fence 0
    let s := queuedDesc 1 (fenceDesc 0 0 0) none ready
    let r := 0
    let opc := 48
    let func := 0
    ∃ q ∈ (s.work.sq r).queue,
    descCommand i = some (r, opc, func) ∧
    s.begins r q = true ∧
    descMatches opc func q.desc = true ∧
    let e := s.begunExec r q
    let noFence := s.dev.rings.kills = [] ∧ ∀ x ∈ s.dev.rings.execs, isFence x = false
    opc = 0x30 ∧
    noFence ∧
    (∀ x ∈ s.dev.rings.execs, x.ring ≠ r) ∧
    fenceTen e = false := by
  decide +kernel

theorem meets_DescriptorEffects_3 :
    let i : Instr := .fence 0
    let s := earlier step2 0 .run (fetchedOn 0 (queuedDesc 1 (fenceDesc 0 (2 ^ 31 + 0) 0) none ready))
    let r := 0
    let opc := 48
    let func := 0
    ∃ q ∈ (s.work.sq r).queue,
    descCommand i = some (r, opc, func) ∧
    s.begins r q = true ∧
    descMatches opc func q.desc = true ∧
    let w := s.work
    let e := s.begunExec r q
    let noFence := s.dev.rings.kills = [] ∧ ∀ x ∈ s.dev.rings.execs, isFence x = false
    opc = 0x30 ∧
    noFence ∧
    let aim := w.sq (fenceRing e)
    let known := fenceTen e = true ∧ aim.fetchedAny = true ∧ serialLe (fenceSeq e) ((aim.seq + 2 ^ 32 - 1) % 2 ^ 32) = true
    (∃ x ∈ s.dev.rings.execs, x.ring = r ∧ x.seq ≠ q.seq ∧ upTo (q.seq / 2 ^ 32) (q.seq % 2 ^ 32) x.seq = true) ∧
    known := by
  decide +kernel

theorem meets_DescriptorEffects_4 :
    let i : Instr := .fence 0
    let s := earlier step2 0 .run (queuedDesc 1 (fenceDesc 0 0 0) none ready)
    let r := 0
    let opc := 48
    let func := 0
    ∃ q ∈ (s.work.sq r).queue,
    descCommand i = some (r, opc, func) ∧
    s.begins r q = true ∧
    descMatches opc func q.desc = true ∧
    let w := s.work
    let e := s.begunExec r q
    let noFence := s.dev.rings.kills = [] ∧ ∀ x ∈ s.dev.rings.execs, isFence x = false
    opc = 0x30 ∧
    noFence ∧
    let aim := w.sq (fenceRing e)
    let known := fenceTen e = true ∧ aim.fetchedAny = true ∧ serialLe (fenceSeq e) ((aim.seq + 2 ^ 32 - 1) % 2 ^ 32) = true
    (∃ x ∈ s.dev.rings.execs, x.ring = r ∧ x.seq ≠ q.seq ∧ upTo (q.seq / 2 ^ 32) (q.seq % 2 ^ 32) x.seq = true) ∧
    ¬ known := by
  decide +kernel

theorem meets_DescriptorEffects_5 :
    let i : Instr := .fence 0
    let s := queuedDesc 1 (fenceDesc 0 (2 ^ 31 + 3) 7) none ready
    let r := 0
    let opc := 48
    let func := 0
    ∃ q ∈ (s.work.sq r).queue,
    descCommand i = some (r, opc, func) ∧
    s.begins r q = true ∧
    descMatches opc func q.desc = true ∧
    let w := s.work
    let e := s.begunExec r q
    let noFence := s.dev.rings.kills = [] ∧ ∀ x ∈ s.dev.rings.execs, isFence x = false
    opc = 0x30 ∧
    noFence ∧
    let aim := w.sq (fenceRing e)
    let known := fenceTen e = true ∧ aim.fetchedAny = true ∧ serialLe (fenceSeq e) ((aim.seq + 2 ^ 32 - 1) % 2 ^ 32) = true
    fenceTen e = true ∧
    ¬ known := by
  decide +kernel

theorem meets_DescriptorEffects_6 :
    let i : Instr := .fence 0
    let s := fetchedOn 3 (queuedDesc 1 (fenceDesc 0 (2 ^ 31 + 3) 0) none ready)
    let r := 0
    let opc := 48
    let func := 0
    ∃ q ∈ (s.work.sq r).queue,
    descCommand i = some (r, opc, func) ∧
    s.begins r q = true ∧
    descMatches opc func q.desc = true ∧
    let w := s.work
    let e := s.begunExec r q
    let noFence := s.dev.rings.kills = [] ∧ ∀ x ∈ s.dev.rings.execs, isFence x = false
    opc = 0x30 ∧
    noFence ∧
    let aim := w.sq (fenceRing e)
    let known := fenceTen e = true ∧ aim.fetchedAny = true ∧ serialLe (fenceSeq e) ((aim.seq + 2 ^ 32 - 1) % 2 ^ 32) = true
    let late := upTo (aim.seq / 2 ^ 32) (fenceSeq e)
    known ∧
    fenceRing e ≠ r ∧
    (∀ x ∈ s.dev.rings.execs, x.ring ≠ r) ∧
    (∀ x ∈ s.dev.rings.execs, x.ring = fenceRing e → late x.seq = false) ∧
    (∀ y ∈ aim.queue, late y.seq = false) := by
  decide +kernel

theorem meets_DescriptorEffects_7 :
    let i : Instr := .kill 0
    let s := queuedDesc 1 (killDesc 9) none ready
    let r := 0
    let opc := 49
    let func := 0
    ∃ q ∈ (s.work.sq r).queue,
    descCommand i = some (r, opc, func) ∧
    s.begins r q = true ∧
    descMatches opc func q.desc = true ∧
    opc = 0x31 ∧
    let there := (∃ m ∈ s.dev.models, m.job = dTjob q.desc) ∨ ∃ x ∈ s.dev.rings.execs, x.begun = true ∧ dJob x.desc = dTjob q.desc ∧
        ¬ (x.ring = r ∧ x.seq = q.seq)
    ¬ there := by
  decide +kernel

theorem meets_DescriptorEffects_8 :
    let i : Instr := .kill 0
    let s := queuedDesc 1 (killDesc 9) none (ledgerOn (streamsOf .resident ready))
    let r := 0
    let opc := 49
    let func := 0
    ∃ q ∈ (s.work.sq r).queue,
    descCommand i = some (r, opc, func) ∧
    s.begins r q = true ∧
    descMatches opc func q.desc = true ∧
    opc = 0x31 ∧
    let there := (∃ m ∈ s.dev.models, m.job = dTjob q.desc) ∨ ∃ x ∈ s.dev.rings.execs, x.begun = true ∧ dJob x.desc = dTjob q.desc ∧
        ¬ (x.ring = r ∧ x.seq = q.seq)
    there ∧
    (∀ k ∈ s.dev.rings.kills, k.1 ≠ dTjob q.desc) ∧
    s.ledgerReady = true := by
  decide +kernel

theorem meets_DescriptorEffects_9 :
    let i : Instr := .kill 0
    let s := queuedDesc 1 (killDesc 9) none (streamsOf .resident ready)
    let r := 0
    let opc := 49
    let func := 0
    ∃ q ∈ (s.work.sq r).queue,
    descCommand i = some (r, opc, func) ∧
    s.begins r q = true ∧
    descMatches opc func q.desc = true ∧
    let w := s.work
    opc = 0x31 ∧
    let there := (∃ m ∈ s.dev.models, m.job = dTjob q.desc) ∨ ∃ x ∈ s.dev.rings.execs, x.begun = true ∧ dJob x.desc = dTjob q.desc ∧
        ¬ (x.ring = r ∧ x.seq = q.seq)
    there ∧
    (∀ k ∈ s.dev.rings.kills, k.1 ≠ dTjob q.desc) ∧
    w.ledgerOn = false ∧
    s.dev.led.items = [] ∧
    s.dev.led.entry = none ∧
    (∀ x ∈ s.dev.rings.execs, ¬ (dOpc x.desc = 0x31 ∧ x.ph = .wait)) := by
  decide +kernel

theorem meets_DescriptorEffects_10 :
    let i : Instr := .kill 0
    let s := killing (queuedDesc 1 (killDesc 9) none (streamsOf .resident ready))
    let r := 0
    let opc := 49
    let func := 0
    ∃ q ∈ (s.work.sq r).queue,
    descCommand i = some (r, opc, func) ∧
    s.begins r q = true ∧
    descMatches opc func q.desc = true ∧
    opc = 0x31 ∧
    let there := (∃ m ∈ s.dev.models, m.job = dTjob q.desc) ∨ ∃ x ∈ s.dev.rings.execs, x.begun = true ∧ dJob x.desc = dTjob q.desc ∧
        ¬ (x.ring = r ∧ x.seq = q.seq)
    there ∧
    (∃ k ∈ s.dev.rings.kills, k.1 = dTjob q.desc) := by
  decide +kernel

theorem meets_DescriptorEffects_11 :
    let i : Instr := .tfence 0
    let s := queuedDesc 2 (noJob 0x22 0 []) none ready
    let r := 0
    let opc := 34
    let func := 0
    ∃ q ∈ (s.work.sq r).queue,
    descCommand i = some (r, opc, func) ∧
    s.begins r q = true ∧
    descMatches opc func q.desc = true ∧
    opc = 0x22 ∧
    let loading := ∃ x ∈ s.dev.rings.execs, dOpc x.desc = 0x21 ∧ x.order < s.dev.rings.nextOrder ∧ (x.ph = .wait ∨ x.ph = .work)
    ¬ loading ∧
    (∀ x ∈ s.dev.rings.execs, dOpc x.desc ≠ 0x22) ∧
    (∃ p ∈ s.dev.inService, (s.core p).tables.switches ≤ s.dev.rings.fences) := by
  decide +kernel

theorem meets_DescriptorEffects_12 :
    let i : Instr := .tfence 0
    let s := earlier (loadDesc 0x21 5 64) 1 .work (queuedDesc 2 (noJob 0x22 0 []) none ready)
    let r := 0
    let opc := 34
    let func := 0
    ∃ q ∈ (s.work.sq r).queue,
    descCommand i = some (r, opc, func) ∧
    s.begins r q = true ∧
    descMatches opc func q.desc = true ∧
    opc = 0x22 ∧
    let loading := ∃ x ∈ s.dev.rings.execs, dOpc x.desc = 0x21 ∧ x.order < s.dev.rings.nextOrder ∧ (x.ph = .wait ∨ x.ph = .work)
    loading := by
  decide +kernel

theorem meets_DescriptorEffects_13 :
    let i : Instr := .wload 0
    let s := queuedDesc 2 (loadDesc 0x20 0 64) none ready
    let r := 0
    let opc := 32
    let func := 0
    ∃ q ∈ (s.work.sq r).queue,
    descCommand i = some (r, opc, func) ∧
    s.begins r q = true ∧
    descMatches opc func q.desc = true ∧
    opc = 0x20 ∧
    dW q.desc 0x18 ≠ 0 := by
  decide +kernel

theorem meets_DescriptorEffects_14 :
    let i : Instr := .wload 0
    let s := queuedDesc 2 (loadDesc 0x20 0 0) none ready
    let r := 0
    let opc := 32
    let func := 0
    ∃ q ∈ (s.work.sq r).queue,
    descCommand i = some (r, opc, func) ∧
    s.begins r q = true ∧
    descMatches opc func q.desc = true ∧
    opc = 0x20 ∧
    dW q.desc 0x18 = 0 := by
  decide +kernel

theorem meets_DescriptorEffects_15 :
    let i : Instr := .tload 0
    let s := queuedDesc 2 (loadDesc 0x21 5 64) none ready
    let r := 0
    let opc := 33
    let func := 0
    ∃ q ∈ (s.work.sq r).queue,
    descCommand i = some (r, opc, func) ∧
    s.begins r q = true ∧
    descMatches opc func q.desc = true ∧
    opc = 0x21 ∧
    let settled := ∀ p ∈ s.dev.inService, s.dev.rings.fences ≤ (s.core p).tables.switches ∧ (s.core p).tables.resync = false
    settled ∧
    dW q.desc 0x18 ≠ 0 := by
  decide +kernel

theorem meets_DescriptorEffects_16 :
    let i : Instr := .tload 0
    let s := resyncing 1 (queuedDesc 2 (loadDesc 0x21 5 64) none ready)
    let r := 0
    let opc := 33
    let func := 0
    ∃ q ∈ (s.work.sq r).queue,
    descCommand i = some (r, opc, func) ∧
    s.begins r q = true ∧
    descMatches opc func q.desc = true ∧
    opc = 0x21 ∧
    let settled := ∀ p ∈ s.dev.inService, s.dev.rings.fences ≤ (s.core p).tables.switches ∧ (s.core p).tables.resync = false
    ¬ settled := by
  decide +kernel

theorem meets_DescriptorEffects_17 :
    let i : Instr := .tableRead 0
    let s := queuedDesc 2 (mgmtDesc 1 0 0) none ready
    let r := 0
    let opc := 64
    let func := 1
    ∃ q ∈ (s.work.sq r).queue,
    descCommand i = some (r, opc, func) ∧
    s.begins r q = true ∧
    descMatches opc func q.desc = true ∧
    let func := 1
    let need := 4
    let cap := 0
    opc = 0x40 ∧
    (func, need, cap) ∈
        [(1, 4, 0), (2, 8, 0), (3, 4, 0), (4, 0, 64), (0x100, 4, 32), (0x101, 100, 0), (0x102, 0, 0), (0x103, 32, 0), (0x104, 4, 36), (0x105, 36, 0), (0x106, 0, 0), (0x107, 0, 2048), (0x200, 0, 16), (0x201, 4, 0), (0x202, 12, 0)] ∧
    (mRlen q.desc < need ∨ mRcap q.desc < cap) := by
  decide +kernel

theorem meets_DescriptorEffects_18 :
    let i : Instr := .tableRead 0
    let s := queuedDesc 2 (mgmtDesc 1 4 0) none ready
    let r := 0
    let opc := 64
    let func := 1
    ∃ q ∈ (s.work.sq r).queue,
    descCommand i = some (r, opc, func) ∧
    s.begins r q = true ∧
    descMatches opc func q.desc = true ∧
    let func := 1
    let need := 4
    let cap := 0
    opc = 0x40 ∧
    (func, need, cap) ∈
        [(1, 4, 0), (2, 8, 0), (3, 4, 0), (4, 0, 64), (0x100, 4, 32), (0x101, 100, 0), (0x102, 0, 0), (0x103, 32, 0), (0x104, 4, 36), (0x105, 36, 0), (0x106, 0, 0), (0x107, 0, 2048), (0x200, 0, 16), (0x201, 4, 0), (0x202, 12, 0)] ∧
    need ≤ mRlen q.desc ∧
    cap ≤ mRcap q.desc ∧
    mRlen q.desc ≠ 0 := by
  decide +kernel

theorem meets_DescriptorEffects_19 :
    let i : Instr := .winCounts 0
    let s := confidential (queuedDesc 2 (mgmtDesc 4 0 64) none ready)
    let r := 0
    let opc := 64
    let func := 4
    ∃ q ∈ (s.work.sq r).queue,
    descCommand i = some (r, opc, func) ∧
    s.begins r q = true ∧
    descMatches opc func q.desc = true ∧
    let func := 4
    let need := 0
    let cap := 64
    opc = 0x40 ∧
    (func, need, cap) ∈
        [(1, 4, 0), (2, 8, 0), (3, 4, 0), (4, 0, 64), (0x100, 4, 32), (0x101, 100, 0), (0x102, 0, 0), (0x103, 32, 0), (0x104, 4, 36), (0x105, 36, 0), (0x106, 0, 0), (0x107, 0, 2048), (0x200, 0, 16), (0x201, 4, 0), (0x202, 12, 0)] ∧
    func = 4 ∧
    mRlen q.desc = 0 ∧
    64 ≤ mRcap q.desc ∧
    s.dev.sec.conf = true := by
  decide +kernel

theorem meets_DescriptorEffects_20 :
    let i : Instr := .winCounts 0
    let s := queuedDesc 2 (mgmtDesc 4 0 64) none ready
    let r := 0
    let opc := 64
    let func := 4
    ∃ q ∈ (s.work.sq r).queue,
    descCommand i = some (r, opc, func) ∧
    s.begins r q = true ∧
    descMatches opc func q.desc = true ∧
    let func := 4
    let need := 0
    let cap := 64
    opc = 0x40 ∧
    (func, need, cap) ∈
        [(1, 4, 0), (2, 8, 0), (3, 4, 0), (4, 0, 64), (0x100, 4, 32), (0x101, 100, 0), (0x102, 0, 0), (0x103, 32, 0), (0x104, 4, 36), (0x105, 36, 0), (0x106, 0, 0), (0x107, 0, 2048), (0x200, 0, 16), (0x201, 4, 0), (0x202, 12, 0)] ∧
    func = 4 ∧
    mRlen q.desc = 0 ∧
    64 ≤ mRcap q.desc ∧
    s.dev.sec.conf = false := by
  decide +kernel

-- ManagementRequests --------------------------------------------------------------------------------------------------------------------------------

theorem meets_ManagementRequests_1 :
    let s := mgmtReads 1 4 2048 1 ready
    let port := 0
    let tag := 7
    let data : List Byte := (leBytes 4 9)
    let r := 0
    let k := 1
    let off := 0
    let w := s.work
    ∃ e ∈ w.exec? r k,
    ∃ x ∈ w.jobFor (.desc r k),
    ∃ q ∈ w.outstanding port tag,
    s.acts = true ∧
    q.user = .job x.j off ∧
    q.isWrite = false ∧
    q.merge = false ∧
    q.cancelled = false ∧
    s.dev.ports.jobs.find? (fun y => y.j == x.j) = some x ∧
    x.left = 1 ∧
    x.bad = false ∧
    e.passed s.tb = false ∧
    s.dev.sec.conf = false ∧
    dOpc e.desc = 0x40 ∧
    let b := { x with pieces := x.pieces ++ [(off, sliceAt data 0 (64 * q.beats))] }.bytes
    let func := dFunc e.desc
    func = 1 ∧
    let t := bitsOf (word32 b 0) 0 4
    4 ≤ t ∧
    s.dev.inService ≠ [] := by
  decide +kernel

theorem meets_ManagementRequests_2 :
    let s := mgmtReads 1 4 2048 1 (dev (fun d => { d with cores := d.cores.map fun k => { k with tables := CoreTables.shipped } }) ready)
    let port := 0
    let tag := 7
    let data : List Byte := (leBytes 4 1)
    let r := 0
    let k := 1
    let off := 0
    let w := s.work
    ∃ e ∈ w.exec? r k,
    ∃ x ∈ w.jobFor (.desc r k),
    ∃ q ∈ w.outstanding port tag,
    s.acts = true ∧
    q.user = .job x.j off ∧
    q.isWrite = false ∧
    q.merge = false ∧
    q.cancelled = false ∧
    s.dev.ports.jobs.find? (fun y => y.j == x.j) = some x ∧
    x.left = 1 ∧
    x.bad = false ∧
    e.passed s.tb = false ∧
    s.dev.sec.conf = false ∧
    dOpc e.desc = 0x40 ∧
    let b := { x with pieces := x.pieces ++ [(off, sliceAt data 0 (64 * q.beats))] }.bytes
    let func := dFunc e.desc
    func = 1 ∧
    let t := bitsOf (word32 b 0) 0 4
    ∃ p ∈ s.dev.inService,
    let ps := (s.dev.inService).drop 1
    ∃ img ∈ (s.core p).tables.active t,
    t < 4 ∧
    s.dev.inService = p :: ps := by
  decide +kernel

theorem meets_ManagementRequests_3 :
    let s := mgmtReads 2 8 0 1 (streamsOf .resident ready)
    let port := 0
    let tag := 7
    let data : List Byte := (leBytes 4 40 ++ leBytes 4 0)
    let r := 0
    let k := 1
    let off := 0
    let w := s.work
    ∃ e ∈ w.exec? r k,
    ∃ x ∈ w.jobFor (.desc r k),
    ∃ q ∈ w.outstanding port tag,
    s.acts = true ∧
    q.user = .job x.j off ∧
    q.isWrite = false ∧
    q.merge = false ∧
    q.cancelled = false ∧
    s.dev.ports.jobs.find? (fun y => y.j == x.j) = some x ∧
    x.left = 1 ∧
    x.bad = false ∧
    e.passed s.tb = false ∧
    s.dev.sec.conf = false ∧
    dOpc e.desc = 0x40 ∧
    let b := { x with pieces := x.pieces ++ [(off, sliceAt data 0 (64 * q.beats))] }.bytes
    let func := dFunc e.desc
    (func = 2 ∨ func = 3) ∧
    func = 2 ∧
    bitsOf (word32 b 0) 16 4 = 0 := by
  decide +kernel

theorem meets_ManagementRequests_4 :
    let s := mgmtReads 2 8 0 1 (streamsOf .busy ready)
    let port := 0
    let tag := 7
    let data : List Byte := (leBytes 4 (40 + 3 * 65536) ++ leBytes 4 0)
    let r := 0
    let k := 1
    let off := 0
    let w := s.work
    ∃ e ∈ w.exec? r k,
    ∃ x ∈ w.jobFor (.desc r k),
    ∃ q ∈ w.outstanding port tag,
    s.acts = true ∧
    q.user = .job x.j off ∧
    q.isWrite = false ∧
    q.merge = false ∧
    q.cancelled = false ∧
    s.dev.ports.jobs.find? (fun y => y.j == x.j) = some x ∧
    x.left = 1 ∧
    x.bad = false ∧
    e.passed s.tb = false ∧
    s.dev.sec.conf = false ∧
    dOpc e.desc = 0x40 ∧
    let b := { x with pieces := x.pieces ++ [(off, sliceAt data 0 (64 * q.beats))] }.bytes
    let func := dFunc e.desc
    (func = 2 ∨ func = 3) ∧
    let t := word32 b 0 % 65536
    let st := (w.ctx t).st
    (func = 2 → bitsOf (word32 b 0) 16 4 ≠ 0) ∧
    (st = .busy ∨ st = .filling ∨ st = .spilling) := by
  decide +kernel

theorem meets_ManagementRequests_5 :
    let s := mgmtReads 2 8 0 1 (streamsOf .busy ready)
    let port := 0
    let tag := 7
    let data : List Byte := (leBytes 4 (42 + 3 * 65536) ++ leBytes 4 0)
    let r := 0
    let k := 1
    let off := 0
    let w := s.work
    ∃ e ∈ w.exec? r k,
    ∃ x ∈ w.jobFor (.desc r k),
    ∃ q ∈ w.outstanding port tag,
    s.acts = true ∧
    q.user = .job x.j off ∧
    q.isWrite = false ∧
    q.merge = false ∧
    q.cancelled = false ∧
    s.dev.ports.jobs.find? (fun y => y.j == x.j) = some x ∧
    x.left = 1 ∧
    x.bad = false ∧
    e.passed s.tb = false ∧
    s.dev.sec.conf = false ∧
    dOpc e.desc = 0x40 ∧
    let b := { x with pieces := x.pieces ++ [(off, sliceAt data 0 (64 * q.beats))] }.bytes
    let func := dFunc e.desc
    (func = 2 ∨ func = 3) ∧
    let t := word32 b 0 % 65536
    let st := (w.ctx t).st
    let refuse : W16 := if func = 2 then (if st = .free then 0x2102 else if st = .quarantined then 0x2103 else 0) else if st ≠ .quarantined
        then 0x2102 else if t ∈ s.dev.arm.ctxBad then 0x2103 else 0
    (func = 2 → bitsOf (word32 b 0) 16 4 ≠ 0) ∧
    st ≠ .busy ∧
    st ≠ .filling ∧
    st ≠ .spilling ∧
    (∀ y ∈ s.dev.rings.execs, y.order < e.order → y.wants t = false) ∧
    refuse ≠ 0 := by
  decide +kernel

theorem meets_ManagementRequests_6 :
    let s := mgmtReads 2 8 0 1 (streamsOf .resident ready)
    let port := 0
    let tag := 7
    let data : List Byte := (leBytes 4 (40 + 3 * 65536) ++ leBytes 4 0)
    let r := 0
    let k := 1
    let off := 0
    let w := s.work
    ∃ e ∈ w.exec? r k,
    ∃ x ∈ w.jobFor (.desc r k),
    ∃ q ∈ w.outstanding port tag,
    s.acts = true ∧
    q.user = .job x.j off ∧
    q.isWrite = false ∧
    q.merge = false ∧
    q.cancelled = false ∧
    s.dev.ports.jobs.find? (fun y => y.j == x.j) = some x ∧
    x.left = 1 ∧
    x.bad = false ∧
    e.passed s.tb = false ∧
    s.dev.sec.conf = false ∧
    dOpc e.desc = 0x40 ∧
    let b := { x with pieces := x.pieces ++ [(off, sliceAt data 0 (64 * q.beats))] }.bytes
    let func := dFunc e.desc
    (func = 2 ∨ func = 3) ∧
    let t := word32 b 0 % 65536
    let st := (w.ctx t).st
    let refuse : W16 := if func = 2 then (if st = .free then 0x2102 else if st = .quarantined then 0x2103 else 0) else if st ≠ .quarantined
        then 0x2102 else if t ∈ s.dev.arm.ctxBad then 0x2103 else 0
    (func = 2 → bitsOf (word32 b 0) 16 4 ≠ 0) ∧
    st ≠ .busy ∧
    st ≠ .filling ∧
    st ≠ .spilling ∧
    (∀ y ∈ s.dev.rings.execs, y.order < e.order → y.wants t = false) ∧
    refuse = 0 := by
  decide +kernel

theorem meets_ManagementRequests_7 :
    let s := mgmtReads 4 4 64 1 ready
    let port := 0
    let tag := 7
    let r := 0
    let k := 1
    let off := 0
    let w := s.work
    ∃ e ∈ w.exec? r k,
    ∃ x ∈ w.jobFor (.desc r k),
    ∃ q ∈ w.outstanding port tag,
    s.acts = true ∧
    q.user = .job x.j off ∧
    q.isWrite = false ∧
    q.merge = false ∧
    q.cancelled = false ∧
    s.dev.ports.jobs.find? (fun y => y.j == x.j) = some x ∧
    x.left = 1 ∧
    x.bad = false ∧
    e.passed s.tb = false ∧
    s.dev.sec.conf = false ∧
    dOpc e.desc = 0x40 ∧
    let func := dFunc e.desc
    func = 4 := by
  decide +kernel

theorem meets_ManagementRequests_8 :
    let s := mgmtReads 0x100 4 32 1 (dev (fun d => { d with sec := { d.sec with lockout := true } }) ready)
    let port := 0
    let tag := 7
    let r := 0
    let k := 1
    let off := 0
    let w := s.work
    ∃ e ∈ w.exec? r k,
    ∃ x ∈ w.jobFor (.desc r k),
    ∃ q ∈ w.outstanding port tag,
    s.acts = true ∧
    q.user = .job x.j off ∧
    q.isWrite = false ∧
    q.merge = false ∧
    q.cancelled = false ∧
    s.dev.ports.jobs.find? (fun y => y.j == x.j) = some x ∧
    x.left = 1 ∧
    x.bad = false ∧
    e.passed s.tb = false ∧
    s.dev.sec.conf = false ∧
    dOpc e.desc = 0x40 ∧
    let func := dFunc e.desc
    func = 0x100 ∧
    s.dev.sec.lockout = true := by
  decide +kernel

theorem meets_ManagementRequests_9 :
    let s := mgmtReads 0x100 4 32 1 (dev (fun d => { d with sec := { d.sec with rngOk := false } }) ready)
    let port := 0
    let tag := 7
    let r := 0
    let k := 1
    let off := 0
    let w := s.work
    ∃ e ∈ w.exec? r k,
    ∃ x ∈ w.jobFor (.desc r k),
    ∃ q ∈ w.outstanding port tag,
    s.acts = true ∧
    q.user = .job x.j off ∧
    q.isWrite = false ∧
    q.merge = false ∧
    q.cancelled = false ∧
    s.dev.ports.jobs.find? (fun y => y.j == x.j) = some x ∧
    x.left = 1 ∧
    x.bad = false ∧
    e.passed s.tb = false ∧
    s.dev.sec.conf = false ∧
    dOpc e.desc = 0x40 ∧
    let func := dFunc e.desc
    func = 0x100 ∧
    s.dev.sec.lockout = false ∧
    s.dev.sec.rngOk = false := by
  decide +kernel

theorem meets_ManagementRequests_10 :
    let s := mgmtReads 0x100 4 32 1 ready
    let port := 0
    let tag := 7
    let r := 0
    let k := 1
    let off := 0
    let w := s.work
    ∃ e ∈ w.exec? r k,
    ∃ x ∈ w.jobFor (.desc r k),
    ∃ q ∈ w.outstanding port tag,
    s.acts = true ∧
    q.user = .job x.j off ∧
    q.isWrite = false ∧
    q.merge = false ∧
    q.cancelled = false ∧
    s.dev.ports.jobs.find? (fun y => y.j == x.j) = some x ∧
    x.left = 1 ∧
    x.bad = false ∧
    e.passed s.tb = false ∧
    s.dev.sec.conf = false ∧
    dOpc e.desc = 0x40 ∧
    let func := dFunc e.desc
    func = 0x100 ∧
    s.dev.sec.lockout = false ∧
    s.dev.sec.rngOk = true := by
  decide +kernel

theorem meets_ManagementRequests_11 :
    let s := mgmtReads 0x101 100 0 1 (creds ready)
    let port := 0
    let tag := 7
    let data : List Byte := leBytes 4 9 ++ pub ++ List.replicate 64 3
    let r := 0
    let k := 1
    let off := 0
    let w := s.work
    ∃ e ∈ w.exec? r k,
    ∃ x ∈ w.jobFor (.desc r k),
    ∃ q ∈ w.outstanding port tag,
    s.acts = true ∧
    q.user = .job x.j off ∧
    q.isWrite = false ∧
    q.merge = false ∧
    q.cancelled = false ∧
    s.dev.ports.jobs.find? (fun y => y.j == x.j) = some x ∧
    x.left = 1 ∧
    x.bad = false ∧
    e.passed s.tb = false ∧
    s.dev.sec.conf = false ∧
    dOpc e.desc = 0x40 ∧
    let b := { x with pieces := x.pieces ++ [(off, sliceAt data 0 (64 * q.beats))] }.bytes
    let func := dFunc e.desc
    func = 0x101 ∧
    let c := word32 b 0
    let key := sliceAt b 4 32
    let cred := nth (0, []) s.dev.sec.creds c
    let good := ∃ n ∈ s.dev.sec.nonces.find? (fun n => n.1 == r), n.2.1 = c ∧ c < 16 ∧ cred.1 ≠ 0 ∧ sha256 key = cred.2 ∧
        Config.ed25519Verify key (ascii "SQ32-AUTH-v1" ++ n.2.2 ++ [w8 r, w8 c]) (sliceAt b 36 64) = true
    ¬ good := by
  decide +kernel

theorem meets_ManagementRequests_14 :
    let s := mgmtReads 0x102 4 0 1 ready
    let port := 0
    let tag := 7
    let r := 0
    let k := 1
    let off := 0
    let w := s.work
    ∃ e ∈ w.exec? r k,
    ∃ x ∈ w.jobFor (.desc r k),
    ∃ q ∈ w.outstanding port tag,
    s.acts = true ∧
    q.user = .job x.j off ∧
    q.isWrite = false ∧
    q.merge = false ∧
    q.cancelled = false ∧
    s.dev.ports.jobs.find? (fun y => y.j == x.j) = some x ∧
    x.left = 1 ∧
    x.bad = false ∧
    e.passed s.tb = false ∧
    s.dev.sec.conf = false ∧
    dOpc e.desc = 0x40 ∧
    let func := dFunc e.desc
    func = 0x102 := by
  decide +kernel

theorem meets_ManagementRequests_15 :
    let s := mgmtReads 0x103 32 0 1 ready
    let port := 0
    let tag := 7
    let r := 0
    let k := 1
    let off := 0
    let w := s.work
    ∃ e ∈ w.exec? r k,
    ∃ x ∈ w.jobFor (.desc r k),
    ∃ q ∈ w.outstanding port tag,
    s.acts = true ∧
    q.user = .job x.j off ∧
    q.isWrite = false ∧
    q.merge = false ∧
    q.cancelled = false ∧
    s.dev.ports.jobs.find? (fun y => y.j == x.j) = some x ∧
    x.left = 1 ∧
    x.bad = false ∧
    e.passed s.tb = false ∧
    s.dev.sec.conf = false ∧
    dOpc e.desc = 0x40 ∧
    let func := dFunc e.desc
    func = 0x103 ∧
    s.dev.sec.keys = none := by
  decide +kernel

theorem meets_ManagementRequests_16 :
    let s := mgmtReads 0x103 32 0 1 (keyed (dev (fun d => { d with sec := { d.sec with rngOk := false } }) ready))
    let port := 0
    let tag := 7
    let r := 0
    let k := 1
    let off := 0
    let w := s.work
    ∃ e ∈ w.exec? r k,
    ∃ x ∈ w.jobFor (.desc r k),
    ∃ q ∈ w.outstanding port tag,
    s.acts = true ∧
    q.user = .job x.j off ∧
    q.isWrite = false ∧
    q.merge = false ∧
    q.cancelled = false ∧
    s.dev.ports.jobs.find? (fun y => y.j == x.j) = some x ∧
    x.left = 1 ∧
    x.bad = false ∧
    e.passed s.tb = false ∧
    s.dev.sec.conf = false ∧
    dOpc e.desc = 0x40 ∧
    let func := dFunc e.desc
    func = 0x103 ∧
    s.dev.sec.keys ≠ none ∧
    s.dev.sec.rngOk = false := by
  decide +kernel

theorem meets_ManagementRequests_17 :
    let s := mgmtReads 0x103 32 0 1 (dev (fun d => { d with led := { d.led with items := [event], entry := some [1] } }) (keyed ready))
    let port := 0
    let tag := 7
    let r := 0
    let k := 1
    let off := 0
    let w := s.work
    ∃ e ∈ w.exec? r k,
    ∃ x ∈ w.jobFor (.desc r k),
    ∃ q ∈ w.outstanding port tag,
    s.acts = true ∧
    q.user = .job x.j off ∧
    q.isWrite = false ∧
    q.merge = false ∧
    q.cancelled = false ∧
    s.dev.ports.jobs.find? (fun y => y.j == x.j) = some x ∧
    x.left = 1 ∧
    x.bad = false ∧
    e.passed s.tb = false ∧
    s.dev.sec.conf = false ∧
    dOpc e.desc = 0x40 ∧
    let func := dFunc e.desc
    func = 0x103 ∧
    s.dev.sec.keys ≠ none ∧
    s.dev.sec.rngOk = true ∧
    s.dev.led.items ≠ [] := by
  decide +kernel

theorem meets_ManagementRequests_18 :
    let s := mgmtReads 0x104 36 36 1 ready
    let port := 0
    let tag := 7
    let data : List Byte := (leBytes 4 1 ++ List.replicate 32 5)
    let r := 0
    let k := 1
    let off := 0
    let w := s.work
    ∃ e ∈ w.exec? r k,
    ∃ x ∈ w.jobFor (.desc r k),
    ∃ q ∈ w.outstanding port tag,
    s.acts = true ∧
    q.user = .job x.j off ∧
    q.isWrite = false ∧
    q.merge = false ∧
    q.cancelled = false ∧
    s.dev.ports.jobs.find? (fun y => y.j == x.j) = some x ∧
    x.left = 1 ∧
    x.bad = false ∧
    e.passed s.tb = false ∧
    s.dev.sec.conf = false ∧
    dOpc e.desc = 0x40 ∧
    let b := { x with pieces := x.pieces ++ [(off, sliceAt data 0 (64 * q.beats))] }.bytes
    let func := dFunc e.desc
    func = 0x104 ∧
    let item := word32 b 0
    let low := 1 ≤ item ∧ item ≤ 6 ∧ e.role < itemRole item
    low := by
  decide +kernel

theorem meets_ManagementRequests_19 :
    let s := mgmtReads 0x104 16 36 2 (proposed)
    let port := 0
    let tag := 7
    let data : List Byte := (leBytes 4 3 ++ leBytes 8 0 ++ leBytes 4 6)
    let r := 0
    let k := 1
    let off := 0
    let w := s.work
    ∃ e ∈ w.exec? r k,
    ∃ x ∈ w.jobFor (.desc r k),
    ∃ q ∈ w.outstanding port tag,
    s.acts = true ∧
    q.user = .job x.j off ∧
    q.isWrite = false ∧
    q.merge = false ∧
    q.cancelled = false ∧
    s.dev.ports.jobs.find? (fun y => y.j == x.j) = some x ∧
    x.left = 1 ∧
    x.bad = false ∧
    e.passed s.tb = false ∧
    s.dev.sec.conf = false ∧
    dOpc e.desc = 0x40 ∧
    let b := { x with pieces := x.pieces ++ [(off, sliceAt data 0 (64 * q.beats))] }.bytes
    let func := dFunc e.desc
    func = 0x104 ∧
    let item := word32 b 0
    let low := 1 ≤ item ∧ item ≤ 6 ∧ e.role < itemRole item
    ¬ low ∧
    w.proposalPending = true := by
  decide +kernel

theorem meets_ManagementRequests_20 :
    let s := mgmtReads 0x104 36 36 1 ready
    let port := 0
    let tag := 7
    let data : List Byte := leBytes 4 0 ++ List.replicate 32 5
    let r := 0
    let k := 1
    let off := 0
    let w := s.work
    ∃ e ∈ w.exec? r k,
    ∃ x ∈ w.jobFor (.desc r k),
    ∃ q ∈ w.outstanding port tag,
    s.acts = true ∧
    q.user = .job x.j off ∧
    q.isWrite = false ∧
    q.merge = false ∧
    q.cancelled = false ∧
    s.dev.ports.jobs.find? (fun y => y.j == x.j) = some x ∧
    x.left = 1 ∧
    x.bad = false ∧
    e.passed s.tb = false ∧
    s.dev.sec.conf = false ∧
    dOpc e.desc = 0x40 ∧
    let b := { x with pieces := x.pieces ++ [(off, sliceAt data 0 (64 * q.beats))] }.bytes
    let func := dFunc e.desc
    func = 0x104 ∧
    let item := word32 b 0
    let low := 1 ≤ item ∧ item ≤ 6 ∧ e.role < itemRole item
    ¬ low ∧
    w.proposalPending = false ∧
    (valueOk item (b.drop 4) = false ∨ w.itemReady item (b.drop 4) = false) := by
  decide +kernel

theorem meets_ManagementRequests_21 :
    let s := mgmtReads 0x104 16 36 2 (ledgerAt ready)
    let port := 0
    let tag := 7
    let data : List Byte := (leBytes 4 3 ++ leBytes 8 0 ++ leBytes 4 6)
    let r := 0
    let k := 1
    let off := 0
    let w := s.work
    ∃ e ∈ w.exec? r k,
    ∃ x ∈ w.jobFor (.desc r k),
    ∃ q ∈ w.outstanding port tag,
    s.acts = true ∧
    q.user = .job x.j off ∧
    q.isWrite = false ∧
    q.merge = false ∧
    q.cancelled = false ∧
    s.dev.ports.jobs.find? (fun y => y.j == x.j) = some x ∧
    x.left = 1 ∧
    x.bad = false ∧
    e.passed s.tb = false ∧
    s.dev.sec.conf = false ∧
    dOpc e.desc = 0x40 ∧
    let b := { x with pieces := x.pieces ++ [(off, sliceAt data 0 (64 * q.beats))] }.bytes
    let func := dFunc e.desc
    func = 0x104 ∧
    let item := word32 b 0
    let low := 1 ≤ item ∧ item ≤ 6 ∧ e.role < itemRole item
    ¬ low ∧
    w.proposalPending = false ∧
    valueOk item (b.drop 4) = true ∧
    w.itemReady item (b.drop 4) = true := by
  decide +kernel

theorem meets_ManagementRequests_22 :
    let s := mgmtReads 0x105 36 0 2 ready
    let port := 0
    let tag := 7
    let r := 0
    let k := 1
    let off := 0
    let w := s.work
    ∃ e ∈ w.exec? r k,
    ∃ x ∈ w.jobFor (.desc r k),
    ∃ q ∈ w.outstanding port tag,
    s.acts = true ∧
    q.user = .job x.j off ∧
    q.isWrite = false ∧
    q.merge = false ∧
    q.cancelled = false ∧
    s.dev.ports.jobs.find? (fun y => y.j == x.j) = some x ∧
    x.left = 1 ∧
    x.bad = false ∧
    e.passed s.tb = false ∧
    s.dev.sec.conf = false ∧
    dOpc e.desc = 0x40 ∧
    let func := dFunc e.desc
    func = 0x105 ∧
    s.dev.sec.proposal = none := by
  decide +kernel

theorem meets_ManagementRequests_23 :
    let s := mgmtReads 0x105 36 0 2 proposed
    let port := 0
    let tag := 7
    let data : List Byte := (leBytes 4 9 ++ List.replicate 32 0)
    let r := 0
    let k := 1
    let off := 0
    let w := s.work
    ∃ e ∈ w.exec? r k,
    ∃ x ∈ w.jobFor (.desc r k),
    ∃ q ∈ w.outstanding port tag,
    s.acts = true ∧
    q.user = .job x.j off ∧
    q.isWrite = false ∧
    q.merge = false ∧
    q.cancelled = false ∧
    s.dev.ports.jobs.find? (fun y => y.j == x.j) = some x ∧
    x.left = 1 ∧
    x.bad = false ∧
    e.passed s.tb = false ∧
    s.dev.sec.conf = false ∧
    dOpc e.desc = 0x40 ∧
    let b := { x with pieces := x.pieces ++ [(off, sliceAt data 0 (64 * q.beats))] }.bytes
    let func := dFunc e.desc
    func = 0x105 ∧
    ∃ p ∈ s.dev.sec.proposal,
    p.id ≠ word32 b 0 := by
  decide +kernel

theorem meets_ManagementRequests_24 :
    let s := mgmtReads 0x105 36 0 1 proposed
    let port := 0
    let tag := 7
    let data : List Byte := (leBytes 4 3 ++ List.replicate 32 0)
    let r := 0
    let k := 1
    let off := 0
    let w := s.work
    ∃ e ∈ w.exec? r k,
    ∃ x ∈ w.jobFor (.desc r k),
    ∃ q ∈ w.outstanding port tag,
    s.acts = true ∧
    q.user = .job x.j off ∧
    q.isWrite = false ∧
    q.merge = false ∧
    q.cancelled = false ∧
    s.dev.ports.jobs.find? (fun y => y.j == x.j) = some x ∧
    x.left = 1 ∧
    x.bad = false ∧
    e.passed s.tb = false ∧
    s.dev.sec.conf = false ∧
    dOpc e.desc = 0x40 ∧
    let b := { x with pieces := x.pieces ++ [(off, sliceAt data 0 (64 * q.beats))] }.bytes
    let func := dFunc e.desc
    func = 0x105 ∧
    ∃ p ∈ s.dev.sec.proposal,
    p.id = word32 b 0 ∧
    (e.cred = p.cred ∨ e.role < 2) := by
  decide +kernel

theorem meets_ManagementRequests_25 :
    let s := mgmtReads 0x105 36 0 2 proposed
    let port := 0
    let tag := 7
    let data : List Byte := (leBytes 4 3 ++ List.replicate 32 0)
    let r := 0
    let k := 1
    let off := 0
    let w := s.work
    ∃ e ∈ w.exec? r k,
    ∃ x ∈ w.jobFor (.desc r k),
    ∃ q ∈ w.outstanding port tag,
    s.acts = true ∧
    q.user = .job x.j off ∧
    q.isWrite = false ∧
    q.merge = false ∧
    q.cancelled = false ∧
    s.dev.ports.jobs.find? (fun y => y.j == x.j) = some x ∧
    x.left = 1 ∧
    x.bad = false ∧
    e.passed s.tb = false ∧
    s.dev.sec.conf = false ∧
    dOpc e.desc = 0x40 ∧
    let b := { x with pieces := x.pieces ++ [(off, sliceAt data 0 (64 * q.beats))] }.bytes
    let func := dFunc e.desc
    func = 0x105 ∧
    ∃ p ∈ s.dev.sec.proposal,
    p.id = word32 b 0 ∧
    e.cred ≠ p.cred ∧
    2 ≤ e.role ∧
    sliceAt b 4 32 ≠ p.digest := by
  decide +kernel

theorem meets_ManagementRequests_26 :
    let s := mgmtReads 0x105 36 0 2 (dev (fun d =>
        { d with sec := { d.sec with proposal := some ⟨3, 1, 2, 5, List.replicate 64 1, List.replicate 32 2⟩ } }) (streamsOf .resident
        ready))
    let port := 0
    let tag := 7
    let data : List Byte := (leBytes 4 3 ++ List.replicate 32 2)
    let r := 0
    let k := 1
    let off := 0
    let w := s.work
    ∃ e ∈ w.exec? r k,
    ∃ x ∈ w.jobFor (.desc r k),
    ∃ q ∈ w.outstanding port tag,
    s.acts = true ∧
    q.user = .job x.j off ∧
    q.isWrite = false ∧
    q.merge = false ∧
    q.cancelled = false ∧
    s.dev.ports.jobs.find? (fun y => y.j == x.j) = some x ∧
    x.left = 1 ∧
    x.bad = false ∧
    e.passed s.tb = false ∧
    s.dev.sec.conf = false ∧
    dOpc e.desc = 0x40 ∧
    let b := { x with pieces := x.pieces ++ [(off, sliceAt data 0 (64 * q.beats))] }.bytes
    let func := dFunc e.desc
    func = 0x105 ∧
    ∃ p ∈ s.dev.sec.proposal,
    p.id = word32 b 0 ∧
    e.cred ≠ p.cred ∧
    2 ≤ e.role ∧
    sliceAt b 4 32 = p.digest ∧
    w.commitReady p.item p.value = false := by
  decide +kernel

theorem meets_ManagementRequests_27 :
    let s := mgmtReads 0x105 36 0 2 (ledgerAt proposed)
    let port := 0
    let tag := 7
    let data : List Byte := (leBytes 4 3 ++ List.replicate 32 2)
    let r := 0
    let k := 1
    let off := 0
    let w := s.work
    ∃ e ∈ w.exec? r k,
    ∃ x ∈ w.jobFor (.desc r k),
    ∃ q ∈ w.outstanding port tag,
    s.acts = true ∧
    q.user = .job x.j off ∧
    q.isWrite = false ∧
    q.merge = false ∧
    q.cancelled = false ∧
    s.dev.ports.jobs.find? (fun y => y.j == x.j) = some x ∧
    x.left = 1 ∧
    x.bad = false ∧
    e.passed s.tb = false ∧
    s.dev.sec.conf = false ∧
    dOpc e.desc = 0x40 ∧
    let b := { x with pieces := x.pieces ++ [(off, sliceAt data 0 (64 * q.beats))] }.bytes
    let func := dFunc e.desc
    func = 0x105 ∧
    ∃ p ∈ s.dev.sec.proposal,
    p.id = word32 b 0 ∧
    e.cred ≠ p.cred ∧
    2 ≤ e.role ∧
    sliceAt b 4 32 = p.digest ∧
    w.commitReady p.item p.value = true ∧
    p.item ≠ 4 := by
  decide +kernel

theorem meets_ManagementRequests_28 :
    let s := mgmtReads 0x106 4 0 2 ready
    let port := 0
    let tag := 7
    let r := 0
    let k := 1
    let off := 0
    let w := s.work
    ∃ e ∈ w.exec? r k,
    ∃ x ∈ w.jobFor (.desc r k),
    ∃ q ∈ w.outstanding port tag,
    s.acts = true ∧
    q.user = .job x.j off ∧
    q.isWrite = false ∧
    q.merge = false ∧
    q.cancelled = false ∧
    s.dev.ports.jobs.find? (fun y => y.j == x.j) = some x ∧
    x.left = 1 ∧
    x.bad = false ∧
    e.passed s.tb = false ∧
    s.dev.sec.conf = false ∧
    dOpc e.desc = 0x40 ∧
    let func := dFunc e.desc
    func = 0x106 ∧
    s.dev.sec.proposal = none := by
  decide +kernel

theorem meets_ManagementRequests_29 :
    let s := mgmtReads 0x106 4 0 2 proposed
    let port := 0
    let tag := 7
    let r := 0
    let k := 1
    let off := 0
    let w := s.work
    ∃ e ∈ w.exec? r k,
    ∃ x ∈ w.jobFor (.desc r k),
    ∃ q ∈ w.outstanding port tag,
    s.acts = true ∧
    q.user = .job x.j off ∧
    q.isWrite = false ∧
    q.merge = false ∧
    q.cancelled = false ∧
    s.dev.ports.jobs.find? (fun y => y.j == x.j) = some x ∧
    x.left = 1 ∧
    x.bad = false ∧
    e.passed s.tb = false ∧
    s.dev.sec.conf = false ∧
    dOpc e.desc = 0x40 ∧
    let func := dFunc e.desc
    func = 0x106 ∧
    ∃ p ∈ s.dev.sec.proposal,
    ¬ (p.ring = r ∧ p.cred = e.cred) := by
  decide +kernel

theorem meets_ManagementRequests_30 :
    let s := mgmtReads 0x106 4 0 2 (dev (fun d =>
        { d with sec := { d.sec with proposal := some ⟨3, 0, 1, 2, List.replicate 64 1, List.replicate 32 2⟩ } }) ready)
    let port := 0
    let tag := 7
    let r := 0
    let k := 1
    let off := 0
    let w := s.work
    ∃ e ∈ w.exec? r k,
    ∃ x ∈ w.jobFor (.desc r k),
    ∃ q ∈ w.outstanding port tag,
    s.acts = true ∧
    q.user = .job x.j off ∧
    q.isWrite = false ∧
    q.merge = false ∧
    q.cancelled = false ∧
    s.dev.ports.jobs.find? (fun y => y.j == x.j) = some x ∧
    x.left = 1 ∧
    x.bad = false ∧
    e.passed s.tb = false ∧
    s.dev.sec.conf = false ∧
    dOpc e.desc = 0x40 ∧
    let func := dFunc e.desc
    func = 0x106 ∧
    ∃ p ∈ s.dev.sec.proposal,
    p.ring = r ∧
    p.cred = e.cred := by
  decide +kernel

theorem meets_ManagementRequests_31 :
    let s := mgmtReads 0x200 4 16 3 (dev (fun d => { d with saf := { d.saf with retRec := List.replicate 16 2 } }) ready)
    let port := 0
    let tag := 7
    let r := 0
    let k := 1
    let off := 0
    let w := s.work
    ∃ e ∈ w.exec? r k,
    ∃ x ∈ w.jobFor (.desc r k),
    ∃ q ∈ w.outstanding port tag,
    s.acts = true ∧
    q.user = .job x.j off ∧
    q.isWrite = false ∧
    q.merge = false ∧
    q.cancelled = false ∧
    s.dev.ports.jobs.find? (fun y => y.j == x.j) = some x ∧
    x.left = 1 ∧
    x.bad = false ∧
    e.passed s.tb = false ∧
    s.dev.sec.conf = false ∧
    dOpc e.desc = 0x40 ∧
    let func := dFunc e.desc
    func = 0x200 ∧
    s.dev.saf.retRec ≠ [] := by
  decide +kernel

theorem meets_ManagementRequests_32 :
    let s := mgmtReads 0x201 4 0 3 ready
    let port := 0
    let tag := 7
    let data : List Byte := (leBytes 4 2)
    let r := 0
    let k := 1
    let off := 0
    let w := s.work
    ∃ e ∈ w.exec? r k,
    ∃ x ∈ w.jobFor (.desc r k),
    ∃ q ∈ w.outstanding port tag,
    s.acts = true ∧
    q.user = .job x.j off ∧
    q.isWrite = false ∧
    q.merge = false ∧
    q.cancelled = false ∧
    s.dev.ports.jobs.find? (fun y => y.j == x.j) = some x ∧
    x.left = 1 ∧
    x.bad = false ∧
    e.passed s.tb = false ∧
    s.dev.sec.conf = false ∧
    dOpc e.desc = 0x40 ∧
    let b := { x with pieces := x.pieces ++ [(off, sliceAt data 0 (64 * q.beats))] }.bytes
    let func := dFunc e.desc
    func = 0x201 ∧
    let p := bitsOf (word32 b 0) 0 5
    let may := s.dev.cfgAddr 0x118 ≠ 0 ∧ p ∈ s.dev.inService ∧ 2 ≤ s.dev.inService.length
    ¬ may := by
  decide +kernel

theorem meets_ManagementRequests_33 :
    let s := mgmtReads 0x201 4 0 3 (reg 0x118 0x5000 ready)
    let port := 0
    let tag := 7
    let data : List Byte := (leBytes 4 2)
    let r := 0
    let k := 1
    let off := 0
    let w := s.work
    ∃ e ∈ w.exec? r k,
    ∃ x ∈ w.jobFor (.desc r k),
    ∃ q ∈ w.outstanding port tag,
    s.acts = true ∧
    q.user = .job x.j off ∧
    q.isWrite = false ∧
    q.merge = false ∧
    q.cancelled = false ∧
    s.dev.ports.jobs.find? (fun y => y.j == x.j) = some x ∧
    x.left = 1 ∧
    x.bad = false ∧
    e.passed s.tb = false ∧
    s.dev.sec.conf = false ∧
    dOpc e.desc = 0x40 ∧
    let b := { x with pieces := x.pieces ++ [(off, sliceAt data 0 (64 * q.beats))] }.bytes
    let func := dFunc e.desc
    func = 0x201 ∧
    let p := bitsOf (word32 b 0) 0 5
    let may := s.dev.cfgAddr 0x118 ≠ 0 ∧ p ∈ s.dev.inService ∧ 2 ≤ s.dev.inService.length
    may := by
  decide +kernel

theorem meets_ManagementRequests_34 :
    let s := mgmtReads 0x202 12 0 3 (ledgerAt ready)
    let port := 0
    let tag := 7
    let r := 0
    let k := 1
    let off := 0
    let w := s.work
    ∃ e ∈ w.exec? r k,
    ∃ x ∈ w.jobFor (.desc r k),
    ∃ q ∈ w.outstanding port tag,
    s.acts = true ∧
    q.user = .job x.j off ∧
    q.isWrite = false ∧
    q.merge = false ∧
    q.cancelled = false ∧
    s.dev.ports.jobs.find? (fun y => y.j == x.j) = some x ∧
    x.left = 1 ∧
    x.bad = false ∧
    e.passed s.tb = false ∧
    s.dev.sec.conf = false ∧
    dOpc e.desc = 0x40 ∧
    let func := dFunc e.desc
    func = 0x202 := by
  decide +kernel

theorem meets_ManagementRequests_36 :
    let s := mgmtReads 0x103 32 0 1 (keyed ready)
    let port := 0
    let tag := 7
    let r := 0
    let k := 1
    let off := 0
    let w := s.work
    ∃ e ∈ w.exec? r k,
    ∃ x ∈ w.jobFor (.desc r k),
    ∃ q ∈ w.outstanding port tag,
    s.acts = true ∧
    q.user = .job x.j off ∧
    q.isWrite = false ∧
    q.merge = false ∧
    q.cancelled = false ∧
    s.dev.ports.jobs.find? (fun y => y.j == x.j) = some x ∧
    x.left = 1 ∧
    x.bad = false ∧
    e.passed s.tb = false ∧
    s.dev.sec.conf = false ∧
    dOpc e.desc = 0x40 ∧
    let func := dFunc e.desc
    func = 0x103 ∧
    s.dev.sec.keys ≠ none ∧
    s.dev.sec.rngOk = true ∧
    e.ph = .work ∧
    s.dev.led.items = [] ∧
    s.dev.led.entry = none ∧
    (∀ y ∈ s.dev.rings.execs, ¬ (dOpc y.desc = 0x40 ∧ dFunc y.desc = 0x103 ∧ y.stage = 2)) := by
  decide +kernel

theorem meets_ManagementRequests_37 :
    let s := mgmtReads 0x107 0 2048 1 ready
    let port := 0
    let tag := 7
    let r := 0
    let k := 1
    let off := 0
    let w := s.work
    ∃ e ∈ w.exec? r k,
    ∃ x ∈ w.jobFor (.desc r k),
    ∃ q ∈ w.outstanding port tag,
    s.acts = true ∧
    q.user = .job x.j off ∧
    q.isWrite = false ∧
    q.merge = false ∧
    q.cancelled = false ∧
    s.dev.ports.jobs.find? (fun y => y.j == x.j) = some x ∧
    x.left = 1 ∧
    x.bad = false ∧
    e.passed s.tb = false ∧
    s.dev.sec.conf = false ∧
    dOpc e.desc = 0x40 ∧
    let func := dFunc e.desc
    func = 0x107 ∧
    2048 ≤ mRcap e.desc := by
  decide +kernel

end Sys2Proof.Witness
end

