-- ==== Sys2Proof/Tests/Witnesses4.lean ====
section
/-! SUPPORT. Witnesses, part 4: for each statement of Certificates/Slice0/Obligations.lean, from PrivilegedActions to
TableBanks, states and operands that meet all the hypotheses of a clause together. `meets_<statement>_<n>` names the statement. -/

namespace Sys2Proof.Witness

-- One theorem at a time: evaluated side by side, each would hold a thread of its own.
set_option Elab.async false
set_option linter.unusedVariables false
set_option synthInstance.maxSize 4000
set_option synthInstance.maxHeartbeats 200000

open Sys2Proof Sys2Proof.Machine Sys2Proof.Tests

-- PrivilegedActions ---------------------------------------------------------------------------------------------------------------------------------

theorem meets_PrivilegedActions_1 :
    let s := mgmtActs 2 0 (leBytes 4 (40 + 19 * 65536) ++ leBytes 4 0x12345678) (streamsOf .resident ready)
    ∃ bytes ∈ s.dev.led.entry,
    ∃ it ∈ s.dev.led.items,
    let r := 0
    let k := 1
    let w := s.work
    ∃ e ∈ w.exec? r k,
    s.acts = true ∧
    s.dev.led.accepted = true ∧
    s.dev.led.items = [it] ∧
    it.next = .action r k ∧
    (e.ph = .work ∨ e.ph = .wait) ∧
    e.passed s.tb = false ∧
    (∀ x ∈ s.dev.rings.execs, dOpc x.desc = 0x40 → dFunc x.desc = 0x103 → x.stage ≠ 2) ∧
    let b := e.data
    let func := dFunc e.desc
    let t := bitsOf (word32 b 0) 0 16
    dOpc e.desc = 0x40 ∧
    func = 2 ∧
    (w.ctx t).st ≠ .free ∧
    (w.ctx t).st ≠ .quarantined := by
  decide +kernel

theorem meets_PrivilegedActions_2 :
    let s := mgmtActs 3 0 (leBytes 4 40) (streamsOf .quarantined ready)
    ∃ bytes ∈ s.dev.led.entry,
    ∃ it ∈ s.dev.led.items,
    let r := 0
    let k := 1
    let w := s.work
    ∃ e ∈ w.exec? r k,
    s.acts = true ∧
    s.dev.led.accepted = true ∧
    s.dev.led.items = [it] ∧
    it.next = .action r k ∧
    (e.ph = .work ∨ e.ph = .wait) ∧
    e.passed s.tb = false ∧
    (∀ x ∈ s.dev.rings.execs, dOpc x.desc = 0x40 → dFunc x.desc = 0x103 → x.stage ≠ 2) ∧
    let b := e.data
    let func := dFunc e.desc
    let t := bitsOf (word32 b 0) 0 16
    dOpc e.desc = 0x40 ∧
    func = 3 ∧
    (w.ctx t).st = .quarantined ∧
    t ∉ s.dev.arm.ctxBad := by
  decide +kernel

theorem meets_PrivilegedActions_3 :
    let s := mgmtActs 0x101 0 (leBytes 4 1 ++ pub ++ List.replicate 64 3) (creds ready)
    ∃ bytes ∈ s.dev.led.entry,
    ∃ it ∈ s.dev.led.items,
    let r := 0
    let k := 1
    let w := s.work
    ∃ e ∈ w.exec? r k,
    s.acts = true ∧
    s.dev.led.accepted = true ∧
    s.dev.led.items = [it] ∧
    it.next = .action r k ∧
    (e.ph = .work ∨ e.ph = .wait) ∧
    e.passed s.tb = false ∧
    (∀ x ∈ s.dev.rings.execs, dOpc x.desc = 0x40 → dFunc x.desc = 0x103 → x.stage ≠ 2) ∧
    let func := dFunc e.desc
    dOpc e.desc = 0x40 ∧
    func = 0x101 := by
  decide +kernel

theorem meets_PrivilegedActions_4 :
    let s := mgmtActs 0x102 0 [] (dev (fun d => { d with sec := { d.sec with sessions := [⟨0, 1, 2⟩] } }) ready)
    ∃ bytes ∈ s.dev.led.entry,
    ∃ it ∈ s.dev.led.items,
    let r := 0
    let k := 1
    let w := s.work
    ∃ e ∈ w.exec? r k,
    s.acts = true ∧
    s.dev.led.accepted = true ∧
    s.dev.led.items = [it] ∧
    it.next = .action r k ∧
    (e.ph = .work ∨ e.ph = .wait) ∧
    e.passed s.tb = false ∧
    (∀ x ∈ s.dev.rings.execs, dOpc x.desc = 0x40 → dFunc x.desc = 0x103 → x.stage ≠ 2) ∧
    let func := dFunc e.desc
    dOpc e.desc = 0x40 ∧
    func = 0x102 := by
  decide +kernel

theorem meets_PrivilegedActions_5 :
    let s := mgmtActs 0x103 256 (List.replicate 128 4) (keyed ready)
    ∃ bytes ∈ s.dev.led.entry,
    ∃ it ∈ s.dev.led.items,
    let r := 0
    let k := 1
    let w := s.work
    ∃ e ∈ w.exec? r k,
    s.acts = true ∧
    s.dev.led.accepted = true ∧
    s.dev.led.items = [it] ∧
    it.next = .action r k ∧
    (e.ph = .work ∨ e.ph = .wait) ∧
    e.passed s.tb = false ∧
    (∀ x ∈ s.dev.rings.execs, dOpc x.desc = 0x40 → dFunc x.desc = 0x103 → x.stage ≠ 2) ∧
    let func := dFunc e.desc
    dOpc e.desc = 0x40 ∧
    func = 0x103 ∧
    (∀ p, s.dev.sec.proposal = some p → p.item ≠ 4) := by
  decide +kernel

theorem meets_PrivilegedActions_6 :
    let s := mgmtActs 0x104 36 (leBytes 4 3 ++ leBytes 8 0 ++ leBytes 4 6) ready
    ∃ bytes ∈ s.dev.led.entry,
    ∃ it ∈ s.dev.led.items,
    let r := 0
    let k := 1
    let w := s.work
    ∃ e ∈ w.exec? r k,
    s.acts = true ∧
    s.dev.led.accepted = true ∧
    s.dev.led.items = [it] ∧
    it.next = .action r k ∧
    (e.ph = .work ∨ e.ph = .wait) ∧
    e.passed s.tb = false ∧
    (∀ x ∈ s.dev.rings.execs, dOpc x.desc = 0x40 → dFunc x.desc = 0x103 → x.stage ≠ 2) ∧
    let func := dFunc e.desc
    dOpc e.desc = 0x40 ∧
    func = 0x104 := by
  decide +kernel

theorem meets_PrivilegedActions_7 :
    let s := mgmtActs 0x105 0 (leBytes 4 3 ++ leBytes 8 0x40000 ++ leBytes 4 6) ready
    ∃ bytes ∈ s.dev.led.entry,
    ∃ it ∈ s.dev.led.items,
    let r := 0
    let k := 1
    let w := s.work
    ∃ e ∈ w.exec? r k,
    s.acts = true ∧
    s.dev.led.accepted = true ∧
    s.dev.led.items = [it] ∧
    it.next = .action r k ∧
    (e.ph = .work ∨ e.ph = .wait) ∧
    e.passed s.tb = false ∧
    (∀ x ∈ s.dev.rings.execs, dOpc x.desc = 0x40 → dFunc x.desc = 0x103 → x.stage ≠ 2) ∧
    let b := e.data
    let func := dFunc e.desc
    dOpc e.desc = 0x40 ∧
    func = 0x105 ∧
    word32 b 0 ≤ 3 := by
  decide +kernel

theorem meets_PrivilegedActions_8 :
    let s := mgmtActs 0x201 0 (leBytes 4 2) (reg 0x118 0x5000 ready)
    ∃ bytes ∈ s.dev.led.entry,
    ∃ it ∈ s.dev.led.items,
    let r := 0
    let k := 1
    let w := s.work
    ∃ e ∈ w.exec? r k,
    s.acts = true ∧
    s.dev.led.accepted = true ∧
    s.dev.led.items = [it] ∧
    it.next = .action r k ∧
    (e.ph = .work ∨ e.ph = .wait) ∧
    e.passed s.tb = false ∧
    (∀ x ∈ s.dev.rings.execs, dOpc x.desc = 0x40 → dFunc x.desc = 0x103 → x.stage ≠ 2) ∧
    let b := e.data
    let func := dFunc e.desc
    dOpc e.desc = 0x40 ∧
    func = 0x201 ∧
    let p := bitsOf (word32 b 0) 0 5
    s.dev.cfgAddr 0x118 ≠ 0 ∧
    p ∈ s.dev.inService ∧
    2 ≤ s.dev.inService.length ∧
    p < s.dev.cores.length := by
  decide +kernel

theorem meets_PrivilegedActions_9 :
    let s := mgmtActs 0x202 0 (leBytes 4 0x5000 ++ leBytes 4 0 ++ leBytes 4 16) ready
    ∃ bytes ∈ s.dev.led.entry,
    ∃ it ∈ s.dev.led.items,
    let r := 0
    let k := 1
    let w := s.work
    ∃ e ∈ w.exec? r k,
    s.acts = true ∧
    s.dev.led.accepted = true ∧
    s.dev.led.items = [it] ∧
    it.next = .action r k ∧
    (e.ph = .work ∨ e.ph = .wait) ∧
    e.passed s.tb = false ∧
    (∀ x ∈ s.dev.rings.execs, dOpc x.desc = 0x40 → dFunc x.desc = 0x103 → x.stage ≠ 2) ∧
    let func := dFunc e.desc
    dOpc e.desc = 0x40 ∧
    func = 0x202 := by
  decide +kernel

theorem meets_PrivilegedActions_10 :
    let s := killHolds (acts (loadDesc 0x20 0 704) modelImage ready)
    ∃ bytes ∈ s.dev.led.entry,
    ∃ it ∈ s.dev.led.items,
    let r := 0
    let k := 1
    let w := s.work
    ∃ e ∈ w.exec? r k,
    s.acts = true ∧
    s.dev.led.accepted = true ∧
    s.dev.led.items = [it] ∧
    it.next = .action r k ∧
    (e.ph = .work ∨ e.ph = .wait) ∧
    e.passed s.tb = false ∧
    (∀ x ∈ s.dev.rings.execs, dOpc x.desc = 0x40 → dFunc x.desc = 0x103 → x.stage ≠ 2) ∧
    dOpc e.desc = 0x20 ∧
    w.killHeld (dJob e.desc) = true := by
  decide +kernel

theorem meets_PrivilegedActions_11 :
    let s := acts (loadDesc 0x20 0 704) modelImage ready
    ∃ bytes ∈ s.dev.led.entry,
    ∃ it ∈ s.dev.led.items,
    let r := 0
    let k := 1
    let w := s.work
    ∃ e ∈ w.exec? r k,
    s.acts = true ∧
    s.dev.led.accepted = true ∧
    s.dev.led.items = [it] ∧
    it.next = .action r k ∧
    (e.ph = .work ∨ e.ph = .wait) ∧
    e.passed s.tb = false ∧
    (∀ x ∈ s.dev.rings.execs, dOpc x.desc = 0x40 → dFunc x.desc = 0x103 → x.stage ≠ 2) ∧
    dOpc e.desc = 0x20 ∧
    w.killHeld (dJob e.desc) = false := by
  decide +kernel

theorem meets_PrivilegedActions_12 :
    let s := acts (noJob 0x21 5 []) tableImage ready
    ∃ bytes ∈ s.dev.led.entry,
    ∃ it ∈ s.dev.led.items,
    let r := 0
    let k := 1
    let w := s.work
    ∃ e ∈ w.exec? r k,
    s.acts = true ∧
    s.dev.led.accepted = true ∧
    s.dev.led.items = [it] ∧
    it.next = .action r k ∧
    (e.ph = .work ∨ e.ph = .wait) ∧
    e.passed s.tb = false ∧
    (∀ x ∈ s.dev.rings.execs, dOpc x.desc = 0x40 → dFunc x.desc = 0x103 → x.stage ≠ 2) ∧
    dOpc e.desc = 0x21 := by
  decide +kernel

-- StepLanes -----------------------------------------------------------------------------------------------------------------------------------------

theorem meets_StepLanes_1 :
    let s := queuedDesc 1 step2 (some (words [40, 0, 0, 0, 42, 0, 0, 0])) (streamsOf .resident ready)
    let i : Instr := .step 0
    let w := s.work
    let r := 0
    let opc := 1
    let func := 0
    ∃ q ∈ (s.work.sq r).queue,
    descCommand i = some (r, opc, func) ∧
    s.begins r q = true ∧
    descMatches opc func q.desc = true ∧
    (opc = 1 ∨ opc = 2 ∨ opc = 3) ∧
    stepPre q w = 0 ∧
    let twin := ∃ x ∈ s.dev.rings.execs, isStepOpc (dOpc x.desc) = true ∧ dJob x.desc = dJob q.desc ∧ dDl x.desc = dDl q.desc ∧
        (x.ph = .wait ∨ x.ph = .ready ∨ x.ph = .run ∨ x.ph = .commit)
    let pairable := 0
    (pairable = 1 ∧ dDl q.desc ≠ 2 ^ 64 - 1 ∧ ¬ twin ∨ pairable = 0 ∧ (dDl q.desc = 2 ^ 64 - 1 ∨ twin)) ∧
    let e : Exec :=
        { s.begunExec r q with ph := .wait, stage := pairable, lanes := q.lanes.map fun l => { Lane.init with stream := l.1, egv := l.2.1, expgen := l.2.2 } }
    let c := fun (l : Lane) => w.ctx l.stream
    let at_ := fun (l : Lane) (st : StreamSt) => (c l).st = st
    let stale := fun (l : Lane) => at_ l .resident ∧ l.egv = true ∧ (c l).gen.toNat ≠ l.expgen
    let sound := fun (l : Lane) => at_ l .resident → (c l).model = dModel e.desc ∧ ¬ stale l
    let settled := ∀ l ∈ e.lanes, at_ l .resident ∨ at_ l .free ∨ at_ l .quarantined
    (∀ l ∈ e.lanes, l.ph = .wait) ∧
    (e.lanes.map Lane.stream).Nodup ∧
    e.ph = .wait ∧
    e.passed s.tb = false ∧
    (∀ l ∈ e.lanes, ∀ y ∈ s.dev.rings.execs, y.order < e.order → y.wants l.stream = false) ∧
    settled ∧
    (∀ l ∈ e.lanes, sound l) ∧
    (dOpc e.desc = 1 ∨ (∀ l ∈ e.lanes, at_ l .resident)) := by
  decide +kernel

theorem meets_StepLanes_2 :
    let s := queuedDesc 1 (noJob 2 (5 * 2 ^ 24 + 2) [(0x30, leBytes 4 42)]) none (streamsOf .resident ready)
    let i : Instr := .chunk 0
    let w := s.work
    let r := 0
    let opc := 2
    let func := 0
    ∃ q ∈ (s.work.sq r).queue,
    descCommand i = some (r, opc, func) ∧
    s.begins r q = true ∧
    descMatches opc func q.desc = true ∧
    (opc = 1 ∨ opc = 2 ∨ opc = 3) ∧
    stepPre q w = 0 ∧
    let twin := ∃ x ∈ s.dev.rings.execs, isStepOpc (dOpc x.desc) = true ∧ dJob x.desc = dJob q.desc ∧ dDl x.desc = dDl q.desc ∧
        (x.ph = .wait ∨ x.ph = .ready ∨ x.ph = .run ∨ x.ph = .commit)
    let pairable := 0
    (pairable = 1 ∧ dDl q.desc ≠ 2 ^ 64 - 1 ∧ ¬ twin ∨ pairable = 0 ∧ (dDl q.desc = 2 ^ 64 - 1 ∨ twin)) ∧
    let e : Exec :=
        { s.begunExec r q with ph := .wait, stage := pairable, lanes := q.lanes.map fun l => { Lane.init with stream := l.1, egv := l.2.1, expgen := l.2.2 } }
    let c := fun (l : Lane) => w.ctx l.stream
    let at_ := fun (l : Lane) (st : StreamSt) => (c l).st = st
    let stale := fun (l : Lane) => at_ l .resident ∧ l.egv = true ∧ (c l).gen.toNat ≠ l.expgen
    let sound := fun (l : Lane) => at_ l .resident → (c l).model = dModel e.desc ∧ ¬ stale l
    let settled := ∀ l ∈ e.lanes, at_ l .resident ∨ at_ l .free ∨ at_ l .quarantined
    (∀ l ∈ e.lanes, l.ph = .wait) ∧
    (e.lanes.map Lane.stream).Nodup ∧
    e.ph = .wait ∧
    e.passed s.tb = false ∧
    (∀ l ∈ e.lanes, ∀ y ∈ s.dev.rings.execs, y.order < e.order → y.wants l.stream = false) ∧
    settled ∧
    (∀ l ∈ e.lanes, sound l) ∧
    ∃ l ∈ e.lanes,
    dOpc e.desc ≠ 1 ∧
    e.lanes = [l] ∧
    ¬ at_ l .resident := by
  decide +kernel

theorem meets_StepLanes_3 :
    let s := queuedDesc 1 step1 (some (list40Gen 9)) (streamsOf .resident ready)
    let i : Instr := .step 0
    let w := s.work
    let r := 0
    let opc := 1
    let func := 0
    ∃ q ∈ (s.work.sq r).queue,
    descCommand i = some (r, opc, func) ∧
    s.begins r q = true ∧
    descMatches opc func q.desc = true ∧
    (opc = 1 ∨ opc = 2 ∨ opc = 3) ∧
    stepPre q w = 0 ∧
    let twin := ∃ x ∈ s.dev.rings.execs, isStepOpc (dOpc x.desc) = true ∧ dJob x.desc = dJob q.desc ∧ dDl x.desc = dDl q.desc ∧
        (x.ph = .wait ∨ x.ph = .ready ∨ x.ph = .run ∨ x.ph = .commit)
    let pairable := 0
    (pairable = 1 ∧ dDl q.desc ≠ 2 ^ 64 - 1 ∧ ¬ twin ∨ pairable = 0 ∧ (dDl q.desc = 2 ^ 64 - 1 ∨ twin)) ∧
    let e : Exec :=
        { s.begunExec r q with ph := .wait, stage := pairable, lanes := q.lanes.map fun l => { Lane.init with stream := l.1, egv := l.2.1, expgen := l.2.2 } }
    let c := fun (l : Lane) => w.ctx l.stream
    let at_ := fun (l : Lane) (st : StreamSt) => (c l).st = st
    let stale := fun (l : Lane) => at_ l .resident ∧ l.egv = true ∧ (c l).gen.toNat ≠ l.expgen
    let settled := ∀ l ∈ e.lanes, at_ l .resident ∨ at_ l .free ∨ at_ l .quarantined
    (∀ l ∈ e.lanes, l.ph = .wait) ∧
    (e.lanes.map Lane.stream).Nodup ∧
    e.ph = .wait ∧
    e.passed s.tb = false ∧
    (∀ l ∈ e.lanes, ∀ y ∈ s.dev.rings.execs, y.order < e.order → y.wants l.stream = false) ∧
    settled ∧
    (∀ l ∈ e.lanes, at_ l .resident → (c l).model = dModel e.desc) ∧
    (∃ l ∈ e.lanes, stale l) := by
  decide +kernel

theorem meets_StepLanes_4 :
    let s := queuedDesc 1 step1 (some (list40Gen 2)) (streamsOf .busy ready)
    let i : Instr := .step 0
    let w := s.work
    let r := 0
    let opc := 1
    let func := 0
    ∃ q ∈ (s.work.sq r).queue,
    descCommand i = some (r, opc, func) ∧
    s.begins r q = true ∧
    descMatches opc func q.desc = true ∧
    (opc = 1 ∨ opc = 2 ∨ opc = 3) ∧
    stepPre q w = 0 ∧
    let twin := ∃ x ∈ s.dev.rings.execs, isStepOpc (dOpc x.desc) = true ∧ dJob x.desc = dJob q.desc ∧ dDl x.desc = dDl q.desc ∧
        (x.ph = .wait ∨ x.ph = .ready ∨ x.ph = .run ∨ x.ph = .commit)
    let pairable := 0
    (pairable = 1 ∧ dDl q.desc ≠ 2 ^ 64 - 1 ∧ ¬ twin ∨ pairable = 0 ∧ (dDl q.desc = 2 ^ 64 - 1 ∨ twin)) ∧
    let e : Exec :=
        { s.begunExec r q with ph := .wait, stage := pairable, lanes := q.lanes.map fun l => { Lane.init with stream := l.1, egv := l.2.1, expgen := l.2.2 } }
    let c := fun (l : Lane) => w.ctx l.stream
    let at_ := fun (l : Lane) (st : StreamSt) => (c l).st = st
    (∀ l ∈ e.lanes, l.ph = .wait) ∧
    (e.lanes.map Lane.stream).Nodup ∧
    e.ph = .wait ∧
    e.passed s.tb = false ∧
    (∀ l ∈ e.lanes, ∀ y ∈ s.dev.rings.execs, y.order < e.order → y.wants l.stream = false) ∧
    (∀ l ∈ e.lanes, at_ l .busy ∨ at_ l .filling ∨ at_ l .spilling) ∧
    e.lanes ≠ [] := by
  decide +kernel

theorem meets_StepLanes_5 :
    let s := waits step2 [laneWait 40, laneWait 42] (streamsOf .resident ready)
    let w := s.work
    let r := 0
    let seq := 1
    ∃ e ∈ w.exec? r seq,
    s.acts = true ∧
    isStepOpc (dOpc e.desc) = true ∧
    let c := fun (l : Lane) => w.ctx l.stream
    let at_ := fun (l : Lane) (st : StreamSt) => (c l).st = st
    let stale := fun (l : Lane) => at_ l .resident ∧ l.egv = true ∧ (c l).gen.toNat ≠ l.expgen
    let sound := fun (l : Lane) => at_ l .resident → (c l).model = dModel e.desc ∧ ¬ stale l
    let settled := ∀ l ∈ e.lanes, at_ l .resident ∨ at_ l .free ∨ at_ l .quarantined
    (∀ l ∈ e.lanes, l.ph = .wait) ∧
    (e.lanes.map Lane.stream).Nodup ∧
    e.ph = .wait ∧
    e.passed s.tb = false ∧
    (∀ l ∈ e.lanes, ∀ y ∈ s.dev.rings.execs, y.order < e.order → y.wants l.stream = false) ∧
    settled ∧
    (∀ l ∈ e.lanes, sound l) ∧
    (dOpc e.desc = 1 ∨ (∀ l ∈ e.lanes, at_ l .resident)) := by
  decide +kernel

theorem meets_StepLanes_6 :
    let s := waits (chunkOf 2) [laneWait 40] (streamsOf .quarantined ready)
    let w := s.work
    let r := 0
    let seq := 1
    ∃ e ∈ w.exec? r seq,
    s.acts = true ∧
    isStepOpc (dOpc e.desc) = true ∧
    let c := fun (l : Lane) => w.ctx l.stream
    let at_ := fun (l : Lane) (st : StreamSt) => (c l).st = st
    let stale := fun (l : Lane) => at_ l .resident ∧ l.egv = true ∧ (c l).gen.toNat ≠ l.expgen
    let sound := fun (l : Lane) => at_ l .resident → (c l).model = dModel e.desc ∧ ¬ stale l
    let settled := ∀ l ∈ e.lanes, at_ l .resident ∨ at_ l .free ∨ at_ l .quarantined
    (∀ l ∈ e.lanes, l.ph = .wait) ∧
    (e.lanes.map Lane.stream).Nodup ∧
    e.ph = .wait ∧
    e.passed s.tb = false ∧
    (∀ l ∈ e.lanes, ∀ y ∈ s.dev.rings.execs, y.order < e.order → y.wants l.stream = false) ∧
    settled ∧
    (∀ l ∈ e.lanes, sound l) ∧
    ∃ l ∈ e.lanes,
    dOpc e.desc ≠ 1 ∧
    e.lanes = [l] ∧
    ¬ at_ l .resident := by
  decide +kernel

theorem meets_StepLanes_7 :
    let s := waits step1 [{ laneWait 40 with egv := true, expgen := 9 }] (streamsOf .resident ready)
    let w := s.work
    let r := 0
    let seq := 1
    ∃ e ∈ w.exec? r seq,
    s.acts = true ∧
    isStepOpc (dOpc e.desc) = true ∧
    let c := fun (l : Lane) => w.ctx l.stream
    let at_ := fun (l : Lane) (st : StreamSt) => (c l).st = st
    let stale := fun (l : Lane) => at_ l .resident ∧ l.egv = true ∧ (c l).gen.toNat ≠ l.expgen
    let settled := ∀ l ∈ e.lanes, at_ l .resident ∨ at_ l .free ∨ at_ l .quarantined
    (∀ l ∈ e.lanes, l.ph = .wait) ∧
    (e.lanes.map Lane.stream).Nodup ∧
    e.ph = .wait ∧
    e.passed s.tb = false ∧
    (∀ l ∈ e.lanes, ∀ y ∈ s.dev.rings.execs, y.order < e.order → y.wants l.stream = false) ∧
    settled ∧
    (∀ l ∈ e.lanes, at_ l .resident → (c l).model = dModel e.desc) ∧
    (∃ l ∈ e.lanes, stale l) := by
  decide +kernel

theorem meets_StepLanes_8 :
    let s := waits step1 [laneWait 40] (streamsOf .busy ready)
    let w := s.work
    let r := 0
    let seq := 1
    ∃ e ∈ w.exec? r seq,
    s.acts = true ∧
    isStepOpc (dOpc e.desc) = true ∧
    let c := fun (l : Lane) => w.ctx l.stream
    let at_ := fun (l : Lane) (st : StreamSt) => (c l).st = st
    (∀ l ∈ e.lanes, l.ph = .wait) ∧
    (e.lanes.map Lane.stream).Nodup ∧
    e.ph = .wait ∧
    e.passed s.tb = false ∧
    (∀ l ∈ e.lanes, ∀ y ∈ s.dev.rings.execs, y.order < e.order → y.wants l.stream = false) ∧
    (∀ l ∈ e.lanes, at_ l .busy ∨ at_ l .filling ∨ at_ l .spilling) ∧
    e.lanes ≠ [] := by
  decide +kernel

theorem meets_StepLanes_9 :
    let s := waits (loadDesc 0x21 5 64) [] (resyncing 1 ready)
    let w := s.work
    let r := 0
    let seq := 1
    ∃ e ∈ w.exec? r seq,
    s.acts = true ∧
    dOpc e.desc = 0x21 ∧
    e.ph = .wait ∧
    e.passed s.tb = false ∧
    let settled := ∀ p ∈ s.dev.inService, s.dev.rings.fences ≤ (s.core p).tables.switches ∧ (s.core p).tables.resync = false
    ¬ settled := by
  decide +kernel

theorem meets_StepLanes_10 :
    let s := waits (loadDesc 0x21 5 64) [] ready
    let w := s.work
    let r := 0
    let seq := 1
    ∃ e ∈ w.exec? r seq,
    s.acts = true ∧
    dOpc e.desc = 0x21 ∧
    e.ph = .wait ∧
    e.passed s.tb = false ∧
    let settled := ∀ p ∈ s.dev.inService, s.dev.rings.fences ≤ (s.core p).tables.switches ∧ (s.core p).tables.resync = false
    settled ∧
    dW e.desc 0x18 ≠ 0 := by
  decide +kernel

theorem meets_StepLanes_11 :
    let s := begun (execOf (loadDesc 0x20 0 704) 2 3 modelImage) ready
    let w := s.work
    let r := 0
    let seq := 1
    ∃ e ∈ w.exec? r seq,
    s.acts = true ∧
    dOpc e.desc = 0x20 ∧
    e.ph = .work ∧
    e.passed s.tb = false ∧
    (e.stage ≠ 3 ∨ w.killHeld (dJob e.desc) = true) := by
  decide +kernel

theorem meets_StepLanes_12 :
    let s := begun (execOf (loadDesc 0x20 0 704) 3 3 modelImage) ready
    let w := s.work
    let r := 0
    let seq := 1
    ∃ e ∈ w.exec? r seq,
    s.acts = true ∧
    dOpc e.desc = 0x20 ∧
    e.ph = .work ∧
    e.passed s.tb = false ∧
    e.stage = 3 ∧
    w.killHeld (dJob e.desc) = false := by
  decide +kernel

-- StepProgress --------------------------------------------------------------------------------------------------------------------------------------

theorem meets_StepProgress_1 :
    let s := readyStep step1
    let r := 0
    let seq := 1
    let w := s.work
    ∃ e ∈ w.exec? r seq,
    s.acts = true ∧
    let waitsToBegin := fun (hold p : Nat) => bitOf hold p = false ∧ ∃ c, (s.core p).cur = some c ∧ c.begun = false
    let hold := 0
    ∃ z ∈ w.grantable e,
    let a := z.1
    let b := z.2
    ∃ m ∈ w.model? (dModel e.desc),
    e ∈ s.dev.rings.execs ∧
    (∀ p, p < 32 → ¬ waitsToBegin hold p) ∧
    (∀ y ∈ s.dev.rings.execs, (w.grantable y).isSome = true → y = e ∨ dPrio y.desc < dPrio e.desc ∨ (dPrio y.desc = dPrio e.desc ∧
        (dDl e.desc < dDl y.desc ∨ (dDl y.desc = dDl e.desc ∧ e.order < y.order)))) ∧
    e.passed s.tb = false ∧
    s.dev.peer.spanHeld = [] ∧
    s.dev.mesh.early = [] ∧
    (a ++ b).Nodup ∧
    (∀ p ∈ a ++ b, p < s.dev.cores.length ∧ p < 32) ∧
    (s.dev.rings.execs.filter (· == e)).length = 1 := by
  decide +kernel

theorem meets_StepProgress_2 :
    let s := notBegun (running [0x13] [])
    let r := 2
    let seq := 3
    let w := s.work
    ∃ e ∈ w.exec? r seq,
    s.acts = true ∧
    let hold := 0
    let p := 1
    ∃ c ∈ (s.core p).cur,
    ∃ m ∈ w.model? (dModel e.desc),
    p < 32 ∧
    p < s.dev.cores.length ∧
    bitOf hold p = false ∧
    c.begun = false ∧
    c.ring = r ∧
    c.seq = seq ∧
    c.ended = false ∧
    s.dev.peer.spanHeld = [] ∧
    s.dev.mesh.early = [] := by
  decide +kernel

theorem meets_StepProgress_3 :
    let s := killHolds (endedStep step1 [busyLane 40] [])
    let r := 0
    let seq := 1
    let w := s.work
    ∃ e ∈ w.exec? r seq,
    s.acts = true ∧
    isStepOpc (dOpc e.desc) = true ∧
    w.killHeld (dJob e.desc) = true := by
  decide +kernel

theorem meets_StepProgress_4 :
    let s := endedStep (runsLate true) [busyLane 40] []
    let r := 0
    let seq := 1
    let w := s.work
    ∃ e ∈ w.exec? r seq,
    s.acts = true ∧
    (∃ m ∈ w.model? (dModel e.desc),
    isStepOpc (dOpc e.desc) = true ∧
    w.killHeld (dJob e.desc) = false ∧
    e.ph = .run ∧
    (∀ p ∈ e.cores ++ e.checker, ∃ c, (s.core p).cur = some c ∧ c.ring = r ∧ c.seq = seq ∧ c.ended = true) ∧
    (∀ l ∈ e.lanes, ∀ x ∈ s.dev.arm.passes, x.stream ≠ l.stream) ∧
    (∀ p ∈ e.cores ++ e.checker, p < s.dev.cores.length) ∧
    e.passed s.tb = true ∧
    dPol e.desc = true) ∧
    (e.passed s.tb = true ∧
    e.ph = .run ∧
    dPol e.desc = true ∧
    isStepOpc (dOpc e.desc) = true) := by
  decide +kernel

theorem meets_StepProgress_5 :
    let s := digestOn (endedStep step1 [busyLane 40] [2, 3])
    let r := 0
    let seq := 1
    let w := s.work
    ∃ e ∈ w.exec? r seq,
    s.acts = true ∧
    ∃ m ∈ w.model? (dModel e.desc),
    isStepOpc (dOpc e.desc) = true ∧
    w.killHeld (dJob e.desc) = false ∧
    e.ph = .run ∧
    (∀ p ∈ e.cores ++ e.checker, ∃ c, (s.core p).cur = some c ∧ c.ring = r ∧ c.seq = seq ∧ c.ended = true) ∧
    (∀ l ∈ e.lanes, ∀ x ∈ s.dev.arm.passes, x.stream ≠ l.stream) ∧
    (∀ p ∈ e.cores ++ e.checker, p < s.dev.cores.length) ∧
    e.passed s.tb = false ∧
    e.checker ≠ [] ∧
    w.copyDigest e.cores ≠ w.copyDigest e.checker := by
  decide +kernel

theorem meets_StepProgress_6 :
    let s := endedStep step1 [busyLane 40] []
    let r := 0
    let seq := 1
    let w := s.work
    ∃ e ∈ w.exec? r seq,
    s.acts = true ∧
    ∃ m ∈ w.model? (dModel e.desc),
    isStepOpc (dOpc e.desc) = true ∧
    w.killHeld (dJob e.desc) = false ∧
    e.ph = .run ∧
    (∀ p ∈ e.cores ++ e.checker, ∃ c, (s.core p).cur = some c ∧ c.ring = r ∧ c.seq = seq ∧ c.ended = true) ∧
    (∀ l ∈ e.lanes, ∀ x ∈ s.dev.arm.passes, x.stream ≠ l.stream) ∧
    (∀ p ∈ e.cores ++ e.checker, p < s.dev.cores.length) ∧
    e.passed s.tb = false ∧
    (e.checker = [] ∨ w.copyDigest e.cores = w.copyDigest e.checker) ∧
    (e.lanes.map Lane.stream).Nodup ∧
    (∀ l ∈ e.lanes, l.committed = false ∧ (l.ph = .busy ∨ l.ph = .absent) ∧ l.poisoned = false) ∧
    fld (s.dev.cfgW 0x318) 0 3 = 0 := by
  decide +kernel

theorem meets_StepProgress_7 :
    let s := lateIn .ready false [busyLane 40]
    let r := 0
    let seq := 1
    let w := s.work
    ∃ e ∈ w.exec? r seq,
    s.acts = true ∧
    e.passed s.tb = true ∧
    e.missed = false ∧
    (∀ x ∈ s.dev.pt.streams, ¬ (x.ring = r ∧ x.seq = seq)) ∧
    (e.ph = .wait ∨ e.ph = .ready ∨ (e.ph = .run ∧ dPol e.desc = false) ∨ (e.ph = .work ∧ dOpc e.desc = 0x22)) := by
  decide +kernel

theorem meets_StepProgress_8 :
    let s := lateIn .wait false [{ laneWait 40 with ph := .fill }]
    let r := 0
    let seq := 1
    let w := s.work
    ∃ e ∈ w.exec? r seq,
    s.acts = true ∧
    e.passed s.tb = true ∧
    e.missed = false ∧
    (∀ x ∈ s.dev.pt.streams, ¬ (x.ring = r ∧ x.seq = seq)) ∧
    ∃ l ∈ e.lanes,
    let ls := (e.lanes).drop 1
    e.ph = .wait ∧
    isStepOpc (dOpc e.desc) = true ∧
    e.lanes = l :: ls ∧
    l.ph = .fill := by
  decide +kernel

theorem meets_StepProgress_9 :
    let s := lateIn .wait false [laneWait 40]
    let r := 0
    let seq := 1
    let w := s.work
    ∃ e ∈ w.exec? r seq,
    s.acts = true ∧
    e.passed s.tb = true ∧
    e.missed = false ∧
    (∀ x ∈ s.dev.pt.streams, ¬ (x.ring = r ∧ x.seq = seq)) ∧
    ∃ l ∈ e.lanes,
    let ls := (e.lanes).drop 1
    e.ph = .wait ∧
    isStepOpc (dOpc e.desc) = true ∧
    e.lanes = l :: ls ∧
    l.ph = .wait ∧
    (∀ x ∈ ls, x.ph ≠ .fill) := by
  decide +kernel

theorem meets_StepProgress_10 :
    let s := begun { execOf (desc 0x40 (9 + 2 ^ 23) 3 9000000000 []) 2 1 (leBytes 4 40) with ph := .wait } ready
    let r := 0
    let seq := 1
    let w := s.work
    ∃ e ∈ w.exec? r seq,
    s.acts = true ∧
    e.passed s.tb = true ∧
    e.missed = false ∧
    (∀ x ∈ s.dev.pt.streams, ¬ (x.ring = r ∧ x.seq = seq)) ∧
    ∃ t ∈ e.mgmtStream,
    e.ph = .wait := by
  decide +kernel

theorem meets_StepProgress_11 :
    let s := begun { execOf (desc 0x21 (9 + 2 ^ 23) 3 9000000000 []) 2 1 [] with ph := .wait } (resyncing 2 ready)
    let r := 0
    let seq := 1
    let w := s.work
    ∃ e ∈ w.exec? r seq,
    s.acts = true ∧
    e.passed s.tb = true ∧
    e.missed = false ∧
    (∀ x ∈ s.dev.pt.streams, ¬ (x.ring = r ∧ x.seq = seq)) ∧
    ∃ p ∈ s.dev.inService.find? (fun p => decide ((s.core p).tables.switches < s.dev.rings.fences) || (s.core p).tables.resync),
    ((dOpc e.desc = 0x21 ∧ e.ph = .wait) ∨ (dOpc e.desc = 0x22 ∧ (e.ph = .wait ∨ e.ph = .work))) := by
  decide +kernel

-- StreamDescriptors ---------------------------------------------------------------------------------------------------------------------------------

theorem meets_StreamDescriptors_1 :
    let i : Instr := .bind 0
    let s := queuedDesc 1 (streamDesc 0x10 (5 * 2 ^ 24) 40 []) none (streamsOf .busy ready)
    let r := 0
    let opc := 16
    let func := 0
    ∃ q ∈ (s.work.sq r).queue,
    descCommand i = some (r, opc, func) ∧
    s.begins r q = true ∧
    descMatches opc func q.desc = true ∧
    let w := s.work
    let k := dStream q.desc
    let c := w.ctx k
    let settled := c.st ≠ .busy ∧ c.st ≠ .filling ∧ c.st ≠ .spilling
    (∀ x ∈ s.dev.rings.execs, x.order < s.dev.rings.nextOrder → x.wants k = false) ∧
    (opc = 0x10 ∨ opc = 0x11 ∨ opc = 0x12 ∨ opc = 0x13) ∧
    ¬ settled := by
  decide +kernel

theorem meets_StreamDescriptors_2 :
    let i : Instr := .bind 0
    let s := queuedDesc 1 (streamDesc 0x10 (5 * 2 ^ 24) 40 []) none (streamsOf .quarantined ready)
    let r := 0
    let opc := 16
    let func := 0
    ∃ q ∈ (s.work.sq r).queue,
    descCommand i = some (r, opc, func) ∧
    s.begins r q = true ∧
    descMatches opc func q.desc = true ∧
    let w := s.work
    let k := dStream q.desc
    let c := w.ctx k
    let settled := c.st ≠ .busy ∧ c.st ≠ .filling ∧ c.st ≠ .spilling
    (∀ x ∈ s.dev.rings.execs, x.order < s.dev.rings.nextOrder → x.wants k = false) ∧
    opc = 0x10 ∧
    settled ∧
    c.st = .quarantined := by
  decide +kernel

theorem meets_StreamDescriptors_3 :
    let i : Instr := .bind 0
    let s := queuedDesc 1 (streamDesc 0x10 (5 * 2 ^ 24) 40 []) none (streamsOf .resident ready)
    let r := 0
    let opc := 16
    let func := 0
    ∃ q ∈ (s.work.sq r).queue,
    descCommand i = some (r, opc, func) ∧
    s.begins r q = true ∧
    descMatches opc func q.desc = true ∧
    let w := s.work
    let k := dStream q.desc
    let c := w.ctx k
    let settled := c.st ≠ .busy ∧ c.st ≠ .filling ∧ c.st ≠ .spilling
    (∀ x ∈ s.dev.rings.execs, x.order < s.dev.rings.nextOrder → x.wants k = false) ∧
    opc = 0x10 ∧
    settled ∧
    c.st ≠ .quarantined ∧
    c.st ≠ .free := by
  decide +kernel

theorem meets_StreamDescriptors_4 :
    let i : Instr := .bind 0
    let s := queuedDesc 1 (streamDesc 0x10 (6 * 2 ^ 24) 42 []) none (streamsOf .resident ready)
    let r := 0
    let opc := 16
    let func := 0
    ∃ q ∈ (s.work.sq r).queue,
    descCommand i = some (r, opc, func) ∧
    s.begins r q = true ∧
    descMatches opc func q.desc = true ∧
    let w := s.work
    let k := dStream q.desc
    let c := w.ctx k
    let settled := c.st ≠ .busy ∧ c.st ≠ .filling ∧ c.st ≠ .spilling
    (∀ x ∈ s.dev.rings.execs, x.order < s.dev.rings.nextOrder → x.wants k = false) ∧
    opc = 0x10 ∧
    settled ∧
    c.st = .free ∧
    w.live? (dModel q.desc) = none := by
  decide +kernel

theorem meets_StreamDescriptors_5 :
    let i : Instr := .bind 0
    let s := queuedDesc 1 (streamDesc 0x10 (5 * 2 ^ 24 + 2) 42 []) none (streamsOf .resident ready)
    let r := 0
    let opc := 16
    let func := 0
    ∃ q ∈ (s.work.sq r).queue,
    descCommand i = some (r, opc, func) ∧
    s.begins r q = true ∧
    descMatches opc func q.desc = true ∧
    let w := s.work
    let k := dStream q.desc
    let c := w.ctx k
    let settled := c.st ≠ .busy ∧ c.st ≠ .filling ∧ c.st ≠ .spilling
    (∀ x ∈ s.dev.rings.execs, x.order < s.dev.rings.nextOrder → x.wants k = false) ∧
    opc = 0x10 ∧
    settled ∧
    ∃ m ∈ w.live? (dModel q.desc),
    c.st = .free ∧
    dInit q.desc = 2 ∧
    word64 q.desc 0x20 = 0 := by
  decide +kernel

theorem meets_StreamDescriptors_6 :
    let i : Instr := .bind 0
    let s := queuedDesc 1 (streamDesc 0x10 (5 * 2 ^ 24) 42 []) none (dev (fun d =>
        { d with arm := { d.arm with pages := (List.range 8192).map fun p => (p, 1) } }) (streamsOf .resident ready))
    let r := 0
    let opc := 16
    let func := 0
    ∃ q ∈ (s.work.sq r).queue,
    descCommand i = some (r, opc, func) ∧
    s.begins r q = true ∧
    descMatches opc func q.desc = true ∧
    let w := s.work
    let k := dStream q.desc
    let c := w.ctx k
    let settled := c.st ≠ .busy ∧ c.st ≠ .filling ∧ c.st ≠ .spilling
    let full := fun (m : Model) => (s.dev.arm.freePages < 2 * m.halfPages ∨ 4096 ≤ s.dev.arm.residents) ∧
        (s.dev.cfgW 0x400).getLsbD 8 = false
    (∀ x ∈ s.dev.rings.execs, x.order < s.dev.rings.nextOrder → x.wants k = false) ∧
    opc = 0x10 ∧
    settled ∧
    ∃ m ∈ w.live? (dModel q.desc),
    c.st = .free ∧
    dInit q.desc ≠ 2 ∧
    full m := by
  decide +kernel

theorem meets_StreamDescriptors_7 :
    let i : Instr := .bind 0
    let s := queuedDesc 1 (streamDesc 0x10 (5 * 2 ^ 24 + 2) 42
        [(0x14, leBytes 4 7), (0x18, leBytes 8 0x300000002), (0x20, leBytes 8 0x4000)]) none (streamsOf .resident ready)
    let r := 0
    let opc := 16
    let func := 0
    ∃ q ∈ (s.work.sq r).queue,
    descCommand i = some (r, opc, func) ∧
    s.begins r q = true ∧
    descMatches opc func q.desc = true ∧
    let w := s.work
    let k := dStream q.desc
    let c := w.ctx k
    let settled := c.st ≠ .busy ∧ c.st ≠ .filling ∧ c.st ≠ .spilling
    (∀ x ∈ s.dev.rings.execs, x.order < s.dev.rings.nextOrder → x.wants k = false) ∧
    opc = 0x10 ∧
    settled ∧
    ∃ m ∈ w.live? (dModel q.desc),
    c.st = .free ∧
    dInit q.desc = 2 ∧
    word64 q.desc 0x20 ≠ 0 := by
  decide +kernel

theorem meets_StreamDescriptors_9 :
    let i : Instr := .release 0
    let s := queuedDesc 1 (streamDesc 0x11 0 42 []) none (streamsOf .resident ready)
    let r := 0
    let opc := 17
    let func := 0
    ∃ q ∈ (s.work.sq r).queue,
    descCommand i = some (r, opc, func) ∧
    s.begins r q = true ∧
    descMatches opc func q.desc = true ∧
    let w := s.work
    let k := dStream q.desc
    let c := w.ctx k
    let settled := c.st ≠ .busy ∧ c.st ≠ .filling ∧ c.st ≠ .spilling
    (∀ x ∈ s.dev.rings.execs, x.order < s.dev.rings.nextOrder → x.wants k = false) ∧
    opc = 0x11 ∧
    settled ∧
    c.st = .free := by
  decide +kernel

theorem meets_StreamDescriptors_10 :
    let i : Instr := .release 0
    let s := queuedDesc 1 (streamDesc 0x11 0 40 []) none (streamsOf .resident ready)
    let r := 0
    let opc := 17
    let func := 0
    ∃ q ∈ (s.work.sq r).queue,
    descCommand i = some (r, opc, func) ∧
    s.begins r q = true ∧
    descMatches opc func q.desc = true ∧
    let w := s.work
    let k := dStream q.desc
    let c := w.ctx k
    let settled := c.st ≠ .busy ∧ c.st ≠ .filling ∧ c.st ≠ .spilling
    (∀ x ∈ s.dev.rings.execs, x.order < s.dev.rings.nextOrder → x.wants k = false) ∧
    opc = 0x11 ∧
    settled ∧
    c.st ≠ .free := by
  decide +kernel

theorem meets_StreamDescriptors_11 :
    let i : Instr := .fill 0
    let s := queuedDesc 1 (streamDesc 0x12 0 42 []) none (streamsOf .resident ready)
    let r := 0
    let opc := 18
    let func := 0
    ∃ q ∈ (s.work.sq r).queue,
    descCommand i = some (r, opc, func) ∧
    s.begins r q = true ∧
    descMatches opc func q.desc = true ∧
    let w := s.work
    let k := dStream q.desc
    let c := w.ctx k
    let settled := c.st ≠ .busy ∧ c.st ≠ .filling ∧ c.st ≠ .spilling
    (∀ x ∈ s.dev.rings.execs, x.order < s.dev.rings.nextOrder → x.wants k = false) ∧
    opc = 0x12 ∧
    settled ∧
    c.st = .free := by
  decide +kernel

theorem meets_StreamDescriptors_12 :
    let i : Instr := .fill 0
    let s := queuedDesc 1 (streamDesc 0x12 0 40 []) none (streamsOf .quarantined ready)
    let r := 0
    let opc := 18
    let func := 0
    ∃ q ∈ (s.work.sq r).queue,
    descCommand i = some (r, opc, func) ∧
    s.begins r q = true ∧
    descMatches opc func q.desc = true ∧
    let w := s.work
    let k := dStream q.desc
    let c := w.ctx k
    let settled := c.st ≠ .busy ∧ c.st ≠ .filling ∧ c.st ≠ .spilling
    (∀ x ∈ s.dev.rings.execs, x.order < s.dev.rings.nextOrder → x.wants k = false) ∧
    opc = 0x12 ∧
    settled ∧
    c.st = .quarantined := by
  decide +kernel

theorem meets_StreamDescriptors_13 :
    let i : Instr := .fill 0
    let s := queuedDesc 1 (streamDesc 0x12 0 (40 + 2 ^ 31) [(0x14, leBytes 4 9)]) none (streamsOf .resident ready)
    let r := 0
    let opc := 18
    let func := 0
    ∃ q ∈ (s.work.sq r).queue,
    descCommand i = some (r, opc, func) ∧
    s.begins r q = true ∧
    descMatches opc func q.desc = true ∧
    let w := s.work
    let k := dStream q.desc
    let c := w.ctx k
    let stale := dEgv q.desc = true ∧ c.gen.toNat ≠ dExpgen q.desc
    let settled := c.st ≠ .busy ∧ c.st ≠ .filling ∧ c.st ≠ .spilling
    (∀ x ∈ s.dev.rings.execs, x.order < s.dev.rings.nextOrder → x.wants k = false) ∧
    opc = 0x12 ∧
    settled ∧
    (c.st = .resident ∨ c.st = .spilled) ∧
    stale := by
  decide +kernel

theorem meets_StreamDescriptors_14 :
    let i : Instr := .fill 0
    let s := queuedDesc 1 (streamDesc 0x12 0 (40 + 2 ^ 31) [(0x14, leBytes 4 2)]) none (streamsOf .resident ready)
    let r := 0
    let opc := 18
    let func := 0
    ∃ q ∈ (s.work.sq r).queue,
    descCommand i = some (r, opc, func) ∧
    s.begins r q = true ∧
    descMatches opc func q.desc = true ∧
    let w := s.work
    let k := dStream q.desc
    let c := w.ctx k
    let stale := dEgv q.desc = true ∧ c.gen.toNat ≠ dExpgen q.desc
    let settled := c.st ≠ .busy ∧ c.st ≠ .filling ∧ c.st ≠ .spilling
    (∀ x ∈ s.dev.rings.execs, x.order < s.dev.rings.nextOrder → x.wants k = false) ∧
    opc = 0x12 ∧
    settled ∧
    c.st = .resident ∧
    ¬ stale := by
  decide +kernel

theorem meets_StreamDescriptors_15 :
    let i : Instr := .fill 0
    let s := queuedDesc 1 (streamDesc 0x12 0 40 []) none (spilled ready)
    let r := 0
    let opc := 18
    let func := 0
    ∃ q ∈ (s.work.sq r).queue,
    descCommand i = some (r, opc, func) ∧
    s.begins r q = true ∧
    descMatches opc func q.desc = true ∧
    let w := s.work
    let k := dStream q.desc
    let c := w.ctx k
    let stale := dEgv q.desc = true ∧ c.gen.toNat ≠ dExpgen q.desc
    let settled := c.st ≠ .busy ∧ c.st ≠ .filling ∧ c.st ≠ .spilling
    (∀ x ∈ s.dev.rings.execs, x.order < s.dev.rings.nextOrder → x.wants k = false) ∧
    opc = 0x12 ∧
    settled ∧
    c.st = .spilled ∧
    ¬ stale ∧
    w.partnerHeld k = false ∧
    w.memKey = none := by
  decide +kernel

theorem meets_StreamDescriptors_16 :
    let i : Instr := .fill 0
    let s := queuedDesc 1 (streamDesc 0x12 0 40 []) none (dev (fun d => { d with models := d.models.map fun m => { m with dead := true } })
        (keyed (spilled ready)))
    let r := 0
    let opc := 18
    let func := 0
    ∃ q ∈ (s.work.sq r).queue,
    descCommand i = some (r, opc, func) ∧
    s.begins r q = true ∧
    descMatches opc func q.desc = true ∧
    let w := s.work
    let k := dStream q.desc
    let c := w.ctx k
    let stale := dEgv q.desc = true ∧ c.gen.toNat ≠ dExpgen q.desc
    let settled := c.st ≠ .busy ∧ c.st ≠ .filling ∧ c.st ≠ .spilling
    (∀ x ∈ s.dev.rings.execs, x.order < s.dev.rings.nextOrder → x.wants k = false) ∧
    opc = 0x12 ∧
    settled ∧
    c.st = .spilled ∧
    ¬ stale ∧
    w.partnerHeld k = false ∧
    w.memKey ≠ none ∧
    w.live? c.model = none := by
  decide +kernel

theorem meets_StreamDescriptors_17 :
    let i : Instr := .fill 0
    let s := queuedDesc 1 (streamDesc 0x12 0 40 []) none (keyed (dev (fun d =>
        { d with arm := { d.arm with pages := (List.range 8192).map fun p => (p, 1) } }) (spilled ready)))
    let r := 0
    let opc := 18
    let func := 0
    ∃ q ∈ (s.work.sq r).queue,
    descCommand i = some (r, opc, func) ∧
    s.begins r q = true ∧
    descMatches opc func q.desc = true ∧
    let w := s.work
    let k := dStream q.desc
    let c := w.ctx k
    let stale := dEgv q.desc = true ∧ c.gen.toNat ≠ dExpgen q.desc
    let settled := c.st ≠ .busy ∧ c.st ≠ .filling ∧ c.st ≠ .spilling
    let full := fun (m : Model) => (s.dev.arm.freePages < 2 * m.halfPages ∨ 4096 ≤ s.dev.arm.residents) ∧
        (s.dev.cfgW 0x400).getLsbD 8 = false
    (∀ x ∈ s.dev.rings.execs, x.order < s.dev.rings.nextOrder → x.wants k = false) ∧
    opc = 0x12 ∧
    settled ∧
    c.st = .spilled ∧
    ¬ stale ∧
    w.partnerHeld k = false ∧
    ∃ m ∈ w.live? c.model,
    w.memKey ≠ none ∧
    full m := by
  decide +kernel

theorem meets_StreamDescriptors_19 :
    let i : Instr := .spill 0
    let s := queuedDesc 1 (streamDesc 0x13 0 42 []) none (streamsOf .resident ready)
    let r := 0
    let opc := 19
    let func := 0
    ∃ q ∈ (s.work.sq r).queue,
    descCommand i = some (r, opc, func) ∧
    s.begins r q = true ∧
    descMatches opc func q.desc = true ∧
    let w := s.work
    let k := dStream q.desc
    let c := w.ctx k
    let settled := c.st ≠ .busy ∧ c.st ≠ .filling ∧ c.st ≠ .spilling
    (∀ x ∈ s.dev.rings.execs, x.order < s.dev.rings.nextOrder → x.wants k = false) ∧
    opc = 0x13 ∧
    settled ∧
    bitOf (dW q.desc 0x10) 30 = false ∧
    c.st = .free := by
  decide +kernel

theorem meets_StreamDescriptors_20 :
    let i : Instr := .spill 0
    let s := queuedDesc 1 (streamDesc 0x13 0 40 []) none (streamsOf .quarantined ready)
    let r := 0
    let opc := 19
    let func := 0
    ∃ q ∈ (s.work.sq r).queue,
    descCommand i = some (r, opc, func) ∧
    s.begins r q = true ∧
    descMatches opc func q.desc = true ∧
    let w := s.work
    let k := dStream q.desc
    let c := w.ctx k
    let settled := c.st ≠ .busy ∧ c.st ≠ .filling ∧ c.st ≠ .spilling
    (∀ x ∈ s.dev.rings.execs, x.order < s.dev.rings.nextOrder → x.wants k = false) ∧
    opc = 0x13 ∧
    settled ∧
    bitOf (dW q.desc 0x10) 30 = false ∧
    c.st = .quarantined := by
  decide +kernel

theorem meets_StreamDescriptors_21 :
    let i : Instr := .spill 0
    let s := queuedDesc 1 (streamDesc 0x13 0 40 []) none (spilled ready)
    let r := 0
    let opc := 19
    let func := 0
    ∃ q ∈ (s.work.sq r).queue,
    descCommand i = some (r, opc, func) ∧
    s.begins r q = true ∧
    descMatches opc func q.desc = true ∧
    let w := s.work
    let k := dStream q.desc
    let c := w.ctx k
    let settled := c.st ≠ .busy ∧ c.st ≠ .filling ∧ c.st ≠ .spilling
    (∀ x ∈ s.dev.rings.execs, x.order < s.dev.rings.nextOrder → x.wants k = false) ∧
    opc = 0x13 ∧
    settled ∧
    bitOf (dW q.desc 0x10) 30 = false ∧
    c.st = .spilled := by
  decide +kernel

theorem meets_StreamDescriptors_22 :
    let i : Instr := .spill 0
    let s := queuedDesc 1 (streamDesc 0x13 0 40 []) none (passed40 (resident false))
    let r := 0
    let opc := 19
    let func := 0
    ∃ q ∈ (s.work.sq r).queue,
    descCommand i = some (r, opc, func) ∧
    s.begins r q = true ∧
    descMatches opc func q.desc = true ∧
    let w := s.work
    let k := dStream q.desc
    let c := w.ctx k
    let settled := c.st ≠ .busy ∧ c.st ≠ .filling ∧ c.st ≠ .spilling
    (∀ x ∈ s.dev.rings.execs, x.order < s.dev.rings.nextOrder → x.wants k = false) ∧
    opc = 0x13 ∧
    settled ∧
    bitOf (dW q.desc 0x10) 30 = false ∧
    c.st = .resident ∧
    w.passDue k = true := by
  decide +kernel

theorem meets_StreamDescriptors_23 :
    let i : Instr := .spill 0
    let s := queuedDesc 1 (streamDesc 0x13 0 (40 + 2 ^ 31) []) none (resident false)
    let r := 0
    let opc := 19
    let func := 0
    ∃ q ∈ (s.work.sq r).queue,
    descCommand i = some (r, opc, func) ∧
    s.begins r q = true ∧
    descMatches opc func q.desc = true ∧
    let w := s.work
    let k := dStream q.desc
    let c := w.ctx k
    let stale := dEgv q.desc = true ∧ c.gen.toNat ≠ dExpgen q.desc
    let settled := c.st ≠ .busy ∧ c.st ≠ .filling ∧ c.st ≠ .spilling
    (∀ x ∈ s.dev.rings.execs, x.order < s.dev.rings.nextOrder → x.wants k = false) ∧
    opc = 0x13 ∧
    settled ∧
    bitOf (dW q.desc 0x10) 30 = false ∧
    c.st = .resident ∧
    (∀ x ∈ s.dev.arm.passes, x.stream ≠ k) ∧
    stale := by
  decide +kernel

theorem meets_StreamDescriptors_24 :
    let i : Instr := .spill 0
    let s := queuedDesc 1 (streamDesc 0x13 0 40 []) none (streamsOf .resident ready)
    let r := 0
    let opc := 19
    let func := 0
    ∃ q ∈ (s.work.sq r).queue,
    descCommand i = some (r, opc, func) ∧
    s.begins r q = true ∧
    descMatches opc func q.desc = true ∧
    let w := s.work
    let k := dStream q.desc
    let c := w.ctx k
    let stale := dEgv q.desc = true ∧ c.gen.toNat ≠ dExpgen q.desc
    let settled := c.st ≠ .busy ∧ c.st ≠ .filling ∧ c.st ≠ .spilling
    (∀ x ∈ s.dev.rings.execs, x.order < s.dev.rings.nextOrder → x.wants k = false) ∧
    opc = 0x13 ∧
    settled ∧
    bitOf (dW q.desc 0x10) 30 = false ∧
    c.st = .resident ∧
    (∀ x ∈ s.dev.arm.passes, x.stream ≠ k) ∧
    ¬ stale ∧
    c.spill = 0 := by
  decide +kernel

theorem meets_StreamDescriptors_25 :
    let i : Instr := .spill 0
    let s := queuedDesc 1 (streamDesc 0x13 0 40 []) none (resident true)
    let r := 0
    let opc := 19
    let func := 0
    ∃ q ∈ (s.work.sq r).queue,
    descCommand i = some (r, opc, func) ∧
    s.begins r q = true ∧
    descMatches opc func q.desc = true ∧
    let w := s.work
    let k := dStream q.desc
    let c := w.ctx k
    let stale := dEgv q.desc = true ∧ c.gen.toNat ≠ dExpgen q.desc
    let settled := c.st ≠ .busy ∧ c.st ≠ .filling ∧ c.st ≠ .spilling
    (∀ x ∈ s.dev.rings.execs, x.order < s.dev.rings.nextOrder → x.wants k = false) ∧
    opc = 0x13 ∧
    settled ∧
    bitOf (dW q.desc 0x10) 30 = false ∧
    c.st = .resident ∧
    (∀ x ∈ s.dev.arm.passes, x.stream ≠ k) ∧
    ¬ stale ∧
    c.spill ≠ 0 ∧
    c.spillCur = true := by
  decide +kernel

theorem meets_StreamDescriptors_26 :
    let i : Instr := .spill 0
    let s := queuedDesc 1 (streamDesc 0x13 0 40 []) none (resident false)
    let r := 0
    let opc := 19
    let func := 0
    ∃ q ∈ (s.work.sq r).queue,
    descCommand i = some (r, opc, func) ∧
    s.begins r q = true ∧
    descMatches opc func q.desc = true ∧
    let w := s.work
    let k := dStream q.desc
    let c := w.ctx k
    let stale := dEgv q.desc = true ∧ c.gen.toNat ≠ dExpgen q.desc
    let settled := c.st ≠ .busy ∧ c.st ≠ .filling ∧ c.st ≠ .spilling
    (∀ x ∈ s.dev.rings.execs, x.order < s.dev.rings.nextOrder → x.wants k = false) ∧
    opc = 0x13 ∧
    settled ∧
    bitOf (dW q.desc 0x10) 30 = false ∧
    c.st = .resident ∧
    (∀ x ∈ s.dev.arm.passes, x.stream ≠ k) ∧
    ¬ stale ∧
    c.spill ≠ 0 ∧
    c.spillCur = false ∧
    w.memKey = none := by
  decide +kernel

theorem meets_StreamDescriptors_27 :
    let i : Instr := .spill 0
    let s := queuedDesc 1 (streamDesc 0x13 0 40 []) none (keyed (resident false))
    let r := 0
    let opc := 19
    let func := 0
    ∃ q ∈ (s.work.sq r).queue,
    descCommand i = some (r, opc, func) ∧
    s.begins r q = true ∧
    descMatches opc func q.desc = true ∧
    let w := s.work
    let k := dStream q.desc
    let c := w.ctx k
    let stale := dEgv q.desc = true ∧ c.gen.toNat ≠ dExpgen q.desc
    let settled := c.st ≠ .busy ∧ c.st ≠ .filling ∧ c.st ≠ .spilling
    (∀ x ∈ s.dev.rings.execs, x.order < s.dev.rings.nextOrder → x.wants k = false) ∧
    opc = 0x13 ∧
    settled ∧
    bitOf (dW q.desc 0x10) 30 = false ∧
    c.st = .resident ∧
    (∀ x ∈ s.dev.arm.passes, x.stream ≠ k) ∧
    ∃ key ∈ w.memKey,
    ∃ m ∈ w.model? c.model,
    ¬ stale ∧
    c.spill ≠ 0 ∧
    c.spillCur = false := by
  decide +kernel

-- ArmatureTraffic -----------------------------------------------------------------------------------------------------------------------------------

theorem meets_ArmatureTraffic_4 :
    let s := filling (List.replicate 2560 0) (begun { execOf fillDesc 0 1 [] with ph := .wait } ready)
    let k := 40
    s.acts = true ∧
    let w := s.work
    ∃ j ∈ w.armJob k,
    k ∉ s.dev.arm.dropped ∧
    let owner := fun (opc : Nat) (e : Exec) => w.exec? j.ring j.seq = some e ∧ e.ph = .wait ∧ dOpc e.desc = opc ∧ e.passed s.tb = false
    (match w.fillResult k with
    | some (.error o) => decide (
    ∃ e ∈ s.dev.rings.execs,
    j.isFill = true ∧
    owner 0x12 e)
    | _ => false) = true := by
  decide +kernel

theorem meets_ArmatureTraffic_5 :
    let s := recordJob false false true (begun { execOf (streamDesc 0x13 0 40 []) 1 1 [] with ph := .wait } (streamsOf .spilling ready))
    let k := 40
    s.acts = true ∧
    let w := s.work
    ∃ j ∈ w.armJob k,
    k ∉ s.dev.arm.dropped ∧
    j.isFill = false ∧
    j.ok = true ∧
    w.pendingUser (.spill k) = false := by
  decide +kernel

theorem meets_ArmatureTraffic_6 :
    let s := recordJob false false false (begun { execOf (streamDesc 0x13 0 40 []) 1 1 [] with ph := .wait } (streamsOf .spilling ready))
    let k := 40
    s.acts = true ∧
    let w := s.work
    ∃ j ∈ w.armJob k,
    k ∉ s.dev.arm.dropped ∧
    j.isFill = false ∧
    j.ok = false ∧
    w.pendingUser (.spill k) = false := by
  decide +kernel

theorem meets_ArmatureTraffic_7 :
    let s := dev (fun d => { d with arm := { d.arm with pages := [(10, 2)] } }) (streamsOf .resident ready)
    let k := 10
    s.acts = true ∧
    let page := fun n => tabGet 0 s.dev.arm.pages n
    page k = 2 := by
  decide +kernel

theorem meets_ArmatureTraffic_8 :
    let s := passed40 (streamsOf .resident ready)
    let k := 40
    s.acts = true ∧
    let w := s.work
    let c := w.ctx k
    let unnamed := k ∉ s.dev.arm.dropped ∧ (∀ x ∈ s.dev.rings.execs, ∀ l ∈ x.lanes, l.stream ≠ k) ∧ s.dev.rings.kills = [] ∧
        ∀ x ∈ s.dev.rings.execs, isFence x = false
    (∃ p ∈ s.dev.arm.passes.find? (fun x => x.stream == k),
    ∃ m ∈ w.model? c.model,
    w.peerMode ≠ 1) ∧
    (unnamed ∧
    (c.st = .resident ∨ c.st = .busy)) := by
  decide +kernel

theorem meets_ArmatureTraffic_9 :
    let s := begun { execOf (chunkOf 2) 0 1 [] with ph := .ready, lanes := [busyLane 40] } (streamsOf .busy ready)
    let k := 40
    s.acts = true ∧
    let w := s.work
    let c := w.ctx k
    let r := 0
    let q := 1
    ∃ e ∈ s.dev.rings.execs,
    ∃ l ∈ e.lanes,
    w.exec? r q = some e ∧
    (dOpc e.desc = 2 ∨ dOpc e.desc = 3) ∧
    (e.ph = .ready ∨ e.ph = .run) ∧
    e.lanes = [l] ∧
    l.stream = k ∧
    l.ph = .busy ∧
    l.committed = false ∧
    c.st = .busy := by
  decide +kernel

theorem meets_ArmatureTraffic_10 :
    let s := queuedDesc 1 (streamDesc 0x13 0 40 []) none (streamsOf .busy ready)
    let k := 0
    s.acts = true ∧
    let w := s.work
    let unnamed := k ∉ s.dev.arm.dropped ∧ (∀ x ∈ s.dev.rings.execs, ∀ l ∈ x.lanes, l.stream ≠ k) ∧ s.dev.rings.kills = [] ∧
        ∀ x ∈ s.dev.rings.execs, isFence x = false
    unnamed ∧
    w.armJob k = none := by
  decide +kernel

-- TableBanks ----------------------------------------------------------------------------------------------------------------------------------------

theorem meets_TableBanks_1 :
    let s := killHolds (begun (execOf (loadDesc 0x21 5 96) 3 3 tableImage) ready)
    let w := s.work
    s.acts = true ∧
    let r := 1
    let seq := 4
    ∃ e ∈ w.exec? r seq,
    w.killHeld (dJob e.desc) = true := by
  decide +kernel

theorem meets_TableBanks_2 :
    let s := fencesAt 1 (mapOf [1] (begun { execOf (noJob 0x22 0 []) 1 3 [] with bankEp := 1 } ready))
    let p := 1
    let w := s.work
    s.acts = true ∧
    let t := (s.core p).tables
    let withTables := fun (t : CoreTables) => { s.core p with tables := t }
    (let r := 0
    let seq := 1
    ∃ e ∈ w.exec? r seq,
    e.passed s.tb = false ∧
    w.killHeld (dJob e.desc) = false ∧
    let settled := ∀ p ∈ s.dev.inService, s.dev.rings.fences ≤ (s.core p).tables.switches ∧ (s.core p).tables.resync = false
    ¬ settled) ∧
    (t.switches < s.dev.rings.fences ∧
    t.resync = false ∧
    (s.core p).cur = none ∧
    (∀ x ∈ s.dev.rings.execs, w.holdsBank p x = false) ∧
    let s' := s.withCore p (withTables { t with active1 := !t.active1, switches := t.switches + 1, resync := true })
    let r := 0
    let seq := 1
    ∃ e ∈ w.exec? r seq,
    e.passed s.tb = false ∧
    dOpc e.desc = 0x22 ∧
    e.ph = .work ∧
    e.stage = 1 ∧
    (∀ x ∈ s.dev.rings.execs, dOpc x.desc = 0x22 → x = e) ∧
    p < s.dev.cores.length ∧
    (∀ n ∈ s.dev.inService, e.bankEp ≤ (s'.core n).tables.switches)) := by
  decide +kernel

theorem meets_TableBanks_3 :
    let s := begun (execOf (loadDesc 0x21 5 96) 3 3 tableImage) ready
    let p := 0
    let w := s.work
    s.acts = true ∧
    let t := (s.core p).tables
    (let r := 0
    let seq := 1
    ∃ e ∈ w.exec? r seq,
    e.passed s.tb = false ∧
    w.killHeld (dJob e.desc) = false ∧
    let settled := ∀ p ∈ s.dev.inService, s.dev.rings.fences ≤ (s.core p).tables.switches ∧ (s.core p).tables.resync = false
    dOpc e.desc = 0x21 ∧
    e.ph = .work ∧
    e.stage = 3 ∧
    settled ∧
    (∀ p ∈ s.dev.inService, p < s.dev.cores.length)) ∧
    (s.dev.rings.fences ≤ t.switches) ∧
    (t.resync = false) := by
  decide +kernel

theorem meets_TableBanks_4 :
    let s := earlier (loadDesc 0x21 5 64) 1 .work (begun { execOf (noJob 0x22 0 []) 0 3 [] with ph := .wait, order := 1 } ready)
    let w := s.work
    s.acts = true ∧
    let r := 0
    let seq := 1
    ∃ e ∈ w.exec? r seq,
    e.passed s.tb = false ∧
    w.killHeld (dJob e.desc) = false ∧
    dOpc e.desc = 0x22 ∧
    e.ph = .wait ∧
    let loading := ∃ x ∈ s.dev.rings.execs, dOpc x.desc = 0x21 ∧ x.order < e.order ∧ (x.ph = .wait ∨ x.ph = .work)
    loading := by
  decide +kernel

theorem meets_TableBanks_5 :
    let s := begun { execOf (noJob 0x22 0 []) 0 3 [] with ph := .wait } ready
    let p := 0
    let w := s.work
    s.acts = true ∧
    let r := 0
    let seq := 1
    ∃ e ∈ w.exec? r seq,
    e.passed s.tb = false ∧
    w.killHeld (dJob e.desc) = false ∧
    dOpc e.desc = 0x22 ∧
    e.ph = .wait ∧
    let loading := ∃ x ∈ s.dev.rings.execs, dOpc x.desc = 0x21 ∧ x.order < e.order ∧ (x.ph = .wait ∨ x.ph = .work)
    let n := s.dev.rings.fences + 1
    ¬ loading ∧
    (∀ x ∈ s.dev.rings.execs, dOpc x.desc = 0x22 → x = e) ∧
    (∃ p ∈ s.dev.inService, (s.core p).tables.switches < n) := by
  decide +kernel

theorem meets_TableBanks_6 :
    let s := switched 1 (begun { execOf (noJob 0x22 0 []) 0 3 [] with ph := .wait } ready)
    let p := 0
    let w := s.work
    s.acts = true ∧
    let r := 0
    let seq := 1
    ∃ e ∈ w.exec? r seq,
    e.passed s.tb = false ∧
    w.killHeld (dJob e.desc) = false ∧
    dOpc e.desc = 0x22 ∧
    e.ph = .wait ∧
    let loading := ∃ x ∈ s.dev.rings.execs, dOpc x.desc = 0x21 ∧ x.order < e.order ∧ (x.ph = .wait ∨ x.ph = .work)
    let n := s.dev.rings.fences + 1
    ¬ loading ∧
    (∀ p ∈ s.dev.inService, n ≤ (s.core p).tables.switches) := by
  decide +kernel

theorem meets_TableBanks_7 :
    let s := fencesAt 1 ready
    let p := 1
    let w := s.work
    s.acts = true ∧
    let t := (s.core p).tables
    let noFence := ∀ x ∈ s.dev.rings.execs, dOpc x.desc ≠ 0x22
    t.switches < s.dev.rings.fences ∧
    t.resync = false ∧
    (s.core p).cur = none ∧
    (∀ x ∈ s.dev.rings.execs, w.holdsBank p x = false) ∧
    noFence := by
  decide +kernel

theorem meets_TableBanks_8 :
    let s := fencesAt 1 (resyncing 1 ready)
    let p := 1
    s.acts = true ∧
    let t := (s.core p).tables
    (t.switches < s.dev.rings.fences ∧
    ((s.core p).cur ≠ none ∨ t.resync = true)) ∧
    (t.resync = true ∧
    (∀ x ∈ s.dev.rings.execs, dOpc x.desc = 0x21 → x.ph ≠ .wait)) := by
  decide +kernel

end Sys2Proof.Witness
end

