-- ==== Sys2Proof/Tests/WitnessesLong.lean ====
section
/-! SUPPORT. Witnesses whose hypotheses no plain evaluation settles: one over all lines, queues or free pages, a record that must verify, a
CRC over a whole key record, a signature, a shipped image. The lemmas first turn each such hypothesis into one that evaluates. -/

namespace Sys2Proof.Witness

-- One theorem at a time: evaluated side by side, each would hold a thread of its own.
set_option Elab.async false
set_option linter.unusedVariables false
set_option synthInstance.maxSize 4000
set_option synthInstance.maxHeartbeats 200000

open Sys2Proof Sys2Proof.Machine Sys2Proof.Tests

theorem lineLocked_none (k : Core) (m : Nat) :
    (∀ l, k.lineLocked m l = false) ↔
      (match m with
      | 0 => k.locks.wlines.all fun r => r.2 == 0
      | 1 => k.locks.lines.all fun r => r.2 == 0
      | _ => !k.locks.plinth) = true := by
  have h : ∀ xs : List (Nat × Nat), (∀ l, (xs.any fun r => decide (r.1 ≤ l) && decide (l < r.1 + r.2)) = false) ↔
      (xs.all fun r => r.2 == 0) = true := by
    intro xs
    simp only [List.any_eq_false, List.all_eq_true, Bool.and_eq_true, decide_eq_true_eq, beq_iff_eq, not_and]
    refine ⟨fun h x hx => ?_, fun h l x hx a => ?_⟩
    · have := h x.1 x hx; omega
    · have := h x hx; omega
  match m with
  | 0 => exact h _
  | 1 => exact h _
  | _ + 2 => simp [Core.lineLocked]

theorem verdict_error (k : Core) (x : RStore) (c : W16) :
    storeVerdict k x = .error c ↔ (match storeVerdict k x with | .error d => d == c | .ok _ => false) = true := by
  cases storeVerdict k x <;> simp

theorem queues_empty (w : Work) : (∀ n, (w.sq n).queue = []) ↔ ∀ x ∈ w.d.rings.sq, (w.sq x.1).queue = [] := by
  refine ⟨fun h x _ => h x.1, fun h n => ?_⟩
  have key : ∀ t : Tab SqRing, tabGet SqRing.init t n = SqRing.init ∨ ∃ x ∈ t, x.1 = n := by
    intro t
    induction t with
    | nil => exact .inl rfl
    | cons y t ih =>
      by_cases e : n = y.1
      · exact .inr ⟨y, by simp, e.symm⟩
      · rcases ih with ih | ⟨x, hx, hn⟩
        · left; simp [tabGet, e, ih]
        · exact .inr ⟨x, by simp [hx], hn⟩
  rcases key w.d.rings.sq with e | ⟨x, hx, rfl⟩
  · unfold Work.sq; rw [e]; rfl
  · exact h x hx

theorem countOf_free (n : Nat) (t : Tab Nat) :
    countOf n (fun p => tabGet 0 t p == 0) = if t = [] then n else countOf n (fun p => tabGet 0 t p == 0) := by
  split
  · next h => subst h; simp [countOf, tabGet, List.filter_eq_self.mpr]
  · rfl

theorem slot_free (w : Work) :
    (∃ n, n < 4096 ∧ w.sslot n = SSlot.init) ↔
      (if w.sslot 0 = SSlot.init then True else ∃ n, n < 4096 ∧ w.sslot n = SSlot.init) := by
  split
  · next h => exact ⟨fun _ => trivial, fun _ => ⟨0, by omega, h⟩⟩
  · rfl

theorem meets_StatisticTransfers_1 :
    let s := xState (xcmd 4 6 5 0) [(5, 2), (6, 64)]
    let p := 0
    let t := 1
    let word := 6471771
    ∃ c ∈ s.ctx? p,
    let k := s.core p
    let th := s.thread p t
    let x := xFields word
    let a := (th.reg x.rs1).toNat
    let b := th.reg x.rs2
    let r := (k.plinth.slot a).record
    s.issues p t .xstout word = true ∧
    a < 16 ∧
    s.work.tallying p a = [] ∧
    r ≠ [] ∧
    b.toNat + 12 ≤ 8192 ∧
    c.img.declared b.toNat 12 = true ∧
    (∀ l, k.lineLocked 1 l = false) := by
  simp only [lineLocked_none]; decide +kernel

theorem meets_PointingCommands_8 :
    let s := xptState stageCmd
    let p := 0
    let t := 1
    let word := 192603
    ∃ c ∈ s.ctx? p,
    let k := s.core p
    let th := s.thread p t
    let a := (th.reg (xFields word).rs1).toNat
    ∃ b ∈ dmem c.img k.scratch a 32,
    s.issues p t .xpt word = true ∧
    a % 32 = 0 ∧
    ptOpc b = 4 ∧
    onlyFields b stageMasks = true ∧
    let from_ := bitsOf (word32 b 4) 0 13
    let dest := bitsOf (word32 b 8) 0 15
    let n := bitsOf (word32 b 12) 0 14
    n ≠ 0 ∧
    n ≤ 8192 ∧
    from_ + n ≤ 8192 ∧
    dest + n ≤ 20480 ∧
    c.img.declared from_ n = true ∧
    (∀ l, k.lineLocked 0 l = false) := by
  simp only [lineLocked_none]; decide +kernel

theorem meets_StreamLanding_2 :
    let s := landState 0
    let port := 1
    let slot := 0
    ∃ x ∈ s.work.stream? port slot,
    ∃ z ∈ s.work.stepOf x,
    let e := z.1
    let m := z.2
    s.acts = true ∧
    ∃ z ∈ (if x.cmd.lay then (x.operandLine e.desc x.landed).map fun b => (b, []) else x.linearLine e.desc x.landed),
    let bytes := z.1
    let pois := z.2
    x.cmd.isStore = false ∧
    x.cmd.dest ≠ 2 ∧
    x.cmd.items ≤ x.fed ∧
    s.work.ptTurn x = true ∧
    (x.cmd.cmp ≠ 0 → x.dec = none → x.isBad (x.fed - 1) = true) ∧
    let rs := x.receivers e m
    let head := fun q => tabGet 0 (s.core q).land.heads x.cmd.reg
    let mem := fun (r : Region) => if r.mem = 0 then 1 else 0
    (rs.map Prod.fst).Nodup ∧
    (s.dev.pt.streams.map fun y => (y.port, y.slot)).Nodup ∧
    (∀ z ∈ rs, z.1 < s.dev.cores.length ∧ s.work.onStep x z.1 = true ∧ head z.1 < z.2.len + tabGet 0 (s.core z.1).land.tails x.cmd.reg ∧
        (x.cmd.lay = true → x.landed = 0 → head z.1 % x.cmd.tlines = 0) ∧ (∀ l, (s.core z.1).lineLocked (mem z.2) l = false)) := by
  simp only [lineLocked_none]; decide +kernel

theorem meets_SpanStores_2 :
    let s := spanStep
    let link := 0
    let fr : RxFrame := (frame 0 8 { d := 9, a := 0x1000040, b := 9000000000 % 2 ^ 32, c := 2 } spanPayload)
    let h := hdrOf s link fr
    s.acts = true ∧
    let b := fr.bytes.drop 32
    let span := spanOf link h b
    let slot := bitsOf span.addr 24 5
    let win := bitsOf span.addr 19 5
    let first := bitsOf span.addr 0 19 / 64
    let n := span.lines.length
    ∃ e ∈ s.work.pairedStep span.job span.dl,
    ∃ m ∈ s.work.model? (dModel e.desc),
    ∃ img ∈ m.slots[slot]?,
    ∃ p ∈ e.cores[slot]?,
    ∃ v ∈ img.windows[win]?,
    s.receives link 8 fr h = true ∧
    s.work.peerMode = 2 ∧
    spanForm b = true ∧
    s.work.ownerBegun e span.addr = true ∧
    p < s.dev.cores.length ∧
    v.valid = true ∧
    v.wr = true ∧
    v.mem = 0 ∧
    first + n ≤ v.len ∧
    let k := s.core p
    (∃ c, k.cur = some c ∧ c.ring = e.ring ∧ c.seq = e.seq ∧ c.checker = false ∧ c.begun = true ∧ c.ended = false) ∧
    tabGet false k.land.opens win = true ∧
    (∀ l, k.lineLocked 1 l = false) := by
  simp only [lineLocked_none]; decide +kernel

theorem meets_MeshTraffic_3 :
    let s := lateState
    let p := 1
    s.acts = true ∧
    p < s.dev.cores.length ∧
    let k := s.core p
    let due := fun (y : RStore) => y.toCore == p && !k.holdsBack y
    let without := { s.dev.mesh with stores := dropFirst (fun y => y.toCore == p) s.dev.mesh.stores }
    let next := s.dev.mesh.stores.find? fun y => y.toCore == p
    ∃ x ∈ (s.dev.mesh.early.find? due).orElse fun _ => next,
    let m := if (s.dev.mesh.early.find? due).isSome then { s.dev.mesh with early := dropFirst due s.dev.mesh.early } else without
    (s.dev.mesh.early.find? due = some x ∧
        m = { s.dev.mesh with early := dropFirst due s.dev.mesh.early } ∨ s.dev.mesh.early.find? due = none ∧ next = some x ∧
        k.holdsBack x = false ∧ m = without) ∧
    storeVerdict k x = .error 0x2107 := by
  simp only [verdict_error]; decide +kernel

theorem meets_PrivilegedActions_13 :
    let s := killingOwn (acts (noJob 0x31 0 [(0x10, leBytes 4 0x80000009)]) [] (streamsOf .resident ready))
    ∃ bytes ∈ s.dev.led.entry,
    ∃ it ∈ s.dev.led.items,
    let r := 0
    let k := 1
    let w := s.work
    ∃ e ∈ w.exec? r k,
    s.acts = true ∧
    s.dev.led.accepted = true ∧
    s.dev.led.items = [it] ∧
    it.next = .action r k ∧
    (e.ph = .work ∨ e.ph = .wait) ∧
    e.passed s.tb = false ∧
    (∀ x ∈ s.dev.rings.execs, dOpc x.desc = 0x40 → dFunc x.desc = 0x103 → x.stage ≠ 2) ∧
    dOpc e.desc = 0x31 ∧
    s.dev.rings.kills = [(dTjob e.desc, r, k)] ∧
    (∀ n, (w.sq n).queue = []) ∧
    (∀ x ∈ s.dev.rings.execs, dJob x.desc = dTjob e.desc → dOpc x.desc = 0x31 ∧ x.begun = true) ∧
    (∀ x ∈ s.dev.rings.execs, dOpc x.desc = 0x31 → x.ph = .wait → dTjob x.desc ≠ dTjob e.desc) ∧
    (s.dev.models.map Model.handle).Nodup ∧
    (∀ m ∈ s.dev.models, m.dead = false) := by
  simp only [queues_empty]; decide +kernel

theorem meets_StreamDescriptors_8 :
    let i : Instr := .bind 0
    let s := queuedDesc 1 (streamDesc 0x10 (5 * 2 ^ 24) 42 [(0x14, leBytes 4 7), (0x18, leBytes 8 0x300000002), (0x20, leBytes 8 0x4000)])
        none (streamsOf .resident ready)
    let r := 0
    let opc := 16
    let func := 0
    ∃ q ∈ (s.work.sq r).queue,
    descCommand i = some (r, opc, func) ∧
    s.begins r q = true ∧
    descMatches opc func q.desc = true ∧
    let w := s.work
    let k := dStream q.desc
    let c := w.ctx k
    let settled := c.st ≠ .busy ∧ c.st ≠ .filling ∧ c.st ≠ .spilling
    let room := fun (m : Model) => 2 * m.halfPages ≤ s.dev.arm.freePages ∧ s.dev.arm.residents < 4096 ∧
        2 * m.halfPages ≤ countOf 8192 (fun p => tabGet 0 s.dev.arm.pages p == 0) ∧ tabWf 0 s.dev.arm.pages = true
    (∀ x ∈ s.dev.rings.execs, x.order < s.dev.rings.nextOrder → x.wants k = false) ∧
    opc = 0x10 ∧
    settled ∧
    ∃ m ∈ w.live? (dModel q.desc),
    c.st = .free ∧
    dInit q.desc = 0 ∧
    room m ∧
    (∃ n, n < 4096 ∧ w.sslot n = SSlot.init) := by
  dsimp only; rw [countOf_free, slot_free]; decide +kernel

theorem meets_StreamDescriptors_18 :
    let i : Instr := .fill 0
    let s := queuedDesc 1 (streamDesc 0x12 0 40 []) none (keyed (spilled ready))
    let r := 0
    let opc := 18
    let func := 0
    ∃ q ∈ (s.work.sq r).queue,
    descCommand i = some (r, opc, func) ∧
    s.begins r q = true ∧
    descMatches opc func q.desc = true ∧
    let w := s.work
    let k := dStream q.desc
    let c := w.ctx k
    let stale := dEgv q.desc = true ∧ c.gen.toNat ≠ dExpgen q.desc
    let settled := c.st ≠ .busy ∧ c.st ≠ .filling ∧ c.st ≠ .spilling
    let room := fun (m : Model) => 2 * m.halfPages ≤ s.dev.arm.freePages ∧ s.dev.arm.residents < 4096 ∧
        2 * m.halfPages ≤ countOf 8192 (fun p => tabGet 0 s.dev.arm.pages p == 0) ∧ tabWf 0 s.dev.arm.pages = true
    (∀ x ∈ s.dev.rings.execs, x.order < s.dev.rings.nextOrder → x.wants k = false) ∧
    opc = 0x12 ∧
    settled ∧
    c.st = .spilled ∧
    ¬ stale ∧
    w.partnerHeld k = false ∧
    ∃ m ∈ w.live? c.model,
    w.memKey ≠ none ∧
    room m ∧
    (∃ n, n < 4096 ∧ w.sslot n = SSlot.init) := by
  dsimp only; rw [countOf_free, slot_free]; decide +kernel

theorem fillResult_ok {w : Work} {k : Nat} {j : ReadJob} {key : List Byte} {m : Model} {p : List Byte}
    (h1 : w.jobFor (.fill k) = some j) (h2 : w.memKey = some key) (h3 : w.model? (w.ctx k).model = some m)
    (h4 : j.left = 0) (h5 : j.bad = false) (h6 : openRecord key k (w.ctx k) m j.bytes = some p) :
    w.fillResult k = some (.ok p) := by
  simp [Work.fillResult, h1, h2, h3, ReadJob.ready, h4, h5, h6]

theorem pageRead_bytes (b : List Byte) : ReadJob.bytes ⟨1, .fill 40, 0x10000, b.length, [(0, b)], 0, false, 0x3106, 7⟩ = b := by
  simp only [ReadJob.bytes, List.foldl_cons, List.foldl_nil]
  cases b with
  | nil => rfl
  | cons x b => simp [tabSet, tabPut, sliceAt]

def payload40 : List Byte :=
  (keyed (resident false)).work.activeState 40 (model []).stateBytes ++ List.replicate (2048 * (model []).halfPages - (model []).stateBytes) 0

theorem open40 : openRecord keyRec.memKey 40 ((keyed (resident false)).work.ctx 40) (model []) recordOf40 = some payload40 :=
  openRecord_back (by decide) 40 _ _ _ (by decide +kernel) (by decide +kernel)

theorem ctx40_same (key : List Byte) (k : Nat) (c d : CtxEntry) (m : Model) (b : List Byte)
    (h : c.gen = d.gen ∧ c.sidx = d.sidx ∧ c.model = d.model) : openRecord key k c m b = openRecord key k d m b := by
  have ht : ∀ dec n j bs, cryptUnits dec key k c n j bs = cryptUnits dec key k d n j bs := by
    intro dec n
    induction n with
    | zero => intros; rfl
    | succ n ih => intro j bs; simp only [cryptUnits, ih, recordTweak, h.1, h.2.1]
  unfold openRecord
  simp only [ht, recordHeader, h.1, h.2.1, h.2.2]; rfl

theorem fill_opens (s : State) : (filling recordOf40 s).work.fillResult 40 = some (.ok payload40) := by
  refine fillResult_ok (j := ⟨1, .fill 40, 0x10000, recordOf40.length, [(0, recordOf40)], 0, false, 0x3106, 7⟩)
    (key := keyRec.memKey) (m := model []) rfl rfl rfl rfl rfl ?_
  rw [pageRead_bytes]
  exact (ctx40_same _ _ _ _ _ _ ⟨rfl, rfl, rfl⟩).trans open40

def fill1 : State := filling recordOf40 ready

theorem meets_ArmatureTraffic_1 :
    let s := fill1
    let k := 40
    s.acts = true ∧
    let w := s.work
    let c := w.ctx k
    let sl := w.sslot c.sslot
    (∃ j ∈ w.armJob k,
    k ∉ s.dev.arm.dropped ∧
    let alone := fun (e : Option Exec) => ∀ x ∈ s.dev.rings.execs, x.wants k = true → some x = e
    (∃ p, w.fillResult k = some (.ok p) ∧ (
    j.isFill = true ∧
    p.length ≤ 2048 * (sl.pagesOf (!c.half)).length ∧
    (sl.pagesOf (!c.half)).Nodup ∧
    w.exec? j.ring j.seq = none ∧
    alone none))) ∧
    (c.resident = true ∧
    c.st ≠ .resident ∧
    c.st ≠ .busy) := by
  have h : fill1.work.fillResult 40 = some (.ok payload40) := fill_opens _
  exact ⟨by decide +kernel, ⟨_, rfl, by decide +kernel, payload40, h, by decide +kernel⟩, by decide +kernel⟩

def fill2 : State := filling recordOf40 (begun { execOf fillDesc 0 1 [] with ph := .wait } ready)

theorem meets_ArmatureTraffic_2 :
    let s := fill2
    let k := 40
    s.acts = true ∧
    let w := s.work
    let c := w.ctx k
    let sl := w.sslot c.sslot
    (∃ j ∈ w.armJob k,
    k ∉ s.dev.arm.dropped ∧
    let owner := fun (opc : Nat) (e : Exec) => w.exec? j.ring j.seq = some e ∧ e.ph = .wait ∧ dOpc e.desc = opc ∧ e.passed s.tb = false
    let alone := fun (e : Option Exec) => ∀ x ∈ s.dev.rings.execs, x.wants k = true → some x = e
    (∃ p, w.fillResult k = some (.ok p) ∧ (
    j.isFill = true ∧
    p.length ≤ 2048 * (sl.pagesOf (!c.half)).length ∧
    (sl.pagesOf (!c.half)).Nodup ∧
    ∃ e ∈ s.dev.rings.execs,
    owner 0x12 e ∧
    alone (some e)))) ∧
    (∃ j ∈ w.armJob k,
    ∃ e ∈ s.dev.rings.execs,
    j.isFill = true ∧
    w.exec? j.ring j.seq = some e ∧
    e.ph = .wait ∧
    dOpc e.desc = 0x12) := by
  have h : fill2.work.fillResult 40 = some (.ok payload40) := fill_opens _
  exact ⟨by decide +kernel, ⟨_, rfl, by decide +kernel, payload40, h, by decide +kernel⟩, by decide +kernel⟩

def fill3 : State := filling recordOf40 (begun { execOf step1 0 1 [] with ph := .wait, lanes := [{ laneWait 40 with ph := .fill }] } ready)

theorem meets_ArmatureTraffic_3 :
    let s := fill3
    let k := 40
    s.acts = true ∧
    let w := s.work
    let c := w.ctx k
    let sl := w.sslot c.sslot
    ∃ j ∈ w.armJob k,
    k ∉ s.dev.arm.dropped ∧
    let owner := fun (opc : Nat) (e : Exec) => w.exec? j.ring j.seq = some e ∧ e.ph = .wait ∧ dOpc e.desc = opc ∧ e.passed s.tb = false
    let alone := fun (e : Option Exec) => ∀ x ∈ s.dev.rings.execs, x.wants k = true → some x = e
    (∃ p, w.fillResult k = some (.ok p) ∧ (
    j.isFill = true ∧
    p.length ≤ 2048 * (sl.pagesOf (!c.half)).length ∧
    (sl.pagesOf (!c.half)).Nodup ∧
    ∃ e ∈ s.dev.rings.execs,
    ∃ l ∈ e.lanes,
    owner (dOpc e.desc) e ∧
    isStepOpc (dOpc e.desc) = true ∧
    e.lanes = [l] ∧
    l.stream = k ∧
    l.ph = .fill ∧
    alone (some e) ∧
    c.model = dModel e.desc ∧
    (l.egv = true → c.gen.toNat = l.expgen) ∧
    (∀ x ∈ s.dev.rings.execs, x.order < e.order → x.wants k = false))) := by
  have h : fill3.work.fillResult 40 = some (.ok payload40) := fill_opens _
  exact ⟨by decide +kernel, _, rfl, by decide +kernel, payload40, h, by decide +kernel⟩

/-- `f n`, with `n` evaluated first. -/
def force {α : Type} (n : Nat) (f : Nat → α) : α :=
  match n with
  | 0 => f 0
  | n + 1 => f (n + 1)

theorem force_eq {α : Type} (n : Nat) (f : Nat → α) : force n f = f n := by cases n <;> rfl

def crcRun : List Byte → Nat → Nat
  | [], c => c
  | b :: bs, c => force (crc32Bits 8 (c ^^^ b.toNat)) (crcRun bs)

theorem crc32_run (bs : List Byte) : crc32 bs = crcRun bs 0xFFFFFFFF ^^^ 0xFFFFFFFF := by
  have h : ∀ c, bs.foldl (fun c b => crc32Bits 8 (c ^^^ b.toNat)) c = crcRun bs c := by
    induction bs with
    | nil => exact fun _ => rfl
    | cons b bs ih => exact fun c => (ih _).trans (force_eq _ _).symm
  rw [crc32, h]

theorem meets_ErrorRecords_1 :
    let s := reg 0x518 0x40 ready
    let d : Dev := s.dev
    let codes : List (W16 × W32) := [(0x3102, 7), (0x2103, 5)]
    s.log.fatal = false ∧
    codes ≠ [] ∧
    codes.length ≤ 4 ∧
    (∀ c ∈ codes.head?, classOf c.1 = 8 → s.log.react.length < 16) ∧
    s.log.errq.length + codes.length ≤ 64 ∧
    s.log.errq = [] ∧
    (d.cfgW 0x518).getLsbD 6 = true := 
  ⟨by decide +kernel, by decide, by decide, fun c hc => by
    obtain rfl : _ = c := Option.some.inj hc
    decide +kernel, by decide +kernel, by decide +kernel, by decide +kernel⟩

theorem meets_ErrorRecords_2 :
    let s := { ready with log := { ready.log with errq := List.replicate 64 ⟨0, 0, 0, 0, false, false, false, true, 0, 0⟩ } }
    let codes : List (W16 × W32) := [(0x3102, 7), (0x2103, 5)]
    s.log.fatal = false ∧
    codes ≠ [] ∧
    codes.length ≤ 4 ∧
    (∀ c ∈ codes.head?, classOf c.1 = 8 → s.log.react.length < 16) ∧
    64 < s.log.errq.length + codes.length := 
  ⟨by decide +kernel, by decide, by decide, fun c hc => by
    obtain rfl : _ = c := Option.some.inj hc
    decide +kernel, by decide +kernel⟩

theorem meets_ErrorRecords_3 :
    let s := vopState (vop 0 1 1 1 2 1 3)
    let codes : List (W16 × W32) := [(0xF101, 0)]
    s.log.fatal = false ∧
    codes ≠ [] ∧
    codes.length ≤ 4 ∧
    (∀ c ∈ codes.head?, classOf c.1 = 8 → s.log.react.length < 16) ∧
    ∃ c ∈ codes.head?,
    c ∈ codes.head? ∧
    classOf c.1 = 15 := 
  ⟨by decide +kernel, by decide, by decide, fun c hc => by
    obtain rfl : _ = c := Option.some.inj hc
    decide +kernel, _, rfl, rfl, by decide +kernel⟩

theorem meets_ErrorRecords_4 :
    let s := vopState (vop 0 1 1 1 2 1 3)
    let codes : List (W16 × W32) := [(0x8105, 3)]
    s.log.fatal = false ∧
    codes ≠ [] ∧
    codes.length ≤ 4 ∧
    (∀ c ∈ codes.head?, classOf c.1 = 8 → s.log.react.length < 16) ∧
    ∃ c ∈ codes.head?,
    c ∈ codes.head? ∧
    (classOf c.1 = 8 ∨ classOf c.1 = 15) := 
  ⟨by decide +kernel, by decide, by decide, fun c hc => by
    obtain rfl : _ = c := Option.some.inj hc
    decide +kernel, _, rfl, rfl, by decide +kernel⟩

theorem meets_StartUp_2 :
    let s := State.reset
    let b : List Byte := keyRecord
    s.acts = true ∧
    s.dev.boot.state = 1 ∧
    s.dev.sec.unveiled = false ∧
    keyRecordOk b = true := by
  simp only [keyRecordOk, keyRecord, crc32_run]
  decide +kernel

theorem meets_ManagementRequests_12 :
    (∀ k m g, k = pub → g = List.replicate 64 3 → Config.ed25519Verify k m g = true) →
    let s := outstanding { reqOf (.job 1 0) with beats := 2 } (reading (.desc 0 1) 100 (begun (execOf (mgmtDesc 0x101 100 0) 1 1 [])
        (creds ready)))
    let port := 0
    let tag := 7
    let data : List Byte := (leBytes 4 1 ++ pub ++ List.replicate 64 3)
    let r := 0
    let k := 1
    let off := 0
    let w := s.work
    ∃ e ∈ w.exec? r k,
    ∃ x ∈ w.jobFor (.desc r k),
    ∃ q ∈ w.outstanding port tag,
    s.acts = true ∧
    q.user = .job x.j off ∧
    q.isWrite = false ∧
    q.merge = false ∧
    q.cancelled = false ∧
    s.dev.ports.jobs.find? (fun y => y.j == x.j) = some x ∧
    x.left = 1 ∧
    x.bad = false ∧
    e.passed s.tb = false ∧
    s.dev.sec.conf = false ∧
    dOpc e.desc = 0x40 ∧
    let b := { x with pieces := x.pieces ++ [(off, sliceAt data 0 (64 * q.beats))] }.bytes
    let func := dFunc e.desc
    func = 0x101 ∧
    let c := word32 b 0
    let key := sliceAt b 4 32
    let cred := nth (0, []) s.dev.sec.creds c
    let good := ∃ n ∈ s.dev.sec.nonces.find? (fun n => n.1 == r), n.2.1 = c ∧ c < 16 ∧ cred.1 ≠ 0 ∧ sha256 key = cred.2 ∧
        Config.ed25519Verify key (ascii "SQ32-AUTH-v1" ++ n.2.2 ++ [w8 r, w8 c]) (sliceAt b 36 64) = true
    good ∧
    w.ledgerOn = false := by
  intro hv
  exact ⟨_, rfl, _, rfl, _, rfl, by decide +kernel, rfl, rfl, rfl, rfl, by decide +kernel, by decide +kernel, by decide +kernel, by decide +kernel, by decide +kernel, by decide +kernel,
    by decide +kernel, ⟨_, rfl, by decide +kernel, by decide +kernel, by decide +kernel, by decide +kernel, hv _ _ _ (by decide +kernel) (by decide +kernel)⟩, by decide +kernel⟩

theorem meets_ManagementRequests_13 :
    (∀ k m g, k = pub → g = List.replicate 64 3 → Config.ed25519Verify k m g = true) →
    let s := outstanding { reqOf (.job 1 0) with beats := 2 } (reading (.desc 0 1) 100 (begun (execOf (mgmtDesc 0x101 100 0) 1 1 []) (creds
        (ledgerAt ready))))
    let port := 0
    let tag := 7
    let data : List Byte := (leBytes 4 1 ++ pub ++ List.replicate 64 3)
    let r := 0
    let k := 1
    let off := 0
    let w := s.work
    ∃ e ∈ w.exec? r k,
    ∃ x ∈ w.jobFor (.desc r k),
    ∃ q ∈ w.outstanding port tag,
    s.acts = true ∧
    q.user = .job x.j off ∧
    q.isWrite = false ∧
    q.merge = false ∧
    q.cancelled = false ∧
    s.dev.ports.jobs.find? (fun y => y.j == x.j) = some x ∧
    x.left = 1 ∧
    x.bad = false ∧
    e.passed s.tb = false ∧
    s.dev.sec.conf = false ∧
    dOpc e.desc = 0x40 ∧
    let b := { x with pieces := x.pieces ++ [(off, sliceAt data 0 (64 * q.beats))] }.bytes
    let func := dFunc e.desc
    func = 0x101 ∧
    let c := word32 b 0
    let key := sliceAt b 4 32
    let cred := nth (0, []) s.dev.sec.creds c
    let good := ∃ n ∈ s.dev.sec.nonces.find? (fun n => n.1 == r), n.2.1 = c ∧ c < 16 ∧ cred.1 ≠ 0 ∧ sha256 key = cred.2 ∧
        Config.ed25519Verify key (ascii "SQ32-AUTH-v1" ++ n.2.2 ++ [w8 r, w8 c]) (sliceAt b 36 64) = true
    good ∧
    w.ledgerOn = true := by
  intro hv
  exact ⟨_, rfl, _, rfl, _, rfl, by decide +kernel, rfl, rfl, rfl, rfl, by decide +kernel, by decide +kernel, by decide +kernel, by decide +kernel, by decide +kernel, by decide +kernel,
    by decide +kernel, ⟨_, rfl, by decide +kernel, by decide +kernel, by decide +kernel, by decide +kernel, hv _ _ _ (by decide +kernel) (by decide +kernel)⟩, by decide +kernel⟩

theorem meets_ManagementRequests_35 :
    (∀ b, Config.p256Valid b = true) →
    let s := mgmtReads 0x105 36 0 2 (bindingKeys (walled ready))
    let port := 0
    let tag := 7
    let data : List Byte := (leBytes 4 3 ++ List.replicate 32 2)
    let r := 0
    let k := 1
    let off := 0
    let w := s.work
    ∃ e ∈ w.exec? r k,
    ∃ x ∈ w.jobFor (.desc r k),
    ∃ q ∈ w.outstanding port tag,
    s.acts = true ∧
    q.user = .job x.j off ∧
    q.isWrite = false ∧
    q.merge = false ∧
    q.cancelled = false ∧
    s.dev.ports.jobs.find? (fun y => y.j == x.j) = some x ∧
    x.left = 1 ∧
    x.bad = false ∧
    e.passed s.tb = false ∧
    s.dev.sec.conf = false ∧
    dOpc e.desc = 0x40 ∧
    let b := { x with pieces := x.pieces ++ [(off, sliceAt data 0 (64 * q.beats))] }.bytes
    let func := dFunc e.desc
    ∃ p ∈ s.dev.sec.proposal,
    ∃ pair ∈ s.dev.sec.attest,
    func = 0x105 ∧
    p.item = 4 ∧
    p.id = word32 b 0 ∧
    e.cred ≠ p.cred ∧
    2 ≤ e.role ∧
    sliceAt b 4 32 = p.digest ∧
    w.commitReady 4 p.value = true := by
  intro hv
  simp only [Work.commitReady, hv]
  decide +kernel

/-- VFN of table 0 on a register of zeros, the tables as they ship. -/
def shippedScene : State :=
  Tests.core 0 (fun k => { k with tables := CoreTables.shipped }) (vopState (vop 29 0 0 0 0 9 3))

theorem meets_FunctionLookup_shipped :
    let s := shippedScene
    let p := 0
    let t := 1
    let word := vop 29 0 0 0 0 9 3
    s.issues p t .vfn word = true ∧
    ∃ c ∈ s.ctx? p,
    let k := s.core p
    let v := vopFields word
    ∃ b, k.tables.active v.vs2 = some b ∧
    v.vs2 < 4 ∧
    b = shippedImage v.vs2 ∧
    v.vs2 = 0 ∧
    b = shippedImage 0 ∧
    (k.vec.lane v.vs1 3) &&& 0x7FFFFFFF = 0 :=
  ⟨by decide +kernel, _, rfl, shippedImage 0, rfl, by decide +kernel, rfl, by decide +kernel, rfl, by decide +kernel⟩

-- Statements over every command ---------------------------------------------------------------------------------------------------

theorem meets_Resets_dark :
    let s := dark
    let i : Instr := .configWrite 8 5
    s.dev.boot.powered = false ∧ s.linesOk = true ∧ i ≠ .rstNRise ∧ i ≠ .rstNFall ∧ i ≠ .pwrOkFall := by
  decide +kernel

theorem meets_StepRunsFrontCommand : State.reset.pending = [] := rfl

theorem meets_StepKeepsSafeState :
    let s := { ready with pending := [.configWrite 8 5] }
    (∃ t, step s = .next t) ∧ s.safeState = true ∧ s.queueOk = true := ⟨⟨_, rfl⟩, by decide +kernel, by decide +kernel⟩

theorem meets_FatalErrorFreezes :
    let s := { fatal with pending := [.configWrite 8 5] }
    s.log.fatal = true ∧ (∃ t, step s = .next t) ∧ s.safeState = true ∧
      ∀ c ∈ s.pending.head?, c ≠ .rstNFall ∧ c ≠ .rstNRise ∧ c ≠ .pwrOkFall :=
  ⟨by decide +kernel, ⟨_, rfl⟩, by decide +kernel, by decide +kernel⟩

theorem meets_FatalErrorFreezes_safe :
    let s := safe { fatal with pending := [.configWrite 8 5] }
    s.log.fatal = true ∧ s.log.safe = true ∧ (∃ t, step s = .next t) := ⟨by decide +kernel, by decide +kernel, ⟨_, rfl⟩⟩

end Sys2Proof.Witness
end

/-! The REDUCE rows (R192 to R194). The model folds over the lane numbers, the statement over the values of the active lanes:
both are `reduced` over those values, and one lemma says so for all six rows. -/

namespace Sys2Proof.Machine

-- Reductions over the values of the lanes -----------------------------------------------------------------------------------

/-- The values folded in order from a start value, with the flags of every operation. -/
def foldFlags (op : W32 → W32 → W32 × Flags) (start : W32) (xs : List W32) : W32 × Flags :=
  xs.foldl (fun a x => ((op a.1 x).1, Flags.or a.2 (op a.1 x).2)) (start, Flags.none)

/-- The first value under the operation itself, the value of R192 where there is none. -/
def headStart (op : W32 → W32 → W32 × Flags) (start : W32) (xs : List W32) : W32 :=
  (xs.head?.map fun x => (op x x).1).getD start

/-- What `vopReduce` computes, in terms of the values of the active lanes. -/
def reduced (extreme : Bool) (start : W32) (op : W32 → W32 → W32 × Flags) (xs : List W32) : W32 × Flags :=
  foldFlags op (if extreme then headStart op start xs else start) xs

/-- An operation without flags folds to its plain fold without flags. -/
theorem foldFlags_noFlags (g : W32 → W32 → W32) (start : W32) (xs : List W32) :
    foldFlags (fun a b => noFlags (g a b)) start xs = (xs.foldl g start, Flags.none) := by
  induction xs generalizing start with
  | nil => rfl
  | cons x xs ih => exact ih (g start x)

/-- A least or greatest sets no flag (log entry 99). -/
theorem reduced_extreme_noFlags (g : W32 → W32 → W32) (start : W32) (xs : List W32) :
    reduced true start (fun a b => noFlags (g a b)) xs =
      (xs.foldl g ((xs.head?.map fun x => g x x).getD start), Flags.none) :=
  foldFlags_noFlags g _ xs

-- The model's reduction over the lane numbers ---------------------------------------------------------------------------------

theorem extremeStart_eq (vs : VecState) (vl : Nat) (v : VopF) (start : W32) (op : W32 → W32 → W32 × Flags) :
    extremeStart vs vl v start op =
      headStart op start ((active vs vl v.me v.msk).map fun l => vs.lane v.vs1 l) := by
  have hfirst : (active vs vl v.me v.msk).head? = lanes64.find? (laneActive vs vl v.me v.msk) :=
    List.head?_filter
  unfold extremeStart headStart
  rw [List.head?_map, hfirst]
  cases lanes64.find? (laneActive vs vl v.me v.msk) <;> rfl

theorem reduceLanes_eq (vs : VecState) (vl : Nat) (v : VopF) (start : W32) (op : W32 → W32 → W32 × Flags) :
    reduceLanes vs vl v start op =
      foldFlags op start ((active vs vl v.me v.msk).map fun l => vs.lane v.vs1 l) := by
  rw [foldFlags, List.foldl_map]
  rfl

/-- The lanes as `vopReduce` folds them are the values of the active lanes reduced. -/
theorem reduceLanes_start_eq (vs : VecState) (vl : Nat) (v : VopF) (extreme : Bool) (start : W32)
    (op : W32 → W32 → W32 × Flags) :
    reduceLanes vs vl v (if extreme then extremeStart vs vl v start op else start) op =
      reduced extreme start op ((active vs vl v.me v.msk).map fun l => vs.lane v.vs1 l) := by
  rw [reduceLanes_eq, extremeStart_eq, reduced]

-- The REDUCE rows ---------------------------------------------------------------------------------------------------------------

/-- The six REDUCE commands of a thread, each with its row (R192). -/
inductive ReduceCommand (p t : Nat) : Instr → Row → Prop
  | fsum : ReduceCommand p t (.reduceFsum p t) .rfsum
  | fmax : ReduceCommand p t (.reduceFmax p t) .rfmax
  | fmin : ReduceCommand p t (.reduceFmin p t) .rfmin
  | isum : ReduceCommand p t (.reduceIsum p t) .risum
  | imax : ReduceCommand p t (.reduceImax p t) .rimax
  | imin : ReduceCommand p t (.reduceImin p t) .rimin

/-- A VOP command whose row has a reduction is one of them. -/
theorem reduceCommand_of_reduction {i : Instr} {row : Row} {p t : Nat} {xs : List W32} {r : W32 × Flags}
    (hi : vopCommand i = some (row, p, t)) (hr : row.reduction xs = some r) : ReduceCommand p t i row := by
  cases i <;> simp only [vopCommand, Option.some.injEq, Prod.mk.injEq, reduceCtorEq] at hi <;>
    obtain ⟨rfl, rfl, rfl⟩ := hi <;> simp only [Row.reduction, reduceCtorEq] at hr <;> constructor

/-- The command runs `vopReduce`, and the row's reduction is what that computes over the values of the active lanes. -/
def ReducesBy (i : Instr) (row : Row) (p t : Nat) (extreme : Bool) (start : W32) (op : W32 → W32 → W32 × Flags) : Prop :=
  (∀ s, exec i s = run (instr row p t (vopReduce extreme start op p t)) s) ∧
    ∀ xs, row.reduction xs = some (reduced extreme start op xs)

/-- A sum runs from its start value; a least or greatest is the plain fold from its first lane and sets no flag. -/
theorem ReduceCommand.reducesBy {p t : Nat} {i : Instr} {row : Row} (h : ReduceCommand p t i row) :
    ∃ extreme start op, ReducesBy i row p t extreme start op := by
  cases h with
  | fsum => exact ⟨false, 0, f32Add, fun _ => rfl, fun _ => rfl⟩
  | fmax => exact ⟨true, negInf, _, fun _ => rfl, fun xs => (congrArg some (reduced_extreme_noFlags _ _ xs)).symm⟩
  | fmin => exact ⟨true, posInf, _, fun _ => rfl, fun xs => (congrArg some (reduced_extreme_noFlags _ _ xs)).symm⟩
  | isum => exact ⟨false, 0, intOp (· + ·), fun _ => rfl, fun _ => rfl⟩
  | imax =>
    refine ⟨true, 0x80000000, _, fun _ => rfl, fun xs => ?_⟩
    simp [reduced_extreme_noFlags, Row.reduction, BitVec.slt]
  | imin =>
    refine ⟨true, 0x7FFFFFFF, _, fun _ => rfl, fun xs => ?_⟩
    simp [reduced_extreme_noFlags, Row.reduction, BitVec.slt]

/-- A write of a scalar register leaves the thread running or not. -/
@[simp] theorem Thread.setReg_st (th : Thread) (r : Nat) (x : W32) : (th.setReg r x).st = th.st := by
  unfold Thread.setReg
  split <;> rfl

/-- The meaning of a REDUCE changes the flags of its core and one scalar register of its thread (R193, R194). -/
theorem vopReduce_done (extreme : Bool) (start : W32) (op : W32 → W32 → W32 × Flags) (p t word len : Nat) (c : Ctx)
    (w : Work) (hp : p < w.d.cores.length) :
    let k := w.core p
    let v := vopFields word
    let ls := active k.vec (w.thread p t).vl v.me v.msk
    let r := reduced extreme start op (ls.map fun l => k.vec.lane v.vs1 l)
    vopReduce extreme start op p t c word len w = (w.modCore p fun _ =>
      { k with flags := { k.flags.record r.2 with ps := k.flags.ps || ls.any fun l => k.vec.poisoned v.vs1 l } }.withThread t
        ((w.thread p t).setReg v.vd r.1)).done p t := by
  intro k v ls r
  unfold vopReduce
  simp only [reduceLanes_start_eq, anyPoison_eq, setPs_eq, modThread_eq, modCore_modCore, hp, if_true, List.any_cons,
    List.any_nil, Bool.or_false]
  rfl

/-- Settles O4: the row names the start value and the operation, and `vopReduce` over them gives the core that completes. -/
theorem vectorReduce : Obligations.VectorReduce := by
  unfold Obligations.VectorReduce
  intro i row p t word s r hi h k v ls bad hr
  obtain ⟨extreme, start, op, hexec, hred⟩ := (reduceCommand_of_reduction hi hr).reducesBy
  have hst := (issues_running h).1
  obtain rfl : reduced extreme start op (ls.map fun l => k.vec.lane v.vs1 l) = r :=
    Option.some.inj ((hred _).symm.trans hr)
  rw [hexec s]
  exact run_instr_reg row p t _ s word _ _ h (by simpa using hst)
    fun c _ => vopReduce_done extreme start op p t word 4 c s.work (running_core s.work p t hst)

end Sys2Proof.Machine

/-! BRATE_WINDOW_END in a safe state without a fatal error, and the samples of the timebase (R474 to R481). -/

namespace Sys2Proof.Machine

-- The gates of an acting block ----------------------------------------------------------------------------------------------------

theorem acts_fatal {s : State} (h : s.acts = true) : s.log.fatal = false := by
  simp only [State.acts, Bool.and_eq_true, Bool.not_eq_true'] at h
  obtain ⟨⟨hfatal, -⟩, -⟩ := h
  exact hfatal

theorem acts_powered {s : State} (h : s.acts = true) : s.dev.boot.powered = true := by
  simp only [State.acts, Bool.and_eq_true] at h
  obtain ⟨⟨-, hpowered⟩, -⟩ := h
  exact hpowered

/-- In the safe state a detector of errors does nothing (R609). -/
theorem watch_safe (f : Work → Work) (w : Work) (h : w.log.safe = true) : watch f w = w := by simp [watch, h]

/-- Outside the safe state a detector of an acting block has its whole effect. -/
theorem watch_acts (f : Work → Work) {s : State} (h : s.acts = true) (hsafe : s.log.safe = false) :
    watch f s.work = f s.work := by
  simp [watch, hsafe, acts_fatal h, acts_powered h]

/-- An acting block commits a change of units that leaves interrupts and configuration as they were as that change alone. -/
theorem commitWork_acts_dev {s : State} (h : s.acts = true) (d : Dev) (hirq : d.irq = s.dev.irq) (hcfg : d.cfg = s.dev.cfg) :
    commitWork s { s.work with d := d } = s.withDev d := by
  have hlines : s.dev.irq.lines = irqLines s.dev := of_decide_eq_true (acts_linesOk s h)
  exact commitWork_dev s d (by rw [hirq, hlines, irqLines_congr d s.dev hirq hcfg])

-- The end of a rate window (R474, R475) ---------------------------------------------------------------------------------------------

theorem exec_brateWindowEnd_acts (ns : List Nat) {s : State} (h : s.acts = true) :
    exec (.brateWindowEnd ns) s = .next (commitWork s (watch (brateWindowEnd ns) s.work)) := by
  have hgate : watchWindow (brateWindowEnd ns) s.work = watch (brateWindowEnd ns) s.work := by
    simp [watchWindow, acts_fatal h]
  exact congrArg (fun w => Host.Outcome.next (commitWork s w)) hgate

/-- A spoilt window that has passed opens the window of the millisecond and does no more (R475). -/
theorem brateWindowEnd_spoilt (ns : List Nat) (w : Work) (hn : w.d.cal.window < w.now / 1000000) (ht : w.d.cal.taint = true) :
    brateWindowEnd ns w = w.modCal fun c => { c with window := w.now / 1000000, taint := !w.tb.valid || w.tb.held } := by
  simp [brateWindowEnd, ht, Nat.not_le.mpr hn]

/-- An acting block discards a spoilt window that has passed exactly outside the safe state. -/
theorem exec_brateWindowEnd_discards_iff (ns : List Nat) {s : State} (h : s.acts = true)
    (hn : s.dev.cal.window < s.tb.now.toNat / 1000000) (ht : s.dev.cal.taint = true) :
    exec (.brateWindowEnd ns) s = .next (s.withDev { s.dev with
      cal := { s.dev.cal with window := s.tb.now.toNat / 1000000, taint := !s.tb.valid || s.tb.held } }) ↔
      s.log.safe = false := by
  rw [exec_brateWindowEnd_acts ns h]
  cases hsafe : s.log.safe with
  | true =>
    rw [watch_safe _ _ hsafe, commitWork_self s (acts_linesOk s h)]
    have hmoved : s.dev.cal.window ≠ s.tb.now.toNat / 1000000 := Nat.ne_of_lt hn
    refine iff_of_false (fun he => hmoved ?_) Bool.false_ne_true.symm
    injection he with hs
    exact congrArg (fun u : State => u.dev.cal.window) hs
  | false =>
    rw [watch_acts _ h hsafe, brateWindowEnd_spoilt ns s.work hn ht]
    exact iff_of_true (congrArg Host.Outcome.next (commitWork_acts_dev h _ rfl rfl)) rfl

/-- The block as it starts, one millisecond on, in the safe state without a fatal error: its first rate window is spoilt. -/
def safeWithoutFatal : State :=
  { State.reset with
    tb := { Timebase.reset with now := 1000000 }
    log := { ErrLog.reset with safe := true } }

/-- Refutes O23: the clause of a spoilt window lacks the premise that the block is not in the safe state, which the comparisons
have. `State.acts` asks only that no fatal error is held, and in the safe state BRATE_WINDOW_END does nothing (R609). The
counterexample is in the statement's range but out of a run's reach: the model's events enter the safe state only with a fatal
error held. -/
theorem not_calipersAndTrims : ¬ Obligations.CalipersAndTrims := by
  unfold Obligations.CalipersAndTrims
  rintro ⟨-, hrates⟩
  have hacts : safeWithoutFatal.acts = true := by decide +kernel
  have hpassed : safeWithoutFatal.dev.cal.window < safeWithoutFatal.tb.now.toNat / 1000000 := by decide +kernel
  obtain ⟨-, -, -, hspoilt, -⟩ := hrates 0 [] safeWithoutFatal hacts
  have hsafe : safeWithoutFatal.log.safe = false :=
    (exec_brateWindowEnd_discards_iff [] hacts hpassed rfl).mp (hspoilt hpassed rfl)
  exact Bool.false_ne_true hsafe.symm

-- Samples of the timebase (R479 to R481) --------------------------------------------------------------------------------------------

/-- The units with the rate window in progress spoilt (R475). -/
def Dev.spoilt (d : Dev) : Dev := { d with cal := { d.cal with taint := true } }

theorem Timebase.sample_invalid (t : Timebase) (ns : W64) : t.sample ns false = ({ t with valid := false }, false) := rfl

theorem Timebase.sample_taken (t : Timebase) (ns : W64) (h : t.now.toNat ≤ ns.toNat) :
    t.sample ns true = ({ t with now := ns, valid := true, held := false, invalid := false }, false) := by
  simp [Timebase.sample, h]

theorem Timebase.sample_below_held (t : Timebase) (ns : W64) (h : ns.toNat < t.now.toNat) (hh : t.held = true) :
    t.sample ns true = ({ t with valid := true, invalid := false }, false) := by
  simp [Timebase.sample, Nat.not_le.mpr h, hh]

theorem Timebase.sample_below (t : Timebase) (ns : W64) (h : ns.toNat < t.now.toNat) (hh : t.held = false) :
    t.sample ns true =
      ({ t with valid := true, held := true, invalid := false, steps := min 65535 (t.steps + 1) }, true) := by
  simp [Timebase.sample, Nat.not_le.mpr h, hh, satAdd]

theorem sampleEffects_taken (t : Timebase) (w : Work) (hv : t.valid = true) (hh : t.held = false) :
    sampleEffects t false w = w := by
  simp [sampleEffects, hv, hh]

/-- A sample that leaves the timebase invalid or held spoils the rate window; a backward step is logged besides. -/
theorem sampleEffects_spoils (t : Timebase) (back : Bool) (w : Work) (h : t.valid = false ∨ t.held = true) :
    sampleEffects t back w = if back then (w.mod Dev.spoilt).logCode 0x5104 0 else w.mod Dev.spoilt := by
  have hs : (!t.valid || t.held) = true := by simpa using h
  simp only [sampleEffects, hs, if_true]
  rfl

/-- An acting block takes a sample: the new timebase beside the commit of the sample's effects. -/
theorem exec_timebaseUpdate_acts {s : State} (h : s.acts = true) {ns : Nat} {valid back : Bool} {t : Timebase}
    (ht : s.tb.sample (BitVec.ofNat 64 ns) valid = (t, back)) :
    exec (.timebaseUpdate ns valid) s = .next { commitWork s (sampleEffects t back s.work) with tb := t } := by
  change Host.Outcome.next (timebaseUpdate ns valid s) = _
  simp [timebaseUpdate, acts_powered h, ht]

/-- A sample that is no backward step and leaves the timebase invalid or held spoils the window and raises nothing. -/
theorem exec_timebaseUpdate_spoils {s : State} (h : s.acts = true) {ns : Nat} {valid : Bool} {t : Timebase}
    (ht : s.tb.sample (BitVec.ofNat 64 ns) valid = (t, false)) (hs : t.valid = false ∨ t.held = true) :
    exec (.timebaseUpdate ns valid) s = .next { s.withDev s.dev.spoilt with tb := t } := by
  have hcommit : commitWork s (s.work.mod Dev.spoilt) = s.withDev s.dev.spoilt := commitWork_acts_dev h _ rfl rfl
  rw [exec_timebaseUpdate_acts h ht, sampleEffects_spoils t false _ hs, if_neg Bool.false_ne_true, hcommit]

/-- A backward step spoils the window and raises TB_STEP (R480). -/
theorem exec_timebaseUpdate_backward {s : State} (h : s.acts = true) {ns : Nat} {valid : Bool} {t : Timebase}
    (ht : s.tb.sample (BitVec.ofNat 64 ns) valid = (t, true)) (hs : t.valid = false ∨ t.held = true) :
    exec (.timebaseUpdate ns valid) s = .next { s.after s.dev.spoilt [raised [(0x5104, 0)] none] with tb := t } := by
  rw [exec_timebaseUpdate_acts h ht, sampleEffects_spoils t true _ hs]
  rfl

/-- Is a ring, of submission or completion, enabled? -/
def Dev.anyRingOn (d : Dev) : Bool :=
  (List.range 64).any fun r => bit (d.cfgW (sqBase r + 8)) 31 || bit (d.cfgW (cqBase r + 8)) 31

theorem Dev.anyRingOn_of_enabled {d : Dev} {r : Nat} (hr : r < 64)
    (h : bit (d.cfgW (0x1008 + 32 * r)) 31 = true ∨ bit (d.cfgW (0x2008 + 16 * r)) 31 = true) : d.anyRingOn = true := by
  have hsq : sqBase r + 8 = 0x1008 + 32 * r := by unfold sqBase; omega
  have hcq : cqBase r + 8 = 0x2008 + 16 * r := by unfold cqBase; omega
  exact List.any_eq_true.mpr ⟨r, List.mem_range.mpr hr, by simpa [hsq, hcq] using h⟩

/-- TB_INVALID with a ring enabled, once for each loss of tb_valid (R481). -/
theorem exec_tbInvalid_acts {s : State} (h : s.acts = true) (hsafe : s.log.safe = false) (hv : s.tb.valid = false)
    (hi : s.tb.invalid = false) (hon : s.dev.anyRingOn = true) :
    exec .tbInvalid s = .next { s.after s.dev [raised [(0x5103, 0)] none] with tb := { s.tb with invalid := true } } := by
  have hgate : (s.tb.valid || s.tb.invalid || !s.dev.boot.powered || !s.dev.anyRingOn) = false := by
    simp [hv, hi, acts_powered h, hon]
  change Host.Outcome.next (if (s.tb.valid || s.tb.invalid || !s.dev.boot.powered || !s.dev.anyRingOn) = true then s
    else { commitWork s (watch (fun w => w.logCode 0x5103 0) s.work) with tb := { s.tb with invalid := true } }) = _
  rw [hgate, if_neg Bool.false_ne_true, watch_acts _ h hsafe]
  rfl

/-- Settles O24: what `Timebase.sample` makes of the sample names its effects on the units and the log. -/
theorem timebaseSamples : Obligations.TimebaseSamples := by
  unfold Obligations.TimebaseSamples
  intro ns s h hns spoilt
  have hval : (BitVec.ofNat 64 ns).toNat = ns := by rw [BitVec.toNat_ofNat, Nat.mod_eq_of_lt hns]
  refine ⟨?invalid, fun hle => ?taken, fun hlt => ⟨fun hheld => ?held, fun hheld => ?backward⟩, ?raises⟩
  case invalid => exact exec_timebaseUpdate_spoils h (s.tb.sample_invalid _) (.inl rfl)
  case taken =>
    rw [exec_timebaseUpdate_acts h (s.tb.sample_taken _ (hval.symm ▸ hle)), sampleEffects_taken _ _ rfl rfl,
      commitWork_self s (acts_linesOk s h)]
  case held =>
    exact exec_timebaseUpdate_spoils h (s.tb.sample_below_held _ (hval.symm ▸ hlt) hheld) (.inr hheld)
  case backward =>
    exact exec_timebaseUpdate_backward h (s.tb.sample_below _ (hval.symm ▸ hlt) hheld) (.inr rfl)
  case raises =>
    rintro hv hi hsafe ⟨r, hr, hon⟩
    exact exec_tbInvalid_acts h hsafe hv hi (Dev.anyRingOn_of_enabled hr hon)

end Sys2Proof.Machine
